-- ==== Sys2Proof/Word.lean ====
section
/-!
DEFINITION. The word types of the OZW-7400 (spec/01 R13, spec/13 R166): names for the widths that the manual uses, and
nothing else. Bit-field and byte-order helpers stand in Machine/Bits.lean.
-/

namespace Sys2Proof

/-- A byte of memory. -/
abbrev Byte := BitVec 8
/-- A half of two bytes. -/
abbrev Half := BitVec 16
/-- A vector element's container, an accumulator entry, an F32 encoding (R85). -/
abbrev W32 := BitVec 32
/-- A scalar register, an operation word, an address as it is computed (R85, R140). -/
abbrev W64 := BitVec 64
/-- One bit per lane, lane 64i + j of element (i, j) (R166). -/
abbrev LaneMask := BitVec 1024
/-- A vector register: 16 rows of 64 elements, lane 64i + j first to last (R166). -/
abbrev VReg := Vector (BitVec 32) 1024

end Sys2Proof
end

