-- ==== Sys2Proof/Syntax.lean ====
section
/-!
DEFINITION. The instruction syntax: one record per format of spec/05 (R50 to R63), holding every bit of [47:0] of the word,
reserved fields included, and Instr with one constructor per row of spec/opcode_table.json. Operations of bundles carry
their format record; the camp extension carries its register numbers (R345); the device's own events (spec/95) carry
what names the unit they act in.
-/

namespace Sys2Proof

/-- SQ format (R50). -/
structure SQ where
  cq : BitVec 2
  lvl : BitVec 3
  reg : BitVec 6
  imm5 : BitVec 5
  off : BitVec 32
  deriving DecidableEq, Repr

/-- LOOPI's layout of the SQ bits (R50): a trip count of 11 bits. -/
structure SLoopi where
  cq : BitVec 2
  lvl : BitVec 3
  trip : BitVec 11
  off : BitVec 32
  deriving DecidableEq, Repr

/-- REP's layout of the SQ bits (R50, R51): count minus one and the step control. -/
structure SRep where
  cnt : BitVec 6
  step : BitVec 6
  rsv : BitVec 36
  deriving DecidableEq, Repr

/-- SR format (R52). -/
structure SR where
  d : BitVec 6
  a : BitVec 6
  b : BitVec 6
  c : BitVec 6
  cc : BitVec 4
  rsv : BitVec 20
  deriving DecidableEq, Repr

/-- SI format (R54). -/
structure SI where
  d : BitVec 6
  a : BitVec 6
  imm : BitVec 36
  deriving DecidableEq, Repr

/-- SM format (R55). -/
structure SM where
  data : BitVec 6
  base : BitVec 6
  off : BitVec 20
  space : BitVec 3
  size : BitVec 2
  ac : BitVec 2
  ord : BitVec 3
  scope : BitVec 3
  fe : BitVec 2
  rsv : BitVec 1
  deriving DecidableEq, Repr

/-- VR format (R57). -/
structure VR where
  vd : BitVec 5
  va : BitVec 5
  vb : BitVec 5
  vc : BitVec 5
  type : BitVec 3
  na : BitVec 1
  aa : BitVec 1
  nb : BitVec 1
  ab : BitVec 1
  nc : BitVec 1
  ac : BitVec 1
  fi : BitVec 1
  fo : BitVec 1
  clamp : BitVec 2
  scale : BitVec 4
  mask : BitVec 3
  rnd : BitVec 2
  aux : BitVec 6
  deriving DecidableEq, Repr

/-- VM format (R59). -/
structure VM where
  vd : BitVec 5
  base : BitVec 6
  off : BitVec 20
  space : BitVec 3
  mtype : BitVec 3
  pat : BitVec 3
  fe : BitVec 2
  ac : BitVec 2
  layout : BitVec 2
  rsv : BitVec 2
  deriving DecidableEq, Repr

/-- MC format (R61). -/
structure MC where
  wp : BitVec 1
  wn : BitVec 1
  sp : BitVec 1
  sn : BitVec 1
  guard : BitVec 3
  a : BitVec 6
  b : BitVec 6
  c : BitVec 6
  aux : BitVec 23
  deriving DecidableEq, Repr

/-- CC format (R62); the four token bits are WP, WN, SP, SN from high to low. -/
structure CC where
  wp : BitVec 1
  wn : BitVec 1
  sp : BitVec 1
  sn : BitVec 1
  guard : BitVec 3
  dst : BitVec 6
  src : BitVec 6
  len : BitVec 6
  bar : BitVec 6
  tokd : BitVec 6
  ac : BitVec 2
  rscope : BitVec 3
  flags : BitVec 6
  deriving DecidableEq, Repr

/-- TS format (R63). -/
structure TS where
  a : BitVec 6
  b : BitVec 6
  d : BitVec 6
  imm : BitVec 30
  deriving DecidableEq, Repr

/-- What a KILL command names (R320, R368): a context, or the TASKID of a saved or queued unit. -/
inductive KillTarget where
  | context (core x : Nat)
  | task (id : W64)
  deriving DecidableEq, Repr

/-- One constructor per row of spec/opcode_table.json. The device's own events take no fields: what they act in (a core, a
context, a strand, a command, an access) stands in the state's cursor when the step reaches them; they come last. -/
inductive Instr where
  | nop (f : SQ)
  | br (f : SQ)
  | call (f : SQ)
  | ret (f : SQ)
  | bri (f : SQ)
  | brcT (f : SQ)
  | brcF (f : SQ)
  | loop (f : SQ)
  | loopi (f : SLoopi)
  | lcrd (f : SQ)
  | lcwr (f : SQ)
  | rep (f : SRep)
  | fork (f : TS)
  | join (f : TS)
  | cbset (f : TS)
  | cbclr (f : TS)
  | cbwait (f : TS)
  | cqpush (f : TS)
  | cqpop (f : TS)
  | cqcnt (f : TS)
  | gsetQ (f : TS)
  | gsetS (f : TS)
  | gclr (f : TS)
  | waitcnt (f : TS)
  | fenceAll (f : TS)
  | fence (f : TS)
  | phase (f : TS)
  | csrr (f : SI)
  | csrw (f : SI)
  | csrs (f : SI)
  | csrc (f : SI)
  | trap (f : TS)
  | tret (f : TS)
  | halt (f : TS)
  | clkdiv (f : TS)
  | clkmode (f : TS)
  | discard (f : TS)
  | acclive (f : TS)
  | add (f : SR)
  | sub (f : SR)
  | and (f : SR)
  | or (f : SR)
  | xor (f : SR)
  | andn (f : SR)
  | shl (f : SR)
  | shr (f : SR)
  | sar (f : SR)
  | min (f : SR)
  | max (f : SR)
  | minu (f : SR)
  | maxu (f : SR)
  | addi (f : SI)
  | andi (f : SI)
  | ori (f : SI)
  | xori (f : SI)
  | shli (f : SI)
  | shri (f : SI)
  | sari (f : SI)
  | li (f : SI)
  | lih (f : SI)
  | mul (f : SR)
  | mulh (f : SR)
  | mulhu (f : SR)
  | mad (f : SR)
  | div (f : SR)
  | divu (f : SR)
  | rem (f : SR)
  | remu (f : SR)
  | cmp (f : SR)
  | cmpq (f : SR)
  | clz (f : SR)
  | ctz (f : SR)
  | popc (f : SR)
  | bfe (f : SR)
  | bfi (f : SR)
  | brev (f : SR)
  | sel (f : SR)
  | fadd (f : SR)
  | fsub (f : SR)
  | fmul (f : SR)
  | fmin (f : SR)
  | fmax (f : SR)
  | ffma (f : SR)
  | fcmp (f : SR)
  | fcmpq (f : SR)
  | fcvt (f : SR)
  | fclass (f : SR)
  | ld (f : SM)
  | st (f : SM)
  | amoadd (f : SM)
  | amoand (f : SM)
  | amoor (f : SM)
  | amoxor (f : SM)
  | amomin (f : SM)
  | amomax (f : SM)
  | amominu (f : SM)
  | amomaxu (f : SM)
  | amoswp (f : SM)
  | amocas (f : SM)
  | amofadd (f : SM)
  | feset (f : SM)
  | feclr (f : SM)
  | feq (f : SM)
  | pooladd (f : SR)
  | poolmax (f : SR)
  | poolred (f : SR)
  | poolfill (f : SR)
  | extq (f : SR)
  | vadd (f : VR)
  | vsub (f : VR)
  | vmul (f : VR)
  | vmin (f : VR)
  | vmax (f : VR)
  | vand (f : VR)
  | vor (f : VR)
  | vxor (f : VR)
  | vshl (f : VR)
  | vshr (f : VR)
  | vsar (f : VR)
  | vfma (f : VR)
  | vcmp (f : VR)
  | vcmpqAny (f : VR)
  | vcmpqAll (f : VR)
  | vsel (f : VR)
  | vcvt (f : VR)
  | vmov (f : VR)
  | vmovs (f : VR)
  | vmovx (f : VR)
  | viota (f : VR)
  | mand (f : VR)
  | mor (f : VR)
  | mxor (f : VR)
  | mnot (f : VR)
  | mpop (f : VR)
  | vquant (f : VR)
  | vdeq (f : VR)
  | vrotR (f : VR)
  | vrotC (f : VR)
  | vbcR (f : VR)
  | vbcC (f : VR)
  | vredR (f : VR)
  | vredC (f : VR)
  | vshuf (f : VR)
  | vsfu (f : VR)
  | vsftab (f : VR)
  | vld (f : VM)
  | vst (f : VM)
  | vldx (f : VM)
  | vstx (f : VM)
  | vlda (f : VM)
  | vsta (f : VM)
  | vstr (f : VM)
  | vstrRel (f : VM)
  | bfxp (f : VM)
  | mxloop (f : MC)
  | mxaddr (f : MC)
  | mxfmt (f : MC)
  | mxidx (f : MC)
  | mxwld (f : MC)
  | mxwstrm (f : MC)
  | mxgo (f : MC)
  | mxzero (f : MC)
  | mxdrain (f : MC)
  | mxnorm (f : MC)
  | msbuild (f : MC)
  | mxsmp (f : MC)
  | mxstat (f : MC)
  | cpin (f : CC)
  | cpout (f : CC)
  | cp2d (f : CC)
  | cpmc (f : CC)
  | cprs (f : CC)
  | barinit (f : CC)
  | barexp (f : CC)
  | barwait (f : CC)
  | barwaitT (f : CC)
  | barq (f : CC)
  | tokwait (f : CC)
  | toktest (f : CC)
  | cpcan (f : CC)
  | spawn (f : TS)
  | spawnD (f : TS)
  | spawnop (f : TS)
  | tend (f : TS)
  | tcont (f : TS)
  | tyield (f : TS)
  | tstat (f : TS)
  | jcnew (f : TS)
  | jcadd (f : TS)
  | mbrecv (f : TS)
  | mbsend (f : TS)
  | mbstat (f : TS)
  | mbPost (rd rs1 rs2 : BitVec 5)
  | mbTake (rd rs1 : BitVec 5)
  | mbPeek (rd : BitVec 5)
  | epSwitch (rd rs1 rs2 : BitVec 5)
  | epWdset (rd rs1 : BitVec 5)
  | epEnd (rd : BitVec 5)
  | claim (master : BitVec 8) (nonce : BitVec 64)
  | claimpri (master : BitVec 8) (pri : BitVec 64)
  | ownerRelease (master : BitVec 8) (successor : BitVec 8)
  | controlBlockWrite (master : BitVec 8) (offset : Nat) (value : BitVec 64)
  | loadImage (host : Nat) (size : Nat)
  | config (host : Nat)
  | setPolver (die : Nat) (version : BitVec 16)
  | resume (core : Nat) (x : Nat)
  | kill (target : KillTarget) (reason : BitVec 64)
  | preempt (core : Nat) (x : Nat)
  | loadCamp (die : Nat) (camp : Nat) (host : Nat)
  | migrate (page : Nat) (device : Nat)
  | migrationComplete (page : Nat)
  | settleExpiry (page : Nat)
  | attest (nonce : BitVec 256) (host : Nat)
  | faultReply (tag : BitVec 64) (refused : Bool)
  | releaseSave (addr : Nat)
  | coldReset (strap : BitVec 1)
  | hostBar2Access (pa : Nat) (write : Option (List (BitVec 8))) (len : Nat)
  | skornLinkFailure (port : Nat)
  | pseudoChannelRetire (stack : Nat) (pc : Nat)
  | retirementSwitch (stack : Nat) (pc : Nat)
  | mxcadWrite (core : Nat) (value : Nat)
  | powerMonitorReport (milliwatts : Nat)
  | backstopHoldEnd (core : Nat)
  | thermalAlert (die : Nat) (sensor : Nat) (threshold : Nat) (upward : Bool)
  | supplyDroop (core : Nat) (domain : Nat)
  | retentionEntry (cluster : Nat)
  | retentionExit (cluster : Nat) (parity : List (Nat × Nat × BitVec 6))
  | clusterGate (cluster : Nat)
  | clusterWake (cluster : Nat)
  | campCoreInstruction (w : BitVec 32)
  | unassignedEncoding (w : BitVec 64)
  | hostPortUncorrectableError (core : Nat) (cmd : Nat)
  | repRepeatIssue
  | tretResume
  | clkdivApply
  | clockModeSwitchDone
  | sfuTableReady
  | barwaitTimeout
  | blockAccept
  | taskEnd
  | watchdogExpiry
  | writebackLand
  | variableResultLand
  | destinationAccept
  | completionWaitEnd
  | crossingDrainEnd
  | secondaryStarvationRelief
  | engineCommandStart
  | matrixReloadDone
  | matrixPassInject
  | matrixPassLand
  | matrixRowStep
  | matrixCommandComplete
  | weightLoadComplete
  | mxsmpSample
  | mxsmpCheck
  | copyBlockArrival
  | copyPageFault
  | copyCommandComplete
  | networkPortAccess
  | poolBankAccess
  | deviceMemoryAccess
  | postedFaultTaken
  | dispatch
  | schedulerPreempt
  | contextSave
  | contextRestore
  | faultRecordWrite
  | joinCounterDecrement
  | walkerStepPush
  | spillReturn
  | neighbourAveraging
  | workUnitArrival
  | electionWindowEnd
  | start
  | warmReset
  | memready
  | powerBackstop
  deriving DecidableEq, Repr

/-- A word of a bundle as it is issued (R46): last-word bit, slot, region bit and operation. -/
structure OpWord where
  e : BitVec 1
  slot : BitVec 3
  x : BitVec 1
  op : Instr
  deriving DecidableEq, Repr

end Sys2Proof
end

