-- ==== Sys2Proof/Machine/Bits.lean ====
section
/-!
DEFINITION. Bit-field, sign-extension and byte-order helpers (spec/00 R4, R7): the one place where a field is cut out of
a word, a value is read as signed, and bytes are put in little-endian order.
-/

namespace Sys2Proof.Machine

/-- Bits [lo + w - 1 : lo] of `v` (R4). -/
def field {n : Nat} (v : BitVec n) (lo w : Nat) : BitVec w := BitVec.ofNat w (v.toNat / 2 ^ lo)

/-- Bit `i` of `v` (R4). -/
def bitAt {n : Nat} (v : BitVec n) (i : Nat) : Bool := v.getLsbD i

/-- One bit from a truth value. -/
def ofBool1 (b : Bool) : BitVec 1 := if b then 1#1 else 0#1

/-- sext(v, n) of R7 into 64 bits. -/
def sext64 {n : Nat} (v : BitVec n) : W64 := v.signExtend 64

/-- zext of R7 into 64 bits. -/
def zext64 {n : Nat} (v : BitVec n) : W64 := v.setWidth 64

/-- The n low bits of x read as a signed integer (R7). -/
def sextInt (x n : Nat) : Int := (BitVec.ofNat n x).toInt

/-- The integer x reduced mod 2^n (R7, R87 wrap). -/
def wrapNat (x : Int) (n : Nat) : Nat := (x % (2 : Int) ^ n).toNat

/-- The n bytes of v, least significant first (R4). -/
def toBytes : (n v : Nat) → List Byte
  | 0, _ => []
  | n + 1, v => BitVec.ofNat 8 v :: toBytes n (v / 256)

/-- The value of a run of bytes, least significant first (R4). -/
def ofBytes : List Byte → Nat
  | [] => 0
  | b :: bs => b.toNat + 256 * ofBytes bs

/-- The numbers 0 to n − 1. -/
def upTo (n : Nat) : List Nat := List.range n

/-- The signed reading of a 64-bit value (R4). -/
def signed (v : W64) : Int := v.toInt

/-- The number of one bits below position n of v. -/
def popCount {w : Nat} (v : BitVec w) : Nat → Nat
  | 0 => 0
  | n + 1 => popCount v n + (if v.getLsbD n then 1 else 0)

/-- The positions below n of the one bits of v, ascending. -/
def bitsOf {w : Nat} (v : BitVec w) (n : Nat) : List Nat := (upTo n).filter fun i => v.getLsbD i

/-- A set of numbers below w as a bit vector. -/
def setOf {w : Nat} (l : List Nat) : BitVec w := l.foldl (fun a i => a ||| BitVec.ofNat w (2 ^ i)) 0

/-- The least element of a list, or d. -/
def leastOr (d : Nat) : List Nat → Nat
  | [] => d
  | x :: xs => xs.foldl min x

/-- Ceiling of a quotient. -/
def ceilDiv (a b : Nat) : Nat := (a + b - 1) / b

/-- A table keyed by numbers: the entry of k, or d. -/
def lookupD {α : Type} (d : α) (m : List (Nat × α)) (k : Nat) : α :=
  match m with
  | [] => d
  | (j, v) :: r => if j = k then v else lookupD d r k

/-- A table keyed by numbers with the entry of k replaced. -/
def insertKey {α : Type} (m : List (Nat × α)) (k : Nat) (v : α) : List (Nat × α) :=
  match m with
  | [] => [(k, v)]
  | (j, w) :: r => if j = k then (k, v) :: r else if k < j then (k, v) :: (j, w) :: r else (j, w) :: insertKey r k v

/-! ### Lists -/

/-- An element put before the first one with a greater key. -/
def insertOn {α : Type} (f : α → Nat) (a : α) : List α → List α
  | [] => [a]
  | b :: r => if f a < f b then a :: b :: r else b :: insertOn f a r

/-- A list sorted by a key; equal keys keep their order. -/
def sortOn {α : Type} (f : α → Nat) (l : List α) : List α := l.foldl (fun r a => insertOn f a r) []

end Sys2Proof.Machine
end

