-- ==== Sys2Proof/WellFormed.lean ====
section
/-!
DEFINITION. Well-formed operations: the slot set of each major (R64) and the reserved-field and reserved-code checks of check
3.4 of R66, from R49 to R63 and the operation entries. A field that an entry does not use is reserved (R49).
-/

namespace Sys2Proof

open Sys2Proof.Machine

/-- A compare code with an integer meaning (R53). -/
def ccInt (c : BitVec n) : Bool := decide (c.toNat ≤ 9)

/-- A compare code with a floating-point meaning (R53). -/
def ccFloat (c : BitVec n) : Bool :=
  decide (c.toNat ≤ 3 ∨ c.toNat = 6 ∨ c.toNat = 7 ∨ c.toNat = 10 ∨ c.toNat = 11)

/-- The CSR numbers of R69. -/
def csrListed (n : Nat) : Bool :=
  decide (n ≤ 0x004 ∨ n = 0x008 ∨ (0x010 ≤ n ∧ n ≤ 0x018) ∨ (0x020 ≤ n ∧ n ≤ 0x023) ∨ (0x030 ≤ n ∧ n ≤ 0x033)
    ∨ (0x040 ≤ n ∧ n ≤ 0x043) ∨ n = 0x050 ∨ (0x060 ≤ n ∧ n ≤ 0x063))

/-- The CSR number of a CSR operation is listed and bits [35:12] are zero (R54, R69, R119). -/
def csrOk (f : SI) : Bool := csrListed (field f.imm 0 12).toNat && decide (f.imm.toNat / 4096 = 0)

/-- The SQ fields CQ and IMM5 are zero. -/
def SQ.plain (f : SQ) : Bool := decide (f.cq = 0#2 ∧ f.imm5 = 0#5)

/-- A TS word whose three registers are reserved and whose immediate has n used bits. -/
def TS.immOnly (f : TS) (n : Nat) : Bool := decide (f.a = 0#6 ∧ f.b = 0#6 ∧ f.d = 0#6 ∧ f.imm.toNat < 2 ^ n)

/-- An SR word with C, CC and the low bits reserved. -/
def SR.dab (f : SR) : Bool := decide (f.c = 0#6 ∧ f.cc = 0#4 ∧ f.rsv = 0#20)

/-- An SR word with B, C, CC and the low bits reserved. -/
def SR.da (f : SR) : Bool := f.dab && decide (f.b = 0#6)

/-- The SM combinations that R55 and R56 allow, for a load, a store or an atomic. -/
def SM.common (f : SM) (load store atomic : Bool) : Bool :=
  decide (f.space.toNat ≤ 4 ∧ f.ord.toNat ≤ 4 ∧ f.scope.toNat ≤ 4 ∧ f.fe ≠ 3#2 ∧ f.rsv = 0#1)
    && decide (f.ord = 0#3 → f.scope = 0#3)
    && (decide (f.ord ≠ 4#3) || atomic)
    && !(store && decide (f.ord = 1#3)) && !(load && decide (f.ord = 2#3))
    && decide (f.fe ≠ 0#2 → f.space = 0#3 ∧ f.ord = 0#3)
    && !(store && decide (f.fe = 2#2))

/-- R155: what LD and ST accept. -/
def SM.loadStoreOk (f : SM) (store : Bool) : Bool :=
  f.common (!store) store false
    && decide (f.space = 1#3 → (f.size = 2#2 ∨ f.size = 3#2) ∧ f.ord = 0#3)

/-- R157: what the atomics accept; `word` for AMOFADD, `even` for AMOCAS. -/
def SM.amoOk (f : SM) (word even : Bool) : Bool :=
  f.common false false true
    && decide (f.size = 2#2 ∨ f.size = 3#2) && (!word || decide (f.size = 2#2))
    && decide (f.space = 1#3 → f.size = 2#2)
    && decide (f.space.toNat ≤ 1 → f.ord = 0#3) && decide (1 < f.space.toNat → f.ord ≠ 0#3)
    && decide (f.fe = 0#2) && (!even || decide (f.data.toNat % 2 = 0))

/-- R160: what FESET, FECLR and FEQ accept. -/
def SM.feOk (f : SM) : Bool :=
  decide (f.space = 0#3 ∧ f.size = 0#2 ∧ f.ord = 0#3 ∧ f.scope = 0#3 ∧ f.fe = 0#2 ∧ f.rsv = 0#1)

/-- TYPE names a floating-point type (R168). -/
def VR.isFloat (f : VR) : Bool := decide (f.type.toNat ≤ 1)

/-- Bits [24:11] and [7:6] are zero (R58). -/
def VR.noMods (f : VR) : Bool :=
  decide (f.na = 0#1 ∧ f.aa = 0#1 ∧ f.nb = 0#1 ∧ f.ab = 0#1 ∧ f.nc = 0#1 ∧ f.ac = 0#1 ∧ f.fi = 0#1 ∧ f.fo = 0#1
    ∧ f.clamp = 0#2 ∧ f.scale = 0#4 ∧ f.rnd = 0#2)

/-- The modifiers of source B are zero. -/
def VR.noB (f : VR) : Bool := decide (f.nb = 0#1 ∧ f.ab = 0#1)

/-- The modifiers of source C are zero (R49: an operation without source C does not use them). -/
def VR.noC (f : VR) : Bool := decide (f.nc = 0#1 ∧ f.ac = 0#1)

/-- An integer operation sets no floating-point modifier (R58). -/
def VR.intMods (f : VR) : Bool := f.isFloat || f.noMods

/-- AUX holds at most .SAT, and that only where `sat` and on an integer type (R58, R168). -/
def VR.satOnly (f : VR) (sat : Bool) : Bool :=
  decide (f.aux = 0#6) || (sat && decide (f.aux = 32#6) && !f.isFloat)

/-- R171: an element-wise operation of two sources, with the least and greatest TYPE of R168. -/
def VR.twoSource (f : VR) (lo hi : Nat) (sat : Bool) : Bool :=
  decide (lo ≤ f.type.toNat ∧ f.type.toNat ≤ hi) && decide (f.vc = 0#5) && f.satOnly sat && f.intMods && f.noC

/-- R173: the operands of VCMP and VCMPQ. -/
def VR.cmpOk (f : VR) : Bool :=
  decide (f.type.toNat ≤ 5) && decide (f.vc = 0#5) && decide (f.aux.toNat < 16)
    && (if f.isFloat then ccFloat f.aux else ccInt f.aux)
    && decide (f.nc = 0#1 ∧ f.ac = 0#1 ∧ f.fo = 0#1 ∧ f.clamp = 0#2 ∧ f.scale = 0#4 ∧ f.rnd = 0#2) && f.intMods

/-- R178: the modifier bits of VCVT, VQUANT and VDEQ. -/
def VR.convMods (f : VR) (srcFloat dstFloat scaleB quant : Bool) : Bool :=
  (srcFloat || decide (f.na = 0#1 ∧ f.aa = 0#1 ∧ f.fi = 0#1))
    && (scaleB || f.noB) && f.noC
    && (dstFloat || decide (f.fo = 0#1 ∧ f.clamp = 0#2))
    && (dstFloat || quant || decide (f.scale = 0#4))
    && (srcFloat || dstFloat || decide (f.rnd = 0#2))

/-- TYPE 0 or 2, which move 32 bits alike (R168), and no modifier. -/
def VR.moveType (f : VR) : Bool := decide (f.type = 0#3 ∨ f.type = 2#3) && f.noMods

/-- R181: the operands of the mask operations; MASK, TYPE, VC and the modifiers are reserved. -/
def VR.maskOp (f : VR) : Bool :=
  decide (f.mask = 0#3 ∧ f.type = 0#3 ∧ f.vc = 0#5) && f.noMods && decide (f.va.toNat < 8 ∧ f.vb.toNat < 8)

/-- VD names a mask register other than m0 (R68). -/
def VR.destMask (f : VR) : Bool := decide (f.vd.toNat < 8 ∧ f.vd ≠ 0#5)

/-- R183: the operands of the reductions. -/
def VR.redOk (f : VR) : Bool :=
  decide (f.type.toNat ≤ 2 ∧ f.vb = 0#5 ∧ f.vc = 0#5) && decide (field f.aux 2 3 = 0#3)
    && (decide (field f.aux 5 1 = 0#1) || decide (f.type = 2#3 ∧ (field f.aux 0 2 = 0#2 ∨ field f.aux 0 2 = 3#2)))
    && f.intMods && f.noB && f.noC

/-- R59, R60: the reserved codes of the VM format. -/
def VM.common (f : VM) : Bool :=
  decide (f.space.toNat ≤ 4 ∧ f.fe ≠ 3#2 ∧ f.layout ≠ 3#2 ∧ f.rsv = 0#2)
    && decide (f.pat ≠ 0#3 → f.mtype = 0#3 ∨ f.mtype = 2#3) && decide (f.fe ≠ 0#2 → f.space = 0#3)

/-- R190, R197: T2 and T5 take LAYOUT 0 and p0; LAYOUT 1 needs a register after BASE. -/
def VM.layoutOk (f : VM) : Bool :=
  decide (6 ≤ f.mtype.toNat → f.layout = 0#2 ∧ f.pat = 0#3) && decide (f.layout = 1#2 → f.base ≠ 63#6)

/-- R198: the operands of VLDX and VSTX. -/
def VM.gatherOk (f : VM) : Bool :=
  f.common && decide (f.vd ≠ 31#5 ∧ f.mtype.toNat ≤ 5 ∧ f.pat = 0#3 ∧ f.fe = 0#2 ∧ f.layout = 0#2)

/-- R199: the operands of VLDA and VSTA. -/
def VM.accOk (f : VM) : Bool :=
  f.common && decide (f.space = 1#3 ∧ (f.mtype = 0#3 ∨ f.mtype = 2#3) ∧ f.pat = 0#3 ∧ f.fe = 0#2 ∧ f.layout ≠ 2#2)

/-- R200: the operands of VSTR and VSTR.REL. -/
def VM.remoteOk (f : VM) : Bool := f.common && f.layoutOk && decide (f.space = 2#3 ∧ f.pat = 0#3 ∧ f.fe = 0#2)

/-- GUARD and the token bits are zero. -/
def MC.noQueue (f : MC) : Bool := decide (f.guard = 0#3 ∧ f.wp = 0#1 ∧ f.wn = 0#1 ∧ f.sp = 0#1 ∧ f.sn = 0#1)

/-- R202: the pairs of activation type and ternary bit. -/
def pairOk (act : BitVec 2) (tern : BitVec 1) : Bool :=
  decide ((act = 0#2 ∧ tern = 0#1) ∨ act = 1#2 ∨ (act = 2#2 ∧ tern = 1#1))

/-- TOK, GUARD, DST, AC and RSCOPE are zero (preface of R260, R263). -/
def CC.act (f : CC) : Bool :=
  decide (f.wp = 0#1 ∧ f.wn = 0#1 ∧ f.sp = 0#1 ∧ f.sn = 0#1 ∧ f.guard = 0#3 ∧ f.dst = 0#6 ∧ f.ac = 0#2 ∧ f.rscope = 0#3)

/-- Check 3.4 of R66: every reserved field and code of the operation is zero or unused. VCVT takes .SAT between any two types of code 2 and
above, T2 among them (R58, R168; log entry 36). -/
def Instr.reservedOk : Instr → Bool
  | .nop f => f.plain && decide (f.lvl = 0#3 ∧ f.reg = 0#6 ∧ f.off = 0#32)
  | .br f => f.plain && decide (f.lvl = 0#3 ∧ f.reg = 0#6)
  | .call f => f.plain && decide (f.lvl = 0#3)
  | .ret f => f.plain && decide (f.lvl = 0#3 ∧ f.off = 0#32)
  | .bri f => f.plain && decide (f.lvl = 0#3)
  | .brcT f => decide (f.lvl = 0#3 ∧ f.reg = 0#6 ∧ f.imm5 = 0#5)
  | .brcF f => decide (f.lvl = 0#3 ∧ f.reg = 0#6 ∧ f.imm5 = 0#5)
  | .loop f => f.plain && decide (f.lvl.toNat < 4)
  | .loopi f => decide (f.cq = 0#2 ∧ f.lvl.toNat < 4)
  | .lcrd f => f.plain && decide (f.lvl.toNat < 4 ∧ f.off = 0#32)
  | .lcwr f => f.plain && decide (f.lvl.toNat < 4 ∧ f.off = 0#32)
  | .rep f => decide (f.rsv = 0#36)
  | .fork f => decide (f.b = 0#6 ∧ f.d = 0#6 ∧ f.imm = 0#30)
  | .join f => f.immOnly 8
  | .cbset f => f.immOnly 16
  | .cbclr f => f.immOnly 16
  | .cbwait f => f.immOnly 17
  | .cqpush f => decide (f.b = 0#6 ∧ f.d = 0#6 ∧ f.imm.toNat < 4)
  | .cqpop f => decide (f.a = 0#6 ∧ f.b = 0#6 ∧ f.imm.toNat < 4)
  | .cqcnt f => decide (f.a = 0#6 ∧ f.b = 0#6 ∧ f.imm.toNat < 4)
  | .gsetQ f => f.immOnly 5 && decide (f.imm.toNat % 8 ≠ 0)
  | .gsetS f => decide (f.b = 0#6 ∧ f.d = 0#6 ∧ f.imm.toNat < 8 ∧ f.imm.toNat ≠ 0)
  | .gclr f => f.immOnly 3 && decide (f.imm.toNat ≠ 0)
  | .waitcnt f => f.immOnly 24
  | .fenceAll f => f.immOnly 0
  | .fence f =>
    f.immOnly 6 && decide (f.imm.toNat % 8 = 1 ∨ f.imm.toNat % 8 = 2 ∨ f.imm.toNat % 8 = 4) && decide (f.imm.toNat / 8 ≤ 4)
  | .phase f => f.immOnly 0
  | .csrr f => csrOk f && decide (f.a = 0#6)
  | .csrw f => csrOk f && decide (f.d = 0#6)
  | .csrs f => csrOk f
  | .csrc f => csrOk f
  | .trap f => f.immOnly 16
  | .tret f => f.immOnly 0
  | .halt f => f.immOnly 16
  | .clkdiv f => f.immOnly 12
  | .clkmode f => f.immOnly 1
  | .discard f => decide (f.d = 0#6 ∧ f.imm.toNat < 8)
  | .acclive f => decide (f.d = 0#6 ∧ f.imm.toNat < 8)
  | .add f => f.dab
  | .sub f => f.dab
  | .and f => f.dab
  | .or f => f.dab
  | .xor f => f.dab
  | .andn f => f.dab
  | .shl f => f.dab
  | .shr f => f.dab
  | .sar f => f.dab
  | .min f => f.dab
  | .max f => f.dab
  | .minu f => f.dab
  | .maxu f => f.dab
  | .addi _ => true
  | .andi _ => true
  | .ori _ => true
  | .xori _ => true
  | .shli f => decide (f.imm.toNat < 64)
  | .shri f => decide (f.imm.toNat < 64)
  | .sari f => decide (f.imm.toNat < 64)
  | .li f => decide (f.a = 0#6)
  | .lih f => decide (f.imm.toNat < 268435456)
  | .mul f => f.dab
  | .mulh f => f.dab
  | .mulhu f => f.dab
  | .mad f => decide (f.cc = 0#4 ∧ f.rsv = 0#20)
  | .div f => f.dab
  | .divu f => f.dab
  | .rem f => f.dab
  | .remu f => f.dab
  | .cmp f => ccInt f.cc && decide (f.c = 0#6 ∧ f.rsv = 0#20)
  | .cmpq f => ccInt f.cc && decide (f.c = 0#6 ∧ f.rsv = 0#20 ∧ f.d.toNat < 4)
  | .clz f => f.da
  | .ctz f => f.da
  | .popc f => f.da
  | .bfe f => decide (f.c = 0#6 ∧ f.cc.toNat < 2 ∧ f.rsv = 0#20)
  | .bfi f => decide (f.cc = 0#4 ∧ f.rsv = 0#20)
  | .brev f => f.da
  | .sel f => ccInt f.cc && decide (f.rsv = 0#20)
  | .fadd f => decide (f.c = 0#6 ∧ f.cc.toNat < 4 ∧ f.rsv = 0#20)
  | .fsub f => decide (f.c = 0#6 ∧ f.cc.toNat < 4 ∧ f.rsv = 0#20)
  | .fmul f => decide (f.c = 0#6 ∧ f.cc.toNat < 4 ∧ f.rsv = 0#20)
  | .fmin f => f.dab
  | .fmax f => f.dab
  | .ffma f => decide (f.cc.toNat < 4 ∧ f.rsv = 0#20)
  | .fcmp f => ccFloat f.cc && decide (f.c = 0#6 ∧ f.rsv = 0#20)
  | .fcmpq f => ccFloat f.cc && decide (f.c = 0#6 ∧ f.rsv = 0#20 ∧ f.d.toNat < 4)
  | .fcvt f => decide (f.cc.toNat ≤ 5 ∧ f.c.toNat < 4 ∧ f.b = 0#6 ∧ f.rsv = 0#20)
  | .fclass f => f.da
  | .ld f => f.loadStoreOk false
  | .st f => f.loadStoreOk true
  | .amoadd f => f.amoOk false false
  | .amoand f => f.amoOk false false
  | .amoor f => f.amoOk false false
  | .amoxor f => f.amoOk false false
  | .amomin f => f.amoOk false false
  | .amomax f => f.amoOk false false
  | .amominu f => f.amoOk false false
  | .amomaxu f => f.amoOk false false
  | .amoswp f => f.amoOk false false
  | .amocas f => f.amoOk false true
  | .amofadd f => f.amoOk true false
  | .feset f => f.feOk
  | .feclr f => f.feOk
  | .feq f => f.feOk
  | .pooladd f => decide (f.rsv = 0#20 ∧ (f.cc.toNat < 4 ∨ (f.cc.toNat / 4 = 1 ∧ 2 ≤ f.cc.toNat % 4)))
  | .poolmax f => decide (f.rsv = 0#20 ∧ f.cc.toNat < 4)
  | .poolred f => decide (f.rsv = 0#20 ∧ f.b = 0#6 ∧ f.cc.toNat < 12)
  | .poolfill f => decide (f.rsv = 0#20 ∧ f.cc.toNat < 4)
  | .extq f => f.dab
  | .vadd f => f.twoSource 0 5 true
  | .vsub f => f.twoSource 0 5 true
  | .vmul f => f.twoSource 0 5 true
  | .vmin f => f.twoSource 0 5 false
  | .vmax f => f.twoSource 0 5 false
  | .vand f => f.twoSource 2 5 false
  | .vor f => f.twoSource 2 5 false
  | .vxor f => f.twoSource 2 5 false
  | .vshl f => f.twoSource 2 5 false
  | .vshr f => f.twoSource 2 5 false
  | .vsar f => f.twoSource 2 4 false
  | .vfma f => decide (f.type.toNat ≤ 1 ∧ f.aux = 0#6)
  | .vcmp f => f.cmpOk && f.destMask
  | .vcmpqAny f => f.cmpOk && decide (f.vd.toNat < 4)
  | .vcmpqAll f => f.cmpOk && decide (f.vd.toNat < 4)
  | .vsel f => f.moveType && decide (f.vc.toNat < 8 ∧ f.aux = 0#6)
  | .vcvt f =>
    let src := (field f.aux 0 3).toNat
    let dst := f.type.toNat
    decide (dst ≤ 6 ∧ src ≤ 6 ∧ field f.aux 3 2 = 0#2 ∧ f.vb = 0#5 ∧ f.vc = 0#5)
      && (decide (field f.aux 5 1 = 0#1) || decide (2 ≤ src ∧ 2 ≤ dst))
      && f.convMods (decide (src ≤ 1)) (decide (dst ≤ 1)) false false
  | .vmov f => f.moveType && decide (f.vb = 0#5 ∧ f.vc = 0#5 ∧ f.aux = 0#6)
  | .vmovs f =>
    decide (f.type.toNat ≤ 2 ∧ f.va.toNat < 2) && f.noMods && decide (f.va = 1#5 → f.vb = 0#5 ∧ f.vc = 0#5)
  | .vmovx f => decide (f.type.toNat ≤ 2 ∧ f.vd = 0#5 ∧ f.mask = 0#3) && f.noMods
  | .viota f => decide (f.type = 2#3 ∧ f.va = 0#5 ∧ f.vb = 0#5 ∧ f.vc = 0#5 ∧ f.aux = 0#6) && f.noMods
  | .mand f => f.maskOp && f.destMask && decide (f.aux = 0#6)
  | .mor f => f.maskOp && f.destMask && decide (f.aux = 0#6)
  | .mxor f => f.maskOp && f.destMask && decide (f.aux = 0#6)
  | .mnot f => f.maskOp && f.destMask && decide (f.vb = 0#5 ∧ f.aux = 0#6)
  | .mpop f => f.maskOp && decide (f.vd = 0#5 ∧ f.vb = 0#5)
  | .vquant f =>
    let src := (field f.aux 0 3).toNat
    decide (3 ≤ f.type.toNat ∧ f.type.toNat ≤ 6 ∧ src ≤ 1 ∧ f.aux.toNat < 8 ∧ f.vc = 0#5)
      && f.convMods true false true true
  | .vdeq f =>
    let src := (field f.aux 0 3).toNat
    decide (f.type.toNat ≤ 1 ∧ 2 ≤ src ∧ src ≤ 6 ∧ f.aux.toNat < 8 ∧ f.vc = 0#5) && f.convMods false true true false
  | .vrotR f => f.moveType && decide (f.vb = 0#5 ∧ f.vc = 0#5)
  | .vrotC f => f.moveType && decide (f.vb = 0#5 ∧ f.vc = 0#5 ∧ f.aux.toNat < 16)
  | .vbcR f => f.moveType && decide (f.vb = 0#5 ∧ f.vc = 0#5)
  | .vbcC f => f.moveType && decide (f.vb = 0#5 ∧ f.vc = 0#5 ∧ f.aux.toNat < 16)
  | .vredR f => f.redOk
  | .vredC f => f.redOk
  | .vshuf f => f.moveType && decide (f.vc = 0#5 ∧ f.aux.toNat < 2)
  | .vsfu f => decide (f.type.toNat ≤ 1 ∧ f.aux.toNat < 8 ∧ f.vb = 0#5 ∧ f.vc = 0#5) && f.noB && f.noC
  | .vsftab f =>
    decide (f.vd = 0#5 ∧ f.vb = 0#5 ∧ f.vc = 0#5 ∧ f.type = 0#3 ∧ f.mask = 0#3 ∧ f.aux.toNat < 8) && f.noMods
  | .vld f => f.common && f.layoutOk && decide (f.space ≠ 1#3) && decide (f.pat ≠ 0#3 → f.layout ≠ 2#2)
  | .vst f =>
    f.common && f.layoutOk && decide ((f.space = 0#3 ∨ f.space = 3#3 ∨ f.space = 4#3) ∧ f.pat = 0#3 ∧ f.fe ≠ 2#2)
  | .vldx f => f.gatherOk && decide (f.space ≠ 1#3)
  | .vstx f => f.gatherOk && decide (f.space = 0#3 ∨ f.space = 3#3 ∨ f.space = 4#3)
  | .vlda f => f.accOk
  | .vsta f => f.accOk
  | .vstr f => f.remoteOk
  | .vstrRel f => f.remoteOk
  | .bfxp f =>
    decide (f.space = 0#3 ∧ f.mtype = 0#3 ∧ f.pat = 0#3 ∧ f.fe = 0#2 ∧ f.ac = 0#2 ∧ f.layout = 0#2 ∧ f.rsv = 0#2 ∧ f.vd.toNat < 8 ∧ f.vd ≠ 0#5)
  | .mxloop f => f.noQueue && decide (f.c = 0#6 ∧ f.aux.toNat < 6)
  | .mxaddr f => f.noQueue && decide (f.aux = 0#23)
  | .mxfmt f =>
    f.noQueue && decide (f.c = 0#6 ∧ f.aux.toNat < 2048) && pairOk (field f.aux 0 2) (field f.aux 2 1)
  | .mxidx f => f.noQueue && decide (f.c = 0#6 ∧ f.aux = 0#23)
  | .mxwld f => decide (f.aux.toNat < 4)
  | .mxwstrm f => decide (f.c = 0#6 ∧ f.aux.toNat < 16 ∧ f.aux.toNat % 8 < 4)
  | .mxgo f => decide (f.a = 0#6 ∧ f.b = 0#6 ∧ f.c = 0#6 ∧ f.aux = 0#23)
  | .mxzero f => decide (f.c = 0#6 ∧ f.aux = 0#23)
  | .mxdrain f => decide (f.aux.toNat < 16384 ∧ (field f.aux 0 2 ≠ 3#2 → field f.aux 2 5 = 0#5))
  | .mxnorm f => decide (f.aux = 0#23)
  | .msbuild f => decide (f.a = 0#6 ∧ f.b = 0#6 ∧ f.c = 0#6 ∧ f.aux = 0#23)
  | .mxsmp f => decide (f.aux = 0#23)
  | .mxstat f => f.noQueue && decide (f.c = 0#6 ∧ f.aux = 0#23 ∧ (f.a = f.b → f.a = 0#6))
  | .cpin f => decide (f.rscope = 0#3 ∧ f.flags.toNat < 4)
  | .cpout f => decide (f.rscope.toNat ≤ 4 ∧ f.flags.toNat < 4)
  | .cp2d f =>
    decide (f.flags.toNat < 8 ∧ f.len ≠ 63#6 ∧ f.rscope.toNat ≤ 4 ∧ (field f.flags 2 1 = 0#1 → f.rscope = 0#3))
  | .cpmc f => decide (f.rscope.toNat ≤ 4 ∧ f.flags.toNat < 4)
  | .cprs f => decide (f.rscope = 0#3 ∧ f.flags.toNat < 2)
  | .barinit f => f.act && decide (f.src = 0#6 ∧ f.len = 0#6 ∧ f.tokd = 0#6 ∧ f.flags = 0#6)
  | .barexp f => f.act && decide (f.src = 0#6 ∧ f.tokd = 0#6 ∧ f.flags = 0#6)
  | .barwait f => f.act && decide (f.src = 0#6 ∧ f.len = 0#6 ∧ f.flags.toNat < 2)
  | .barwaitT f => f.act && decide (f.src = 0#6 ∧ f.flags.toNat < 2)
  | .barq f => f.act && decide (f.src = 0#6 ∧ f.len = 0#6 ∧ (f.flags = 0#6 ∨ f.flags = 2#6))
  | .tokwait f => f.act && decide (f.len = 0#6 ∧ f.bar = 0#6 ∧ f.tokd = 0#6 ∧ f.flags = 0#6)
  | .toktest f => f.act && decide (f.len = 0#6 ∧ f.bar = 0#6 ∧ f.flags = 0#6)
  | .cpcan f => f.act && decide (f.len = 0#6 ∧ f.bar = 0#6 ∧ f.tokd = 0#6 ∧ f.flags = 0#6)
  | .spawn f => decide (f.b = 0#6 ∧ f.d = 0#6 ∧ f.imm = 0#30)
  | .spawnD f => decide (f.d = 0#6 ∧ f.imm = 0#30)
  | .spawnop f => decide (f.b = 0#6 ∧ f.d = 0#6 ∧ f.imm = 0#30)
  | .tend f => f.immOnly 0
  | .tcont f => decide (f.b = 0#6 ∧ f.d = 0#6 ∧ f.imm = 0#30)
  | .tyield f => f.immOnly 0
  | .tstat f => decide (f.b = 0#6 ∧ f.imm = 0#30)
  | .jcnew _ => true
  | .jcadd f => decide (f.imm = 0#30)
  | .mbrecv f => decide (f.imm.toNat < 64)
  | .mbsend f => decide (f.imm = 0#30)
  | .mbstat f => decide (f.b = 0#6 ∧ f.imm = 0#30)
  | .mbPost _ _ _ => true
  | .mbTake _ _ => true
  | .mbPeek _ => true
  | .epSwitch _ _ _ => true
  | .epWdset _ _ => true
  | .epEnd _ => true
  | .claim _ _ => true
  | .claimpri _ _ => true
  | .ownerRelease _ _ => true
  | .controlBlockWrite _ _ _ => true
  | .loadImage _ _ => true
  | .config _ => true
  | .setPolver _ _ => true
  | .resume _ _ => true
  | .kill _ _ => true
  | .preempt _ _ => true
  | .loadCamp _ _ _ => true
  | .migrate _ _ => true
  | .migrationComplete _ => true
  | .settleExpiry _ => true
  | .attest _ _ => true
  | .faultReply _ _ => true
  | .releaseSave _ => true
  | .coldReset _ => true
  | .hostBar2Access _ _ _ => true
  | .skornLinkFailure _ => true
  | .pseudoChannelRetire _ _ => true
  | .retirementSwitch _ _ => true
  | .mxcadWrite _ _ => true
  | .powerMonitorReport _ => true
  | .backstopHoldEnd _ => true
  | .thermalAlert _ _ _ _ => true
  | .supplyDroop _ _ => true
  | .retentionEntry _ => true
  | .retentionExit _ _ => true
  | .clusterGate _ => true
  | .clusterWake _ => true
  | .campCoreInstruction _ => true
  | .unassignedEncoding _ => false
  | .hostPortUncorrectableError _ _ => true
  | .repRepeatIssue => true
  | .tretResume => true
  | .clkdivApply => true
  | .clockModeSwitchDone => true
  | .sfuTableReady => true
  | .barwaitTimeout => true
  | .blockAccept => true
  | .taskEnd => true
  | .watchdogExpiry => true
  | .writebackLand => true
  | .variableResultLand => true
  | .destinationAccept => true
  | .completionWaitEnd => true
  | .crossingDrainEnd => true
  | .secondaryStarvationRelief => true
  | .engineCommandStart => true
  | .matrixReloadDone => true
  | .matrixPassInject => true
  | .matrixPassLand => true
  | .matrixRowStep => true
  | .matrixCommandComplete => true
  | .weightLoadComplete => true
  | .mxsmpSample => true
  | .mxsmpCheck => true
  | .copyBlockArrival => true
  | .copyPageFault => true
  | .copyCommandComplete => true
  | .networkPortAccess => true
  | .poolBankAccess => true
  | .deviceMemoryAccess => true
  | .postedFaultTaken => true
  | .dispatch => true
  | .schedulerPreempt => true
  | .contextSave => true
  | .contextRestore => true
  | .faultRecordWrite => true
  | .joinCounterDecrement => true
  | .walkerStepPush => true
  | .spillReturn => true
  | .neighbourAveraging => true
  | .workUnitArrival => true
  | .electionWindowEnd => true
  | .start => true
  | .warmReset => true
  | .memready => true
  | .powerBackstop => true

/-- The legal slots of an operation (R64); JOIN's are checked against the strand (R33). No slot for what never stands in a
bundle. -/
def slotSet : Instr → BitVec 8
  | .nop _ => 0xff#8
  | .br _ => 0xff#8
  | .call _ => 0xff#8
  | .ret _ => 0xff#8
  | .bri _ => 0xff#8
  | .brcT _ => 0xff#8
  | .brcF _ => 0xff#8
  | .loop _ => 0xff#8
  | .loopi _ => 0xff#8
  | .lcrd _ => 0xff#8
  | .lcwr _ => 0xff#8
  | .rep _ => 0xff#8
  | .fork _ => 0x01#8
  | .join _ => 0xff#8
  | .cbset _ => 0x01#8
  | .cbclr _ => 0x01#8
  | .cbwait _ => 0x01#8
  | .cqpush _ => 0x01#8
  | .cqpop _ => 0x01#8
  | .cqcnt _ => 0x01#8
  | .gsetQ _ => 0x01#8
  | .gsetS _ => 0x01#8
  | .gclr _ => 0x01#8
  | .waitcnt _ => 0x01#8
  | .fenceAll _ => 0x01#8
  | .fence _ => 0x01#8
  | .phase _ => 0x01#8
  | .csrr _ => 0x01#8
  | .csrw _ => 0x01#8
  | .csrs _ => 0x01#8
  | .csrc _ => 0x01#8
  | .trap _ => 0x01#8
  | .tret _ => 0x01#8
  | .halt _ => 0x01#8
  | .clkdiv _ => 0x01#8
  | .clkmode _ => 0x01#8
  | .discard _ => 0x01#8
  | .acclive _ => 0x01#8
  | .add _ => 0x06#8
  | .sub _ => 0x06#8
  | .and _ => 0x06#8
  | .or _ => 0x06#8
  | .xor _ => 0x06#8
  | .andn _ => 0x06#8
  | .shl _ => 0x06#8
  | .shr _ => 0x06#8
  | .sar _ => 0x06#8
  | .min _ => 0x06#8
  | .max _ => 0x06#8
  | .minu _ => 0x06#8
  | .maxu _ => 0x06#8
  | .addi _ => 0x06#8
  | .andi _ => 0x06#8
  | .ori _ => 0x06#8
  | .xori _ => 0x06#8
  | .shli _ => 0x06#8
  | .shri _ => 0x06#8
  | .sari _ => 0x06#8
  | .li _ => 0x06#8
  | .lih _ => 0x06#8
  | .mul _ => 0x06#8
  | .mulh _ => 0x06#8
  | .mulhu _ => 0x06#8
  | .mad _ => 0x06#8
  | .div _ => 0x06#8
  | .divu _ => 0x06#8
  | .rem _ => 0x06#8
  | .remu _ => 0x06#8
  | .cmp _ => 0x06#8
  | .cmpq _ => 0x06#8
  | .clz _ => 0x06#8
  | .ctz _ => 0x06#8
  | .popc _ => 0x06#8
  | .bfe _ => 0x06#8
  | .bfi _ => 0x06#8
  | .brev _ => 0x06#8
  | .sel _ => 0x06#8
  | .fadd _ => 0x02#8
  | .fsub _ => 0x02#8
  | .fmul _ => 0x02#8
  | .fmin _ => 0x02#8
  | .fmax _ => 0x02#8
  | .ffma _ => 0x02#8
  | .fcmp _ => 0x02#8
  | .fcmpq _ => 0x02#8
  | .fcvt _ => 0x02#8
  | .fclass _ => 0x02#8
  | .ld _ => 0x04#8
  | .st _ => 0x04#8
  | .amoadd _ => 0x04#8
  | .amoand _ => 0x04#8
  | .amoor _ => 0x04#8
  | .amoxor _ => 0x04#8
  | .amomin _ => 0x04#8
  | .amomax _ => 0x04#8
  | .amominu _ => 0x04#8
  | .amomaxu _ => 0x04#8
  | .amoswp _ => 0x04#8
  | .amocas _ => 0x04#8
  | .amofadd _ => 0x04#8
  | .feset _ => 0x04#8
  | .feclr _ => 0x04#8
  | .feq _ => 0x04#8
  | .pooladd _ => 0x04#8
  | .poolmax _ => 0x04#8
  | .poolred _ => 0x04#8
  | .poolfill _ => 0x04#8
  | .extq _ => 0x04#8
  | .vadd _ => 0x18#8
  | .vsub _ => 0x18#8
  | .vmul _ => 0x18#8
  | .vmin _ => 0x18#8
  | .vmax _ => 0x18#8
  | .vand _ => 0x18#8
  | .vor _ => 0x18#8
  | .vxor _ => 0x18#8
  | .vshl _ => 0x18#8
  | .vshr _ => 0x18#8
  | .vsar _ => 0x18#8
  | .vfma _ => 0x18#8
  | .vcmp _ => 0x18#8
  | .vcmpqAny _ => 0x18#8
  | .vcmpqAll _ => 0x18#8
  | .vsel _ => 0x18#8
  | .vcvt _ => 0x18#8
  | .vmov _ => 0x18#8
  | .vmovs _ => 0x18#8
  | .vmovx _ => 0x18#8
  | .viota _ => 0x18#8
  | .mand _ => 0x18#8
  | .mor _ => 0x18#8
  | .mxor _ => 0x18#8
  | .mnot _ => 0x18#8
  | .mpop _ => 0x18#8
  | .vquant _ => 0x18#8
  | .vdeq _ => 0x18#8
  | .vrotR _ => 0x10#8
  | .vrotC _ => 0x10#8
  | .vbcR _ => 0x10#8
  | .vbcC _ => 0x10#8
  | .vredR _ => 0x10#8
  | .vredC _ => 0x10#8
  | .vshuf _ => 0x10#8
  | .vsfu _ => 0x10#8
  | .vsftab _ => 0x10#8
  | .vld _ => 0x20#8
  | .vst _ => 0x20#8
  | .vldx _ => 0x20#8
  | .vstx _ => 0x20#8
  | .vlda _ => 0x20#8
  | .vsta _ => 0x20#8
  | .vstr _ => 0x20#8
  | .vstrRel _ => 0x20#8
  | .bfxp _ => 0x20#8
  | .mxloop _ => 0x40#8
  | .mxaddr _ => 0x40#8
  | .mxfmt _ => 0x40#8
  | .mxidx _ => 0x40#8
  | .mxwld _ => 0x40#8
  | .mxwstrm _ => 0x40#8
  | .mxgo _ => 0x40#8
  | .mxzero _ => 0x40#8
  | .mxdrain _ => 0x40#8
  | .mxnorm _ => 0x40#8
  | .msbuild _ => 0x40#8
  | .mxsmp _ => 0x40#8
  | .mxstat _ => 0x40#8
  | .cpin _ => 0x80#8
  | .cpout _ => 0x80#8
  | .cp2d _ => 0x80#8
  | .cpmc _ => 0x80#8
  | .cprs _ => 0x80#8
  | .barinit _ => 0x80#8
  | .barexp _ => 0x80#8
  | .barwait _ => 0x80#8
  | .barwaitT _ => 0x80#8
  | .barq _ => 0x80#8
  | .tokwait _ => 0x80#8
  | .toktest _ => 0x80#8
  | .cpcan _ => 0x80#8
  | .spawn _ => 0x01#8
  | .spawnD _ => 0x01#8
  | .spawnop _ => 0x01#8
  | .tend _ => 0x01#8
  | .tcont _ => 0x01#8
  | .tyield _ => 0x01#8
  | .tstat _ => 0x01#8
  | .jcnew _ => 0x01#8
  | .jcadd _ => 0x01#8
  | .mbrecv _ => 0x80#8
  | .mbsend _ => 0x80#8
  | .mbstat _ => 0x80#8
  | .mbPost _ _ _ => 0#8
  | .mbTake _ _ => 0#8
  | .mbPeek _ => 0#8
  | .epSwitch _ _ _ => 0#8
  | .epWdset _ _ => 0#8
  | .epEnd _ => 0#8
  | .claim _ _ => 0#8
  | .claimpri _ _ => 0#8
  | .ownerRelease _ _ => 0#8
  | .controlBlockWrite _ _ _ => 0#8
  | .loadImage _ _ => 0#8
  | .config _ => 0#8
  | .setPolver _ _ => 0#8
  | .resume _ _ => 0#8
  | .kill _ _ => 0#8
  | .preempt _ _ => 0#8
  | .loadCamp _ _ _ => 0#8
  | .migrate _ _ => 0#8
  | .migrationComplete _ => 0#8
  | .settleExpiry _ => 0#8
  | .attest _ _ => 0#8
  | .faultReply _ _ => 0#8
  | .releaseSave _ => 0#8
  | .coldReset _ => 0#8
  | .hostBar2Access _ _ _ => 0#8
  | .skornLinkFailure _ => 0#8
  | .pseudoChannelRetire _ _ => 0#8
  | .retirementSwitch _ _ => 0#8
  | .mxcadWrite _ _ => 0#8
  | .powerMonitorReport _ => 0#8
  | .backstopHoldEnd _ => 0#8
  | .thermalAlert _ _ _ _ => 0#8
  | .supplyDroop _ _ => 0#8
  | .retentionEntry _ => 0#8
  | .retentionExit _ _ => 0#8
  | .clusterGate _ => 0#8
  | .clusterWake _ => 0#8
  | .campCoreInstruction _ => 0#8
  | .unassignedEncoding _ => 0#8
  | .hostPortUncorrectableError _ _ => 0#8
  | .repRepeatIssue => 0#8
  | .tretResume => 0#8
  | .clkdivApply => 0#8
  | .clockModeSwitchDone => 0#8
  | .sfuTableReady => 0#8
  | .barwaitTimeout => 0#8
  | .blockAccept => 0#8
  | .taskEnd => 0#8
  | .watchdogExpiry => 0#8
  | .writebackLand => 0#8
  | .variableResultLand => 0#8
  | .destinationAccept => 0#8
  | .completionWaitEnd => 0#8
  | .crossingDrainEnd => 0#8
  | .secondaryStarvationRelief => 0#8
  | .engineCommandStart => 0#8
  | .matrixReloadDone => 0#8
  | .matrixPassInject => 0#8
  | .matrixPassLand => 0#8
  | .matrixRowStep => 0#8
  | .matrixCommandComplete => 0#8
  | .weightLoadComplete => 0#8
  | .mxsmpSample => 0#8
  | .mxsmpCheck => 0#8
  | .copyBlockArrival => 0#8
  | .copyPageFault => 0#8
  | .copyCommandComplete => 0#8
  | .networkPortAccess => 0#8
  | .poolBankAccess => 0#8
  | .deviceMemoryAccess => 0#8
  | .postedFaultTaken => 0#8
  | .dispatch => 0#8
  | .schedulerPreempt => 0#8
  | .contextSave => 0#8
  | .contextRestore => 0#8
  | .faultRecordWrite => 0#8
  | .joinCounterDecrement => 0#8
  | .walkerStepPush => 0#8
  | .spillReturn => 0#8
  | .neighbourAveraging => 0#8
  | .workUnitArrival => 0#8
  | .electionWindowEnd => 0#8
  | .start => 0#8
  | .warmReset => 0#8
  | .memready => 0#8
  | .powerBackstop => 0#8

/-- The registers of a camp instruction name x0 to x31 by their width, so every one is well formed; an operation of a bundle
is well formed when check 3.4 of R66 passes. -/
def Instr.wf (i : Instr) : Bool := i.reservedOk

/-- An issued word is well formed: its operation passes check 3.4 and stands in a legal slot (R64, R66). -/
def OpWord.wf (o : OpWord) : Bool := o.op.wf && (slotSet o.op).getLsbD o.slot.toNat

end Sys2Proof
end

