-- ==== Sys2Proof/Decode.lean ====
section
/-!
DEFINITION. Decoding and encoding (spec/05 R46 to R65, spec/27 R345). decodeOp reads a word of a bundle, total on any bits: a
MAJ or FN that R64 does not list is refused by name (UNASSIGNED_ENCODING, R65). decodeCamp reads a camp core's word.
encode writes the words of an instruction from the same tables.
-/

namespace Sys2Proof

open Sys2Proof.Machine

/-- The fields of bits [47:0] (R50). -/
def SQ.ofBits (b : BitVec 48) : SQ where
  cq := field b 46 2
  lvl := field b 43 3
  reg := field b 37 6
  imm5 := field b 32 5
  off := field b 0 32

/-- Bits [47:0] of the fields (R50). -/
def SQ.toBits (f : SQ) : BitVec 48 :=
  BitVec.ofNat 48 (f.cq.toNat * 70368744177664 + f.lvl.toNat * 8796093022208 + f.reg.toNat * 137438953472 + f.imm5.toNat * 4294967296 + f.off.toNat)

/-- The fields of bits [47:0] (R50). -/
def SLoopi.ofBits (b : BitVec 48) : SLoopi where
  cq := field b 46 2
  lvl := field b 43 3
  trip := field b 32 11
  off := field b 0 32

/-- Bits [47:0] of the fields (R50). -/
def SLoopi.toBits (f : SLoopi) : BitVec 48 :=
  BitVec.ofNat 48 (f.cq.toNat * 70368744177664 + f.lvl.toNat * 8796093022208 + f.trip.toNat * 4294967296 + f.off.toNat)

/-- The fields of bits [47:0] (R50). -/
def SRep.ofBits (b : BitVec 48) : SRep where
  cnt := field b 42 6
  step := field b 36 6
  rsv := field b 0 36

/-- Bits [47:0] of the fields (R50). -/
def SRep.toBits (f : SRep) : BitVec 48 :=
  BitVec.ofNat 48 (f.cnt.toNat * 4398046511104 + f.step.toNat * 68719476736 + f.rsv.toNat)

/-- The fields of bits [47:0] (R52). -/
def SR.ofBits (b : BitVec 48) : SR where
  d := field b 42 6
  a := field b 36 6
  b := field b 30 6
  c := field b 24 6
  cc := field b 20 4
  rsv := field b 0 20

/-- Bits [47:0] of the fields (R52). -/
def SR.toBits (f : SR) : BitVec 48 :=
  BitVec.ofNat 48 (f.d.toNat * 4398046511104 + f.a.toNat * 68719476736 + f.b.toNat * 1073741824 + f.c.toNat * 16777216 + f.cc.toNat * 1048576 + f.rsv.toNat)

/-- The fields of bits [47:0] (R54). -/
def SI.ofBits (b : BitVec 48) : SI where
  d := field b 42 6
  a := field b 36 6
  imm := field b 0 36

/-- Bits [47:0] of the fields (R54). -/
def SI.toBits (f : SI) : BitVec 48 :=
  BitVec.ofNat 48 (f.d.toNat * 4398046511104 + f.a.toNat * 68719476736 + f.imm.toNat)

/-- The fields of bits [47:0] (R55). -/
def SM.ofBits (b : BitVec 48) : SM where
  data := field b 42 6
  base := field b 36 6
  off := field b 16 20
  space := field b 13 3
  size := field b 11 2
  ac := field b 9 2
  ord := field b 6 3
  scope := field b 3 3
  fe := field b 1 2
  rsv := field b 0 1

/-- Bits [47:0] of the fields (R55). -/
def SM.toBits (f : SM) : BitVec 48 :=
  BitVec.ofNat 48 (f.data.toNat * 4398046511104 + f.base.toNat * 68719476736 + f.off.toNat * 65536 + f.space.toNat * 8192 + f.size.toNat * 2048 + f.ac.toNat * 512 + f.ord.toNat * 64 + f.scope.toNat * 8 + f.fe.toNat * 2 + f.rsv.toNat)

/-- The fields of bits [47:0] (R57). -/
def VR.ofBits (b : BitVec 48) : VR where
  vd := field b 43 5
  va := field b 38 5
  vb := field b 33 5
  vc := field b 28 5
  type := field b 25 3
  na := field b 24 1
  aa := field b 23 1
  nb := field b 22 1
  ab := field b 21 1
  nc := field b 20 1
  ac := field b 19 1
  fi := field b 18 1
  fo := field b 17 1
  clamp := field b 15 2
  scale := field b 11 4
  mask := field b 8 3
  rnd := field b 6 2
  aux := field b 0 6

/-- Bits [47:0] of the fields (R57). -/
def VR.toBits (f : VR) : BitVec 48 :=
  BitVec.ofNat 48 (f.vd.toNat * 8796093022208 + f.va.toNat * 274877906944 + f.vb.toNat * 8589934592 + f.vc.toNat * 268435456 + f.type.toNat * 33554432 + f.na.toNat * 16777216 + f.aa.toNat * 8388608 + f.nb.toNat * 4194304 + f.ab.toNat * 2097152 + f.nc.toNat * 1048576 + f.ac.toNat * 524288 + f.fi.toNat * 262144 + f.fo.toNat * 131072 + f.clamp.toNat * 32768 + f.scale.toNat * 2048 + f.mask.toNat * 256 + f.rnd.toNat * 64 + f.aux.toNat)

/-- The fields of bits [47:0] (R59). -/
def VM.ofBits (b : BitVec 48) : VM where
  vd := field b 43 5
  base := field b 37 6
  off := field b 17 20
  space := field b 14 3
  mtype := field b 11 3
  pat := field b 8 3
  fe := field b 6 2
  ac := field b 4 2
  layout := field b 2 2
  rsv := field b 0 2

/-- Bits [47:0] of the fields (R59). -/
def VM.toBits (f : VM) : BitVec 48 :=
  BitVec.ofNat 48 (f.vd.toNat * 8796093022208 + f.base.toNat * 137438953472 + f.off.toNat * 131072 + f.space.toNat * 16384 + f.mtype.toNat * 2048 + f.pat.toNat * 256 + f.fe.toNat * 64 + f.ac.toNat * 16 + f.layout.toNat * 4 + f.rsv.toNat)

/-- The fields of bits [47:0] (R61). -/
def MC.ofBits (b : BitVec 48) : MC where
  wp := field b 47 1
  wn := field b 46 1
  sp := field b 45 1
  sn := field b 44 1
  guard := field b 41 3
  a := field b 35 6
  b := field b 29 6
  c := field b 23 6
  aux := field b 0 23

/-- Bits [47:0] of the fields (R61). -/
def MC.toBits (f : MC) : BitVec 48 :=
  BitVec.ofNat 48 (f.wp.toNat * 140737488355328 + f.wn.toNat * 70368744177664 + f.sp.toNat * 35184372088832 + f.sn.toNat * 17592186044416 + f.guard.toNat * 2199023255552 + f.a.toNat * 34359738368 + f.b.toNat * 536870912 + f.c.toNat * 8388608 + f.aux.toNat)

/-- The fields of bits [47:0] (R62). -/
def CC.ofBits (b : BitVec 48) : CC where
  wp := field b 47 1
  wn := field b 46 1
  sp := field b 45 1
  sn := field b 44 1
  guard := field b 41 3
  dst := field b 35 6
  src := field b 29 6
  len := field b 23 6
  bar := field b 17 6
  tokd := field b 11 6
  ac := field b 9 2
  rscope := field b 6 3
  flags := field b 0 6

/-- Bits [47:0] of the fields (R62). -/
def CC.toBits (f : CC) : BitVec 48 :=
  BitVec.ofNat 48 (f.wp.toNat * 140737488355328 + f.wn.toNat * 70368744177664 + f.sp.toNat * 35184372088832 + f.sn.toNat * 17592186044416 + f.guard.toNat * 2199023255552 + f.dst.toNat * 34359738368 + f.src.toNat * 536870912 + f.len.toNat * 8388608 + f.bar.toNat * 131072 + f.tokd.toNat * 2048 + f.ac.toNat * 512 + f.rscope.toNat * 64 + f.flags.toNat)

/-- The fields of bits [47:0] (R63). -/
def TS.ofBits (b : BitVec 48) : TS where
  a := field b 42 6
  b := field b 36 6
  d := field b 30 6
  imm := field b 0 30

/-- Bits [47:0] of the fields (R63). -/
def TS.toBits (f : TS) : BitVec 48 :=
  BitVec.ofNat 48 (f.a.toNat * 4398046511104 + f.b.toNat * 68719476736 + f.d.toNat * 1073741824 + f.imm.toNat)

/-- The operation of a major, a function and format bits (R64); none where R65 calls the encoding unassigned. -/
def mkOp (maj fn : Nat) (b : BitVec 48) : Option Instr :=
  match maj, fn with
  | 0x00, 0 => some (.nop (.ofBits b))
  | 0x01, 0 => some (.br (.ofBits b))
  | 0x01, 1 => some (.call (.ofBits b))
  | 0x01, 2 => some (.ret (.ofBits b))
  | 0x01, 3 => some (.bri (.ofBits b))
  | 0x02, 0 => some (.brcT (.ofBits b))
  | 0x02, 1 => some (.brcF (.ofBits b))
  | 0x03, 0 => some (.loop (.ofBits b))
  | 0x03, 1 => some (.loopi (.ofBits b))
  | 0x04, 0 => some (.lcrd (.ofBits b))
  | 0x04, 1 => some (.lcwr (.ofBits b))
  | 0x05, 0 => some (.rep (.ofBits b))
  | 0x10, 0 => some (.fork (.ofBits b))
  | 0x11, 0 => some (.join (.ofBits b))
  | 0x12, 0 => some (.cbset (.ofBits b))
  | 0x12, 1 => some (.cbclr (.ofBits b))
  | 0x12, 2 => some (.cbwait (.ofBits b))
  | 0x13, 0 => some (.cqpush (.ofBits b))
  | 0x13, 1 => some (.cqpop (.ofBits b))
  | 0x13, 2 => some (.cqcnt (.ofBits b))
  | 0x14, 0 => some (.gsetQ (.ofBits b))
  | 0x14, 1 => some (.gsetS (.ofBits b))
  | 0x14, 2 => some (.gclr (.ofBits b))
  | 0x15, 0 => some (.waitcnt (.ofBits b))
  | 0x16, 0 => some (.fenceAll (.ofBits b))
  | 0x16, 1 => some (.fence (.ofBits b))
  | 0x16, 2 => some (.phase (.ofBits b))
  | 0x17, 0 => some (.csrr (.ofBits b))
  | 0x17, 1 => some (.csrw (.ofBits b))
  | 0x17, 2 => some (.csrs (.ofBits b))
  | 0x17, 3 => some (.csrc (.ofBits b))
  | 0x18, 0 => some (.trap (.ofBits b))
  | 0x18, 1 => some (.tret (.ofBits b))
  | 0x18, 2 => some (.halt (.ofBits b))
  | 0x19, 0 => some (.clkdiv (.ofBits b))
  | 0x19, 1 => some (.clkmode (.ofBits b))
  | 0x1a, 0 => some (.discard (.ofBits b))
  | 0x1a, 1 => some (.acclive (.ofBits b))
  | 0x20, 0 => some (.add (.ofBits b))
  | 0x20, 1 => some (.sub (.ofBits b))
  | 0x20, 2 => some (.and (.ofBits b))
  | 0x20, 3 => some (.or (.ofBits b))
  | 0x20, 4 => some (.xor (.ofBits b))
  | 0x20, 5 => some (.andn (.ofBits b))
  | 0x20, 6 => some (.shl (.ofBits b))
  | 0x20, 7 => some (.shr (.ofBits b))
  | 0x20, 8 => some (.sar (.ofBits b))
  | 0x20, 9 => some (.min (.ofBits b))
  | 0x20, 10 => some (.max (.ofBits b))
  | 0x20, 11 => some (.minu (.ofBits b))
  | 0x20, 12 => some (.maxu (.ofBits b))
  | 0x21, 0 => some (.addi (.ofBits b))
  | 0x21, 1 => some (.andi (.ofBits b))
  | 0x21, 2 => some (.ori (.ofBits b))
  | 0x21, 3 => some (.xori (.ofBits b))
  | 0x21, 4 => some (.shli (.ofBits b))
  | 0x21, 5 => some (.shri (.ofBits b))
  | 0x21, 6 => some (.sari (.ofBits b))
  | 0x22, 0 => some (.li (.ofBits b))
  | 0x22, 1 => some (.lih (.ofBits b))
  | 0x23, 0 => some (.mul (.ofBits b))
  | 0x23, 1 => some (.mulh (.ofBits b))
  | 0x23, 2 => some (.mulhu (.ofBits b))
  | 0x23, 3 => some (.mad (.ofBits b))
  | 0x24, 0 => some (.div (.ofBits b))
  | 0x24, 1 => some (.divu (.ofBits b))
  | 0x24, 2 => some (.rem (.ofBits b))
  | 0x24, 3 => some (.remu (.ofBits b))
  | 0x25, 0 => some (.cmp (.ofBits b))
  | 0x25, 1 => some (.cmpq (.ofBits b))
  | 0x26, 0 => some (.clz (.ofBits b))
  | 0x26, 1 => some (.ctz (.ofBits b))
  | 0x26, 2 => some (.popc (.ofBits b))
  | 0x26, 3 => some (.bfe (.ofBits b))
  | 0x26, 4 => some (.bfi (.ofBits b))
  | 0x26, 5 => some (.brev (.ofBits b))
  | 0x27, 0 => some (.sel (.ofBits b))
  | 0x30, 0 => some (.fadd (.ofBits b))
  | 0x30, 1 => some (.fsub (.ofBits b))
  | 0x30, 2 => some (.fmul (.ofBits b))
  | 0x30, 3 => some (.fmin (.ofBits b))
  | 0x30, 4 => some (.fmax (.ofBits b))
  | 0x31, 0 => some (.ffma (.ofBits b))
  | 0x32, 0 => some (.fcmp (.ofBits b))
  | 0x32, 1 => some (.fcmpq (.ofBits b))
  | 0x33, 0 => some (.fcvt (.ofBits b))
  | 0x34, 0 => some (.fclass (.ofBits b))
  | 0x38, 0 => some (.ld (.ofBits b))
  | 0x39, 0 => some (.st (.ofBits b))
  | 0x3a, 0 => some (.amoadd (.ofBits b))
  | 0x3a, 1 => some (.amoand (.ofBits b))
  | 0x3a, 2 => some (.amoor (.ofBits b))
  | 0x3a, 3 => some (.amoxor (.ofBits b))
  | 0x3a, 4 => some (.amomin (.ofBits b))
  | 0x3a, 5 => some (.amomax (.ofBits b))
  | 0x3a, 6 => some (.amominu (.ofBits b))
  | 0x3a, 7 => some (.amomaxu (.ofBits b))
  | 0x3a, 8 => some (.amoswp (.ofBits b))
  | 0x3a, 9 => some (.amocas (.ofBits b))
  | 0x3a, 10 => some (.amofadd (.ofBits b))
  | 0x3b, 0 => some (.feset (.ofBits b))
  | 0x3b, 1 => some (.feclr (.ofBits b))
  | 0x3b, 2 => some (.feq (.ofBits b))
  | 0x3c, 0 => some (.pooladd (.ofBits b))
  | 0x3c, 1 => some (.poolmax (.ofBits b))
  | 0x3c, 2 => some (.poolred (.ofBits b))
  | 0x3c, 3 => some (.poolfill (.ofBits b))
  | 0x3d, 0 => some (.extq (.ofBits b))
  | 0x40, 0 => some (.vadd (.ofBits b))
  | 0x40, 1 => some (.vsub (.ofBits b))
  | 0x40, 2 => some (.vmul (.ofBits b))
  | 0x40, 3 => some (.vmin (.ofBits b))
  | 0x40, 4 => some (.vmax (.ofBits b))
  | 0x40, 5 => some (.vand (.ofBits b))
  | 0x40, 6 => some (.vor (.ofBits b))
  | 0x40, 7 => some (.vxor (.ofBits b))
  | 0x40, 8 => some (.vshl (.ofBits b))
  | 0x40, 9 => some (.vshr (.ofBits b))
  | 0x40, 10 => some (.vsar (.ofBits b))
  | 0x41, 0 => some (.vfma (.ofBits b))
  | 0x42, 0 => some (.vcmp (.ofBits b))
  | 0x43, 0 => some (.vcmpqAny (.ofBits b))
  | 0x43, 1 => some (.vcmpqAll (.ofBits b))
  | 0x44, 0 => some (.vsel (.ofBits b))
  | 0x45, 0 => some (.vcvt (.ofBits b))
  | 0x46, 0 => some (.vmov (.ofBits b))
  | 0x46, 1 => some (.vmovs (.ofBits b))
  | 0x46, 2 => some (.vmovx (.ofBits b))
  | 0x46, 3 => some (.viota (.ofBits b))
  | 0x47, 0 => some (.mand (.ofBits b))
  | 0x47, 1 => some (.mor (.ofBits b))
  | 0x47, 2 => some (.mxor (.ofBits b))
  | 0x47, 3 => some (.mnot (.ofBits b))
  | 0x47, 4 => some (.mpop (.ofBits b))
  | 0x48, 0 => some (.vquant (.ofBits b))
  | 0x48, 1 => some (.vdeq (.ofBits b))
  | 0x58, 0 => some (.vrotR (.ofBits b))
  | 0x58, 1 => some (.vrotC (.ofBits b))
  | 0x59, 0 => some (.vbcR (.ofBits b))
  | 0x59, 1 => some (.vbcC (.ofBits b))
  | 0x5a, 0 => some (.vredR (.ofBits b))
  | 0x5a, 1 => some (.vredC (.ofBits b))
  | 0x5b, 0 => some (.vshuf (.ofBits b))
  | 0x5c, 0 => some (.vsfu (.ofBits b))
  | 0x5d, 0 => some (.vsftab (.ofBits b))
  | 0x60, 0 => some (.vld (.ofBits b))
  | 0x61, 0 => some (.vst (.ofBits b))
  | 0x62, 0 => some (.vldx (.ofBits b))
  | 0x63, 0 => some (.vstx (.ofBits b))
  | 0x64, 0 => some (.vlda (.ofBits b))
  | 0x65, 0 => some (.vsta (.ofBits b))
  | 0x66, 0 => some (.vstr (.ofBits b))
  | 0x66, 1 => some (.vstrRel (.ofBits b))
  | 0x67, 0 => some (.bfxp (.ofBits b))
  | 0x68, 0 => some (.mxloop (.ofBits b))
  | 0x69, 0 => some (.mxaddr (.ofBits b))
  | 0x6a, 0 => some (.mxfmt (.ofBits b))
  | 0x6b, 0 => some (.mxidx (.ofBits b))
  | 0x6c, 0 => some (.mxwld (.ofBits b))
  | 0x6c, 1 => some (.mxwstrm (.ofBits b))
  | 0x6d, 0 => some (.mxgo (.ofBits b))
  | 0x6d, 1 => some (.mxzero (.ofBits b))
  | 0x6d, 2 => some (.mxdrain (.ofBits b))
  | 0x6e, 0 => some (.mxnorm (.ofBits b))
  | 0x6e, 1 => some (.msbuild (.ofBits b))
  | 0x6e, 2 => some (.mxsmp (.ofBits b))
  | 0x6e, 3 => some (.mxstat (.ofBits b))
  | 0x70, 0 => some (.cpin (.ofBits b))
  | 0x71, 0 => some (.cpout (.ofBits b))
  | 0x72, 0 => some (.cp2d (.ofBits b))
  | 0x73, 0 => some (.cpmc (.ofBits b))
  | 0x74, 0 => some (.cprs (.ofBits b))
  | 0x75, 0 => some (.barinit (.ofBits b))
  | 0x75, 1 => some (.barexp (.ofBits b))
  | 0x75, 2 => some (.barwait (.ofBits b))
  | 0x75, 3 => some (.barwaitT (.ofBits b))
  | 0x75, 4 => some (.barq (.ofBits b))
  | 0x76, 0 => some (.tokwait (.ofBits b))
  | 0x76, 1 => some (.toktest (.ofBits b))
  | 0x77, 0 => some (.cpcan (.ofBits b))
  | 0x78, 0 => some (.spawn (.ofBits b))
  | 0x78, 1 => some (.spawnD (.ofBits b))
  | 0x78, 2 => some (.spawnop (.ofBits b))
  | 0x79, 0 => some (.tend (.ofBits b))
  | 0x79, 1 => some (.tcont (.ofBits b))
  | 0x79, 2 => some (.tyield (.ofBits b))
  | 0x79, 3 => some (.tstat (.ofBits b))
  | 0x7a, 0 => some (.jcnew (.ofBits b))
  | 0x7a, 1 => some (.jcadd (.ofBits b))
  | 0x7b, 0 => some (.mbrecv (.ofBits b))
  | 0x7b, 1 => some (.mbsend (.ofBits b))
  | 0x7b, 2 => some (.mbstat (.ofBits b))
  | _, _ => none

/-- Major, function and format bits of an operation (R64); none for what is no operation of a bundle. -/
def opBits : Instr → Option (Nat × Nat × BitVec 48)
  | .nop f => some (0x00, 0, f.toBits)
  | .br f => some (0x01, 0, f.toBits)
  | .call f => some (0x01, 1, f.toBits)
  | .ret f => some (0x01, 2, f.toBits)
  | .bri f => some (0x01, 3, f.toBits)
  | .brcT f => some (0x02, 0, f.toBits)
  | .brcF f => some (0x02, 1, f.toBits)
  | .loop f => some (0x03, 0, f.toBits)
  | .loopi f => some (0x03, 1, f.toBits)
  | .lcrd f => some (0x04, 0, f.toBits)
  | .lcwr f => some (0x04, 1, f.toBits)
  | .rep f => some (0x05, 0, f.toBits)
  | .fork f => some (0x10, 0, f.toBits)
  | .join f => some (0x11, 0, f.toBits)
  | .cbset f => some (0x12, 0, f.toBits)
  | .cbclr f => some (0x12, 1, f.toBits)
  | .cbwait f => some (0x12, 2, f.toBits)
  | .cqpush f => some (0x13, 0, f.toBits)
  | .cqpop f => some (0x13, 1, f.toBits)
  | .cqcnt f => some (0x13, 2, f.toBits)
  | .gsetQ f => some (0x14, 0, f.toBits)
  | .gsetS f => some (0x14, 1, f.toBits)
  | .gclr f => some (0x14, 2, f.toBits)
  | .waitcnt f => some (0x15, 0, f.toBits)
  | .fenceAll f => some (0x16, 0, f.toBits)
  | .fence f => some (0x16, 1, f.toBits)
  | .phase f => some (0x16, 2, f.toBits)
  | .csrr f => some (0x17, 0, f.toBits)
  | .csrw f => some (0x17, 1, f.toBits)
  | .csrs f => some (0x17, 2, f.toBits)
  | .csrc f => some (0x17, 3, f.toBits)
  | .trap f => some (0x18, 0, f.toBits)
  | .tret f => some (0x18, 1, f.toBits)
  | .halt f => some (0x18, 2, f.toBits)
  | .clkdiv f => some (0x19, 0, f.toBits)
  | .clkmode f => some (0x19, 1, f.toBits)
  | .discard f => some (0x1a, 0, f.toBits)
  | .acclive f => some (0x1a, 1, f.toBits)
  | .add f => some (0x20, 0, f.toBits)
  | .sub f => some (0x20, 1, f.toBits)
  | .and f => some (0x20, 2, f.toBits)
  | .or f => some (0x20, 3, f.toBits)
  | .xor f => some (0x20, 4, f.toBits)
  | .andn f => some (0x20, 5, f.toBits)
  | .shl f => some (0x20, 6, f.toBits)
  | .shr f => some (0x20, 7, f.toBits)
  | .sar f => some (0x20, 8, f.toBits)
  | .min f => some (0x20, 9, f.toBits)
  | .max f => some (0x20, 10, f.toBits)
  | .minu f => some (0x20, 11, f.toBits)
  | .maxu f => some (0x20, 12, f.toBits)
  | .addi f => some (0x21, 0, f.toBits)
  | .andi f => some (0x21, 1, f.toBits)
  | .ori f => some (0x21, 2, f.toBits)
  | .xori f => some (0x21, 3, f.toBits)
  | .shli f => some (0x21, 4, f.toBits)
  | .shri f => some (0x21, 5, f.toBits)
  | .sari f => some (0x21, 6, f.toBits)
  | .li f => some (0x22, 0, f.toBits)
  | .lih f => some (0x22, 1, f.toBits)
  | .mul f => some (0x23, 0, f.toBits)
  | .mulh f => some (0x23, 1, f.toBits)
  | .mulhu f => some (0x23, 2, f.toBits)
  | .mad f => some (0x23, 3, f.toBits)
  | .div f => some (0x24, 0, f.toBits)
  | .divu f => some (0x24, 1, f.toBits)
  | .rem f => some (0x24, 2, f.toBits)
  | .remu f => some (0x24, 3, f.toBits)
  | .cmp f => some (0x25, 0, f.toBits)
  | .cmpq f => some (0x25, 1, f.toBits)
  | .clz f => some (0x26, 0, f.toBits)
  | .ctz f => some (0x26, 1, f.toBits)
  | .popc f => some (0x26, 2, f.toBits)
  | .bfe f => some (0x26, 3, f.toBits)
  | .bfi f => some (0x26, 4, f.toBits)
  | .brev f => some (0x26, 5, f.toBits)
  | .sel f => some (0x27, 0, f.toBits)
  | .fadd f => some (0x30, 0, f.toBits)
  | .fsub f => some (0x30, 1, f.toBits)
  | .fmul f => some (0x30, 2, f.toBits)
  | .fmin f => some (0x30, 3, f.toBits)
  | .fmax f => some (0x30, 4, f.toBits)
  | .ffma f => some (0x31, 0, f.toBits)
  | .fcmp f => some (0x32, 0, f.toBits)
  | .fcmpq f => some (0x32, 1, f.toBits)
  | .fcvt f => some (0x33, 0, f.toBits)
  | .fclass f => some (0x34, 0, f.toBits)
  | .ld f => some (0x38, 0, f.toBits)
  | .st f => some (0x39, 0, f.toBits)
  | .amoadd f => some (0x3a, 0, f.toBits)
  | .amoand f => some (0x3a, 1, f.toBits)
  | .amoor f => some (0x3a, 2, f.toBits)
  | .amoxor f => some (0x3a, 3, f.toBits)
  | .amomin f => some (0x3a, 4, f.toBits)
  | .amomax f => some (0x3a, 5, f.toBits)
  | .amominu f => some (0x3a, 6, f.toBits)
  | .amomaxu f => some (0x3a, 7, f.toBits)
  | .amoswp f => some (0x3a, 8, f.toBits)
  | .amocas f => some (0x3a, 9, f.toBits)
  | .amofadd f => some (0x3a, 10, f.toBits)
  | .feset f => some (0x3b, 0, f.toBits)
  | .feclr f => some (0x3b, 1, f.toBits)
  | .feq f => some (0x3b, 2, f.toBits)
  | .pooladd f => some (0x3c, 0, f.toBits)
  | .poolmax f => some (0x3c, 1, f.toBits)
  | .poolred f => some (0x3c, 2, f.toBits)
  | .poolfill f => some (0x3c, 3, f.toBits)
  | .extq f => some (0x3d, 0, f.toBits)
  | .vadd f => some (0x40, 0, f.toBits)
  | .vsub f => some (0x40, 1, f.toBits)
  | .vmul f => some (0x40, 2, f.toBits)
  | .vmin f => some (0x40, 3, f.toBits)
  | .vmax f => some (0x40, 4, f.toBits)
  | .vand f => some (0x40, 5, f.toBits)
  | .vor f => some (0x40, 6, f.toBits)
  | .vxor f => some (0x40, 7, f.toBits)
  | .vshl f => some (0x40, 8, f.toBits)
  | .vshr f => some (0x40, 9, f.toBits)
  | .vsar f => some (0x40, 10, f.toBits)
  | .vfma f => some (0x41, 0, f.toBits)
  | .vcmp f => some (0x42, 0, f.toBits)
  | .vcmpqAny f => some (0x43, 0, f.toBits)
  | .vcmpqAll f => some (0x43, 1, f.toBits)
  | .vsel f => some (0x44, 0, f.toBits)
  | .vcvt f => some (0x45, 0, f.toBits)
  | .vmov f => some (0x46, 0, f.toBits)
  | .vmovs f => some (0x46, 1, f.toBits)
  | .vmovx f => some (0x46, 2, f.toBits)
  | .viota f => some (0x46, 3, f.toBits)
  | .mand f => some (0x47, 0, f.toBits)
  | .mor f => some (0x47, 1, f.toBits)
  | .mxor f => some (0x47, 2, f.toBits)
  | .mnot f => some (0x47, 3, f.toBits)
  | .mpop f => some (0x47, 4, f.toBits)
  | .vquant f => some (0x48, 0, f.toBits)
  | .vdeq f => some (0x48, 1, f.toBits)
  | .vrotR f => some (0x58, 0, f.toBits)
  | .vrotC f => some (0x58, 1, f.toBits)
  | .vbcR f => some (0x59, 0, f.toBits)
  | .vbcC f => some (0x59, 1, f.toBits)
  | .vredR f => some (0x5a, 0, f.toBits)
  | .vredC f => some (0x5a, 1, f.toBits)
  | .vshuf f => some (0x5b, 0, f.toBits)
  | .vsfu f => some (0x5c, 0, f.toBits)
  | .vsftab f => some (0x5d, 0, f.toBits)
  | .vld f => some (0x60, 0, f.toBits)
  | .vst f => some (0x61, 0, f.toBits)
  | .vldx f => some (0x62, 0, f.toBits)
  | .vstx f => some (0x63, 0, f.toBits)
  | .vlda f => some (0x64, 0, f.toBits)
  | .vsta f => some (0x65, 0, f.toBits)
  | .vstr f => some (0x66, 0, f.toBits)
  | .vstrRel f => some (0x66, 1, f.toBits)
  | .bfxp f => some (0x67, 0, f.toBits)
  | .mxloop f => some (0x68, 0, f.toBits)
  | .mxaddr f => some (0x69, 0, f.toBits)
  | .mxfmt f => some (0x6a, 0, f.toBits)
  | .mxidx f => some (0x6b, 0, f.toBits)
  | .mxwld f => some (0x6c, 0, f.toBits)
  | .mxwstrm f => some (0x6c, 1, f.toBits)
  | .mxgo f => some (0x6d, 0, f.toBits)
  | .mxzero f => some (0x6d, 1, f.toBits)
  | .mxdrain f => some (0x6d, 2, f.toBits)
  | .mxnorm f => some (0x6e, 0, f.toBits)
  | .msbuild f => some (0x6e, 1, f.toBits)
  | .mxsmp f => some (0x6e, 2, f.toBits)
  | .mxstat f => some (0x6e, 3, f.toBits)
  | .cpin f => some (0x70, 0, f.toBits)
  | .cpout f => some (0x71, 0, f.toBits)
  | .cp2d f => some (0x72, 0, f.toBits)
  | .cpmc f => some (0x73, 0, f.toBits)
  | .cprs f => some (0x74, 0, f.toBits)
  | .barinit f => some (0x75, 0, f.toBits)
  | .barexp f => some (0x75, 1, f.toBits)
  | .barwait f => some (0x75, 2, f.toBits)
  | .barwaitT f => some (0x75, 3, f.toBits)
  | .barq f => some (0x75, 4, f.toBits)
  | .tokwait f => some (0x76, 0, f.toBits)
  | .toktest f => some (0x76, 1, f.toBits)
  | .cpcan f => some (0x77, 0, f.toBits)
  | .spawn f => some (0x78, 0, f.toBits)
  | .spawnD f => some (0x78, 1, f.toBits)
  | .spawnop f => some (0x78, 2, f.toBits)
  | .tend f => some (0x79, 0, f.toBits)
  | .tcont f => some (0x79, 1, f.toBits)
  | .tyield f => some (0x79, 2, f.toBits)
  | .tstat f => some (0x79, 3, f.toBits)
  | .jcnew f => some (0x7a, 0, f.toBits)
  | .jcadd f => some (0x7a, 1, f.toBits)
  | .mbrecv f => some (0x7b, 0, f.toBits)
  | .mbsend f => some (0x7b, 1, f.toBits)
  | .mbstat f => some (0x7b, 2, f.toBits)
  | .mbPost _ _ _ => none
  | .mbTake _ _ => none
  | .mbPeek _ => none
  | .epSwitch _ _ _ => none
  | .epWdset _ _ => none
  | .epEnd _ => none
  | .claim _ _ => none
  | .claimpri _ _ => none
  | .ownerRelease _ _ => none
  | .controlBlockWrite _ _ _ => none
  | .loadImage _ _ => none
  | .config _ => none
  | .setPolver _ _ => none
  | .resume _ _ => none
  | .kill _ _ => none
  | .preempt _ _ => none
  | .loadCamp _ _ _ => none
  | .migrate _ _ => none
  | .migrationComplete _ => none
  | .settleExpiry _ => none
  | .attest _ _ => none
  | .faultReply _ _ => none
  | .releaseSave _ => none
  | .coldReset _ => none
  | .hostBar2Access _ _ _ => none
  | .skornLinkFailure _ => none
  | .pseudoChannelRetire _ _ => none
  | .retirementSwitch _ _ => none
  | .mxcadWrite _ _ => none
  | .powerMonitorReport _ => none
  | .backstopHoldEnd _ => none
  | .thermalAlert _ _ _ _ => none
  | .supplyDroop _ _ => none
  | .retentionEntry _ => none
  | .retentionExit _ _ => none
  | .clusterGate _ => none
  | .clusterWake _ => none
  | .campCoreInstruction _ => none
  | .unassignedEncoding _ => none
  | .hostPortUncorrectableError _ _ => none
  | .repRepeatIssue => none
  | .tretResume => none
  | .clkdivApply => none
  | .clockModeSwitchDone => none
  | .sfuTableReady => none
  | .barwaitTimeout => none
  | .blockAccept => none
  | .taskEnd => none
  | .watchdogExpiry => none
  | .writebackLand => none
  | .variableResultLand => none
  | .destinationAccept => none
  | .completionWaitEnd => none
  | .crossingDrainEnd => none
  | .secondaryStarvationRelief => none
  | .engineCommandStart => none
  | .matrixReloadDone => none
  | .matrixPassInject => none
  | .matrixPassLand => none
  | .matrixRowStep => none
  | .matrixCommandComplete => none
  | .weightLoadComplete => none
  | .mxsmpSample => none
  | .mxsmpCheck => none
  | .copyBlockArrival => none
  | .copyPageFault => none
  | .copyCommandComplete => none
  | .networkPortAccess => none
  | .poolBankAccess => none
  | .deviceMemoryAccess => none
  | .postedFaultTaken => none
  | .dispatch => none
  | .schedulerPreempt => none
  | .contextSave => none
  | .contextRestore => none
  | .faultRecordWrite => none
  | .joinCounterDecrement => none
  | .walkerStepPush => none
  | .spillReturn => none
  | .neighbourAveraging => none
  | .workUnitArrival => none
  | .electionWindowEnd => none
  | .start => none
  | .warmReset => none
  | .memready => none
  | .powerBackstop => none

/-- A word of a bundle (R46). A MAJ or FN that R64 does not list gives UNASSIGNED_ENCODING, never another operation (R65). -/
def decodeOp (w : W64) : OpWord where
  e := field w 63 1
  slot := field w 60 3
  x := field w 59 1
  op := (mkOp (field w 52 7).toNat (field w 48 4).toNat (field w 0 48)).getD (.unassignedEncoding w)

/-- The word of a bundle's operation (R46); none for what never stands in a bundle. -/
def encodeOp (o : OpWord) : Option W64 :=
  match o.op with
  | .unassignedEncoding w => some w
  | i =>
    match opBits i with
    | some (maj, fn, b) =>
      some (BitVec.ofNat 64 (o.e.toNat * 9223372036854775808 + o.slot.toNat * 1152921504606846976
        + o.x.toNat * 576460752303423488 + maj * 4503599627370496 + fn * 281474976710656 + b.toNat))
    | none => none

/-- A camp core's 32-bit word (R345): the custom-0 encodings that the table gives, and every other word as an instruction of
the base ISA (which raises illegal-instruction for a custom-0 word that R345 does not assign, R338). -/
def decodeCamp (w : BitVec 32) : Instr :=
  let rd := field w 7 5
  let rs1 := field w 15 5
  let rs2 := field w 20 5
  if field w 0 7 = 0b0001011#7 ∧ field w 25 7 = 0#7 then
    match (field w 12 3).toNat with
    | 0 => .mbPost rd rs1 rs2
    | 1 => if rs2 = 0#5 then .mbTake rd rs1 else .campCoreInstruction w
    | 2 => if rs1 = 0#5 ∧ rs2 = 0#5 then .mbPeek rd else .campCoreInstruction w
    | 3 => .epSwitch rd rs1 rs2
    | 4 => if rs2 = 0#5 then .epWdset rd rs1 else .campCoreInstruction w
    | 5 => if rs1 = 0#5 ∧ rs2 = 0#5 then .epEnd rd else .campCoreInstruction w
    | _ => .campCoreInstruction w
  else .campCoreInstruction w

/-- A custom-0 word of R345: funct7 0, the function, and the operand registers. -/
def campWord (funct3 : Nat) (rd rs1 rs2 : BitVec 5) : BitVec 32 :=
  BitVec.ofNat 32 (rs2.toNat * 1048576 + rs1.toNat * 32768 + funct3 * 4096 + rd.toNat * 128 + 11)

/-- The word of a camp instruction (R345); none for what no camp core fetches. -/
def encodeCamp : Instr → Option (BitVec 32)
  | .mbPost rd rs1 rs2 => some (campWord 0 rd rs1 rs2)
  | .mbTake rd rs1 => some (campWord 1 rd rs1 0#5)
  | .mbPeek rd => some (campWord 2 rd 0#5 0#5)
  | .epSwitch rd rs1 rs2 => some (campWord 3 rd rs1 rs2)
  | .epWdset rd rs1 => some (campWord 4 rd rs1 0#5)
  | .epEnd rd => some (campWord 5 rd 0#5 0#5)
  | .campCoreInstruction w => some w
  | _ => none

/-- The bytes of an instruction as the hardware stores them: a single-operation bundle in its lowest legal slot for an
operation of a bundle (R46, R47), a 32-bit word for a camp core; none for the device's own events. -/
def encode (i : Instr) : Option (List Byte) :=
  match opBits i with
  | some _ =>
    (encodeOp { e := 1#1, slot := BitVec.ofNat 3 (leastOr 0 (bitsOf (slotSet i) 8)), x := 0#1, op := i }).map
      fun w => toBytes 8 w.toNat
  | none => (encodeCamp i).map fun w => toBytes 4 w.toNat

/-- The instruction that the bytes at the start of a list hold, and the rest: an operation word of a bundle takes 8 bytes
(R46). -/
def decodeWord (bs : List Byte) : Option (OpWord × List Byte) :=
  if bs.length < 8 then none else some (decodeOp (BitVec.ofNat 64 (ofBytes (bs.take 8))), bs.drop 8)

/-- The instruction read from bits numbered as spec/opcode_table.json numbers them: the rows with bits are the camp
extension's, 32-bit words (R345); a 64-bit word is a word of a bundle (R46). -/
def decodeTableWord (nbits w : Nat) : Option Instr :=
  if nbits = 32 then some (decodeCamp (BitVec.ofNat 32 (ofBytes (toBytes 4 w))))
  else if nbits = 64 then (decodeWord (toBytes 8 w)).map fun p => p.1.op
  else none

end Sys2Proof
end

