-- ==== Sys2Proof/Config.lean ====
section
/-!
DEFINITION. What an implementation fixes and the free values (log entries 2, 4 and 9): the values that the manual leaves open are constants
without a body, so that nothing can be proved of what they are.
-/

namespace Sys2Proof.Config

/-- A time in reference cycles that the manual leaves open (R71, R239, R214, R334, R300): the n-th one asked for. -/
opaque delay : Nat → Nat
/-- A choice between two outcomes that the manual leaves open (R275): the n-th one asked for. -/
opaque choice : Nat → Bool
/-- An order among equals that the manual leaves open: the n-th one asked for. -/
opaque order : Nat → Nat
/-- The parts of a signed image (R372), whose places in it are open: its public key as its hash is fused, what is signed, and the
signature. -/
opaque imageKey : List Byte → List Byte
opaque signedPart : List Byte → List Byte
opaque imageSignature : List Byte → List Byte
/-- The numbers of a public key in that form. -/
opaque keyModulus : List Byte → Nat
opaque keyExponent : List Byte → Nat
/-- The firmware image, and that of the default special-function tables (R372). -/
opaque firmwareImage : List Byte
opaque tableImage : List Byte
/-- The fused hash of the signing key (R372). -/
opaque fusedKeyHash : List Byte
/-- The fused identity key (R373, R374): modulus and private exponent. -/
opaque identityKey : Nat × Nat
/-- The device's serial, and the digest of its firmware (R373). -/
opaque deviceSerial : List Byte
opaque firmwareDigest : List Byte
/-- Byte i of the 96 bytes of an attestation report between nonce and signature, for what they say: R373 gives no layout, and the
digests of many images do not fit byte for byte. -/
opaque reportByte : (content : List Byte) → (i : Nat) → Byte
/-- The session key derived for a report (R373). -/
opaque sessionKey : (report : List Byte) → List Byte
/-- The fused repair map: stack, pseudo-channel and spare (R374). -/
opaque fusedRepairs : List (Nat × Nat × Nat)
/-- Word w of default table t of the firmware image (R186), where R186 does not give it. -/
opaque tableWord : Nat → Nat → W32
/-- Where the loader places what it allocates, and which virtual bases it takes (R83): the n-th place asked for. -/
opaque placeBase : Nat → Nat
/-- A read of a memory cell in a cycle meets an uncorrectable memory error (R204, R252). -/
opaque badRead : (cycle cell : Nat) → Bool
/-- A byte that one of two racing accesses decides (R164, R216): true for the new byte. -/
opaque raceNew : Nat → Bool

/-- The route table that system software has loaded, as pairs of device number and port (R369): the manual gives no operation that
loads it. -/
opaque loadedRoutes : List (Nat × Nat)
/-- The place among its die's core tiles at which a Skorn Link port attaches to the mesh, or with 16 the host port (R9 gives the die). -/
opaque portTile : Nat → Nat
/-- A master ID names a master that is present (R364, R366). -/
opaque masterPresent : Nat → Bool
/-- This device's own number among those of its links (R369). -/
opaque selfDevice : Nat
/-- The root of a peer device's page table, in that device's memory (R370). -/
opaque peerRoot : Nat → Nat
/-- Bytes of the camp image at a host address: how many, and the payload that it loads (R372, R368). -/
opaque campImageSize : Nat → Nat
opaque campPayload : List Byte → List Byte
/-- The address of a camp image's entry (R368). -/
opaque campEntry : List Byte → Nat
/-- Identity CSR c of camp core n (mvendorid, marchid, mimpid, mhartid). -/
opaque campId : Nat → Nat → W64
/-- A camp core performs a misaligned load or store, which the base ISA leaves to the implementation. -/
opaque campMisaligned : Bool
/-- mtval holds the word of an illegal instruction and the address of a breakpoint, and not 0: left to the implementation. -/
opaque campTval : Bool
/-- A 64-bit value that the manual leaves open (TVAL of an ENGINE fault at a crossing, R38): the n-th one asked for. -/
opaque openWord : Nat → W64
/-- The reference cycles from a reset until the memory links are trained (R374). -/
opaque trainCycles : Nat
/-- Byte i of a part of a save area that the manual names without a layout (R328), of what it holds. -/
opaque saveByte : (part : Nat) → (content : List Byte) → (i : Nat) → Byte

/-- Degrees Celsius that a thermal sensor of a die reads in a cycle (R359, R360). -/
opaque junction : (cycle die sensor : Nat) → Nat

/-- Reference cycles of a mode switch (R357). -/
def switchCycles : Nat := 2048
/-- Reference cycles from a free context to the first bundle (R300). -/
def dispatchCycles : Nat := 32
/-- Reference cycles of a restore before its reads (R334). -/
def restoreCycles : Nat := 256
/-- Reference cycles that a unit runs before the scheduler may pre-empt it (R301). -/
def preemptAfter : Nat := 4096
/-- Reference cycles of refusals before the relief of R45. -/
def starveAfter : Nat := 1024
/-- Reference cycles between two averaging exchanges (R302). -/
def averagePeriod : Nat := 256
/-- Reference cycles counted for the election window of 1 ms and the backstop hold of 1 ms at 2.7 GHz (R359, R365). -/
def millisecond : Nat := 2700000
/-- The envelope over 10 ms, at which the backstop acts, in milliwatts (R359). -/
def envelopeMilliwatts : Nat := 3600000
/-- The sensor reading at which the backstop acts, in degrees Celsius (R359). -/
def junctionLimit : Nat := 105

end Sys2Proof.Config
end

