-- ==== Sys2Proof/Machine/Security.lean ====
section
/-!
DEFINITION. Signatures and digests (spec/31 R372, R373): RSASSA-PSS with RSA-3072, SHA-256, MGF1 with SHA-256 and a salt of 32 bytes, as
those names stand for in their standards (log entry 37). Numbers are big-endian.
-/

namespace Sys2Proof.Machine

/-! ### SHA-256 -/

/-- The n bytes of v, most significant first. -/
def bytesBE (n v : Nat) : List Byte := (toBytes n v).reverse

/-- The value of a run of bytes, most significant first. -/
def valueBE (bs : List Byte) : Nat := ofBytes bs.reverse

/-- The bits of the k-th root of v below bit n, added to what the bits above have given. -/
def rootFrom (k v : Nat) : (n sofar : Nat) → Nat
  | 0, r => r
  | n + 1, r => rootFrom k v n (if (r + 2 ^ n) ^ k ≤ v then r + 2 ^ n else r)

/-- The first 32 bits of the fraction of the k-th root of a number. -/
def rootFraction (k p : Nat) : W32 := BitVec.ofNat 32 (rootFrom k (p * 2 ^ (32 * k)) 40 0)

/-- The first 64 primes. -/
def shaPrimes : List Nat := (upTo 312).filter fun p => decide (2 ≤ p) && (upTo p).all fun d => decide (d < 2 ∨ p % d ≠ 0)

/-- The constants of the rounds, and the words that the chain starts from. -/
def shaConstants : List W32 := shaPrimes.map (rootFraction 3)
def shaStart : List W32 := (shaPrimes.take 8).map (rootFraction 2)

/-- The word that three rotations of another make together. -/
def mix (x : W32) (a b c : Nat) : W32 := x.rotateRight a ^^^ x.rotateRight b ^^^ x.rotateRight c

/-- The last of a mix's terms a shift, as the schedule has it. -/
def mixShift (x : W32) (a b c : Nat) : W32 := x.rotateRight a ^^^ x.rotateRight b ^^^ x >>> c

/-- One more word of the schedule before the newest ones. -/
def nextScheduled (newest : List W32) : W32 :=
  let back (i : Nat) : W32 := newest.getD (i - 1) 0
  back 16 + mixShift (back 15) 7 18 3 + back 7 + mixShift (back 2) 17 19 10

/-- n more words of the schedule, newest first. -/
def extendSchedule : (n : Nat) → List W32 → List W32
  | 0, l => l
  | n + 1, l => extendSchedule n (nextScheduled l :: l)

/-- One round on the eight working words, with its constant and its scheduled word. -/
def shaRound (v : List W32) (z : W32 × W32) : List W32 :=
  let at' (i : Nat) : W32 := v.getD i 0
  let choice := (at' 4 &&& at' 5) ||| (~~~at' 4 &&& at' 6)
  let majority := (at' 0 &&& (at' 1 ||| at' 2)) ||| (at' 1 &&& at' 2)
  let t := at' 7 + mix (at' 4) 6 11 25 + choice + z.1 + z.2
  (t + mix (at' 0) 2 13 22 + majority) :: (v.take 3 ++ [at' 3 + t] ++ (v.drop 4).take 3)

/-- The chain over one block of 64 bytes. -/
def shaBlock (h : List W32) (block : List Byte) : List W32 :=
  let first := (upTo 16).map fun i => BitVec.ofNat 32 (valueBE ((block.drop (4 * i)).take 4))
  let words := (extendSchedule 48 first.reverse).reverse
  List.zipWith (fun a b => a + b) h ((shaConstants.zip words).foldl shaRound h)

/-- The chain over n blocks. -/
def shaBlocks : (n : Nat) → List W32 → List Byte → List W32
  | 0, h, _ => h
  | n + 1, h, bs => shaBlocks n (shaBlock h (bs.take 64)) (bs.drop 64)

/-- SHA-256 of a run of bytes. -/
def sha256 (bs : List Byte) : List Byte :=
  let zeros := (119 - bs.length % 64) % 64
  let padded := bs ++ [0x80#8] ++ List.replicate zeros 0#8 ++ bytesBE 8 (8 * bs.length)
  (shaBlocks (padded.length / 64) shaStart padded).flatMap fun w => bytesBE 4 w.toNat

/-! ### RSASSA-PSS -/

/-- MGF1 with SHA-256: n bytes from a seed. -/
def mgf1 (seed : List Byte) (n : Nat) : List Byte := ((upTo (ceilDiv n 32)).flatMap fun i => sha256 (seed ++ bytesBE 4 i)).take n

/-- Bytes of an encoded message: of its masked block, and in all. -/
def pssBlock : Nat := 351
def pssLength : Nat := 384

/-- The hash that binds a message to its salt. -/
def pssHash (message salt : List Byte) : List Byte := sha256 (List.replicate 8 0#8 ++ sha256 message ++ salt)

/-- The block of a salt before its mask: zeros, a one, and the salt. -/
def saltBlock (salt : List Byte) : List Byte := List.replicate 318 0#8 ++ [1#8] ++ salt

/-- A block under the mask of a hash, its top bit clear. -/
def maskBlock (block hash : List Byte) : List Byte :=
  bytesBE pssBlock (valueBE (List.zipWith (fun a b => a ^^^ b) block (mgf1 hash pssBlock)) % 2 ^ (8 * pssBlock - 1))

/-- The encoding of a message with a salt. -/
def pssEncode (message salt : List Byte) : List Byte :=
  let hash := pssHash message salt
  maskBlock (saltBlock salt) hash ++ hash ++ [0xBC#8]

/-- An encoded message is one of this message: the salt that its block carries encodes it so. -/
def pssMatches (message encoded : List Byte) : Bool :=
  let hash := (encoded.drop pssBlock).take 32
  let block := maskBlock (encoded.take pssBlock) hash
  decide (pssEncode message (block.drop 319) = encoded)

/-- b to the power e modulo n, by the bits of e from bit k − 1 down. -/
def powerMod (b e n : Nat) : (k acc : Nat) → Nat
  | 0, acc => acc
  | k + 1, acc => powerMod b e n k (acc * acc % n * (if e / 2 ^ k % 2 = 1 then b else 1) % n)

/-- The signature of a message with a private key. -/
def pssSign (modulus exponent : Nat) (message salt : List Byte) : List Byte :=
  bytesBE pssLength (powerMod (valueBE (pssEncode message salt)) exponent modulus 3072 1)

/-- A signature of a message is that of a public key of 3,072 bits. -/
def pssVerify (modulus exponent : Nat) (message signature : List Byte) : Bool :=
  decide (2 ^ 3071 ≤ modulus ∧ modulus < 2 ^ 3072 ∧ signature.length = pssLength ∧ valueBE signature < modulus)
    && pssMatches message (bytesBE pssLength (powerMod (valueBE signature) exponent modulus 3072 1))

/-- An image carries a signature made with the key whose hash is fused (R372); where the image holds its parts is open. -/
def imageVerified (bs : List Byte) : Bool :=
  let key := Config.imageKey bs
  decide (sha256 key = Config.fusedKeyHash)
    && pssVerify (Config.keyModulus key) (Config.keyExponent key) (Config.signedPart bs) (Config.imageSignature bs)

/-! ### Attestation reports (R373) -/

/-- What a report says between its nonce and its signature: the device's serial, the firmware's digest, those of the loaded camp images,
and POLVER of each die. -/
def reportContent (digests : List (List Byte)) (polver : List (BitVec 16)) : List Byte :=
  Config.deviceSerial ++ Config.firmwareDigest ++ digests.flatten ++ polver.flatMap fun v => toBytes 2 v.toNat

/-- A report of 512 bytes: the nonce, 96 bytes in an open form for what it says, and the signature over both. -/
def report (key : Nat × Nat) (nonce : BitVec 256) (content salt : List Byte) : List Byte :=
  let body := toBytes 32 nonce.toNat ++ (upTo 96).map (Config.reportByte content)
  body ++ pssSign key.1 key.2 body salt

end Sys2Proof.Machine
end

