-- ==== Sys2Proof/Machine/State.lean ====
section
/-!
DEFINITION. The state of the device as plain data: every piece of state that the manual names (INVENTORY.md, ## State), the
memory in one canonical form, the reasons a step can stop, and the state right after reset (R374).
-/

namespace Sys2Proof.Machine

/-! ### Memory -/

/-- The stores of the machine: one address space of cells, cut into regions (R13, R14, R140, R241). -/
inductive Region where
  /-- the code section, read by fetch only (R48, R83) -/
  | code
  /-- device memory by physical address (R238) -/
  | dev
  /-- host memory over the host port (R241) -/
  | host
  /-- CXL memory (R241) -/
  | cxl
  /-- BXR fallback flags, one per 64-byte block (R246) -/
  | bxr
  /-- shared pool of a die (R153) -/
  | pool (die : Nat)
  /-- local memory of a camp core, numbered 32 times its die plus its index (R337) -/
  | camp (n : Nat)
  /-- scratchpad of a core (R13) -/
  | scratch (core : Nat)
  /-- accumulator store of a core (R152) -/
  | acc (core : Nat)
  /-- full/empty bits of a core, one cell per granule (R150): 0 empty; full by the core's own operations 1, by an arrival of R280 2 -/
  | fe (core : Nat)
  /-- memory of a peer device over Skorn Link (R369) -/
  | peer (n : Nat)
  deriving DecidableEq, Repr

/-- A region's number. -/
def Region.index : Region → Nat
  | .code => 0
  | .dev => 1
  | .host => 2
  | .cxl => 3
  | .bxr => 4
  | .pool d => 8 + d
  | .camp n => 16 + n
  | .scratch c => 256 + c
  | .acc c => 512 + c
  | .fe c => 768 + c
  | .peer n => 1024 + n

/-- The cell of byte a of a region. -/
def cellKey (r : Region) (a : Nat) : Nat := r.index * 18446744073709551616 + a

/-- Memory: cells at strictly rising keys, none equal to the byte that an unlisted cell reads as, which is 0 (R374 clears
the on-chip stores; for device memory see log entry 1). -/
abbrev Memory := List Host.Cell

/-- What an unlisted cell reads as (log entry 1). -/
def unlistedByte : Byte := 0#8

/-- The canonical form of memory. -/
def Memory.wf : Memory → Bool
  | [] => true
  | [c] => decide (c.2 ≠ unlistedByte)
  | c :: d :: r => decide (c.2 ≠ unlistedByte) && decide (c.1 < d.1) && Memory.wf (d :: r)

/-! ### Work units and the scheduler -/

/-- A work unit: a record or a step of a block, queued, in transit, saved or bound (R283 to R292, R297, R298). -/
structure WorkUnit where
  taskid : W64
  isStep : Bool
  /-- the first record of a launch (R295) -/
  first : Bool
  code : W64
  frame : W64
  arg : W64
  /-- CTL of a record (R284); a step carries its block's POLICY, PRIO, JV and JADDR in the same bits, and AFF 1 -/
  ctl : W64
  /-- operand ranges of a record (R285) -/
  rngs : List W64
  /-- the block a step belongs to, its step number and the values of s1 to s6 (R286, R292) -/
  block : Nat
  stepNo : Nat
  levels : List Nat
  /-- tile base, length and rights of each used descriptor of a step (R289, R291) -/
  tiles : List (Nat × W64 × Nat × Nat × BitVec 2)
  blockVa : W64
  /-- save area of a unit that was pre-empted or that yielded (R299, R327) -/
  saved : Option Nat
  /-- core and context a saved unit belongs to (R299) -/
  home : Nat × Nat
  /-- placed ahead of every unit of its e (R299) -/
  ahead : Bool
  /-- the unit has run (R302) -/
  hasRun : Bool
  /-- the cycle from which W counts (R298) -/
  wSince : Nat
  /-- the cycle of the push to this core or of its arrival (R298) -/
  stamp : Nat
  /-- the word that released it (R312) -/
  relWord : W64
  deriving DecidableEq, Repr

/-- An operator parameter block accepted by walkers (R291, R292). -/
structure Block where
  id : Nat
  /-- dies of the set, ascending, with the block-table slot and the next position of the walk on each -/
  dies : List (Nat × Nat × Nat)
  va : W64
  bytes : List Byte
  /-- steps not yet ended -/
  left : Nat
  faulted : Bool
  killed : Bool
  deriving DecidableEq, Repr

/-- A decrement on its way to its counter (R304). -/
structure Decrement where
  id : Nat
  addr : Nat
  f : Bool
  k : Bool
  due : Nat
  deriving DecidableEq, Repr

/-- A work unit in transit to a core (R302, R307). -/
structure Transit where
  id : Nat
  unit : WorkUnit
  core : Nat
  due : Nat
  deriving DecidableEq, Repr

/-- A packet on its way over the mesh: the core tiles at which it enters and leaves it, and when (R11). -/
structure Packet where
  src : Nat
  dst : Nat
  sent : Nat
  due : Nat
  deriving DecidableEq, Repr

/-! ### Strands, results and sequencers -/

/-- A hardware-loop level (R106). -/
structure Loop where
  active : Bool
  st : W64
  ex : W64
  lc : W32
  pval : W32
  pend : Bool
  age : Nat
  deriving DecidableEq, Repr

/-- What a strand waits for after its bundle has issued (R375, R33, R308). -/
inductive Wait where
  /-- JOIN arrival with its mask (R33) -/
  | join (m : BitVec 8)
  /-- CBWAIT (R113) -/
  | cb (m : BitVec 16) (v : Bool)
  /-- WAITCNT with its four limits (R117) -/
  | count (loads stores copies tiles : Nat)
  /-- FENCE.ALL: what was issued before this stamp, or by its own strand (R118) -/
  | all (before : Nat)
  /-- BARWAIT and BARWAIT.T: barrier, parity, status register, remaining timeout (R261) -/
  | bar (b : Nat) (p : Bool) (d : Nat) (timeout : Option Nat)
  /-- TOKWAIT (R263) -/
  | tok (t : BitVec 16)
  /-- SPAWNOP: the block's address, the bytes that its plain load returns, the time at which they land, and its order stamp
  (R308) -/
  | block (va : W64) (bytes : List Byte) (due before : Nat)
  /-- a strong store in LOCAL whose bundle has issued earlier accesses with it, which it is to follow: whether it is a release, its
  first byte, its bytes, whether it sets their granule full, and its order stamp (R272, R273) -/
  | store (rel : Bool) (a : Nat) (bytes : List Byte) (full : Bool) (before : Nat)
  /-- TEND, or TCONT with its record (R309, R310) -/
  | tend (cont : Option WorkUnit)
  deriving DecidableEq, Repr

/-- A strand (R26 to R34). -/
structure Strand where
  id : Nat
  slots : BitVec 8
  pc : W64
  /-- region kind: X of the last bundle issued; none for a handler that has issued none (R37) -/
  kind : Option Bool
  sOwn : BitVec 64
  vOwn : BitVec 32
  mOwn : BitVec 8
  pOwn : BitVec 8
  loops : Vector Loop 4
  /-- what its last bundle still waits for: the strand goes on once all of it is over (R375) -/
  waits : List Wait
  /-- the address of the bundle whose waits or arrival these are (R375) -/
  waitBa : W64
  /-- taken-branch bubbles still to pass (R104, R111) -/
  bubbles : Nat
  /-- strands whose stores before an order stamp this one releases by a push: itself and those it descends from (R277) -/
  anc : List (Nat × Nat)
  /-- stores of every strand before this stamp are released by a push: the last JOIN (R277) -/
  joined : Nat
  deriving DecidableEq, Repr

/-- An armed or running repeat of a slot (R109, R110). -/
structure Repeat where
  strand : Nat
  count : Nat
  step : BitVec 6
  /-- the next repeat to issue; 0 while only armed -/
  index : Nat
  /-- the target's word, bundle address and length, once repeat 0 has issued -/
  target : Option (W64 × W64 × Nat)
  deriving DecidableEq, Repr

/-- A result and its destination (R40, R330). -/
inductive Result where
  | scalar (n : Nat) (v : W64)
  | vector (n : Nat) (lanes : LaneMask) (v : VReg)
  | mask (n : Nat) (lanes : LaneMask) (v : LaneMask)
  | queue (n : Nat) (bit : Bool)
  | pattern (n : Nat) (v : BitVec 128)
  /-- flags alone (R95) -/
  | flagsOnly
  deriving DecidableEq, Repr

/-- A pending writeback (R39, R40, R95, R330). -/
structure Pending where
  res : Result
  /-- remaining issue cycles -/
  left : Nat
  flags : BitVec 7
  slot : Nat
  strand : Nat
  ba : W64
  /-- held in the pending-writeback queue of an exposed region (R40) -/
  exposed : Bool
  /-- a variable-latency result: interlocked in every region (R71) -/
  inter : Bool
  /-- counted by WAITCNT as a load (R117) -/
  isLoad : Bool
  /-- frozen while a handler runs (R35) -/
  frozen : Bool
  seq : Nat
  deriving DecidableEq, Repr

/-- A taken or loop-state effect of a sequencer operation, applied at the end of its bundle (R41, R106, R108). -/
inductive SeqAct where
  | jump (slot : Nat) (target : W64)
  | call (slot : Nat) (target : W64) (reg : Nat) (link : W64)
  | loop (slot lvl : Nat) (n : W32) (st ex : W64)
  | loopSkip (slot lvl : Nat) (ex : W64)
  | lcwr (slot lvl : Nat) (v : W32)
  deriving DecidableEq, Repr

/-- Guard states (R115). -/
inductive Guard where
  | unresolved | run | discard
  deriving DecidableEq, Repr

/-- A transfer barrier (R250). -/
structure Barrier where
  arm : Bool
  ph : Bool
  ovr : Bool
  lastst : Bool
  err : BitVec 4
  bal : Int
  deriving DecidableEq, Repr

/-- What happens to a barrier in one reference cycle (R251). -/
inductive BarEvent where
  | init (b : Nat)
  | expect (b n : Nat)
  | arrive (b n : Nat)
  | error (b code : Nat)
  deriving DecidableEq, Repr

/-- An entry of the extent table (R145). -/
structure Extent where
  vbase : Nat
  len : Nat
  pbase : Nat
  w : Bool
  r : Bool
  deriving DecidableEq, Repr

/-- A special-function table image: 260 words (R185). -/
abbrev SfuTable := Vector W32 260

/-- A table load in flight (R187). -/
structure TableLoad where
  tab : Nat
  image : SfuTable
  left : Nat
  deriving DecidableEq, Repr

/-- A posted fault (R317): cause, TVAL, the engine's slot, and the cycle of its arrival. -/
structure Posted where
  code : Nat
  tval : W64
  slot : Nat
  cycle : Nat
  deriving DecidableEq, Repr

/-! ### Matrix engine -/

/-- A level of the loop nest (R207). -/
structure Level where
  mark : BitVec 2
  count : BitVec 24
  cstr : W32
  wstr : W32
  astr : W32
  deriving DecidableEq, Repr

/-- The matrix shadow (R209). -/
structure Shadow where
  levels : Vector Level 6
  abase : W64
  wbase : W32
  cbase : W64
  act : BitVec 2
  tern : Bool
  gather : Bool
  /-- columns written minus 1 (R220) -/
  nc : BitVec 7
  mask : W32
  gpitch : W64
  idx : List W32
  deriving DecidableEq, Repr

/-- A weight tile with its tag and format code (R203, R204). -/
structure Tile where
  tag : W32
  fmt : Nat
  bytes : List Byte
  deriving DecidableEq, Repr

/-- A weight slot (R204). -/
inductive WSlot where
  | empty
  | full (t : Tile)
  | failed (tag : W32)
  deriving DecidableEq, Repr

/-- The sampler state (R226) and the generator state of a running MXSMP (R233, R236). -/
structure Sampler where
  sk : BitVec 13
  sm : BitVec 7
  sn : BitVec 8
  apb : BitVec 21
  bpb : BitVec 21
  na : List W32
  nb : List W32
  g : List W32
  q : List (BitVec 24)
  other : List (BitVec 12)
  built : Bool
  tile : List W32
  x : W32
  t : Nat
  reason : Nat
  f : W32
  v : W32
  deriving DecidableEq, Repr

/-- How far an engine command has got (R217, R236, R259, R331). -/
inductive CmdState where
  | waiting | running | parked | stopped
  /-- the work is done; the completion signals its tokens when they fit (R248) -/
  | finishing
  deriving DecidableEq, Repr

/-- A translation that a copy keeps (R244): virtual base, size, home, physical base, peer number. -/
structure PageMap where
  vbase : Nat
  size : Nat
  home : Nat
  pbase : Nat
  peer : Nat
  r : Bool
  w : Bool
  comp : Bool
  deriving DecidableEq, Repr

/-- An entry of an engine queue (R25, R210, R254, R331). -/
structure Cmd where
  id : Nat
  x : Nat
  gen : W32
  strand : Nat
  ba : W64
  op : Instr
  word : W64
  /-- the values read at issue, in field order A/DST, B/SRC, C/LEN, s[LEN + 1] -/
  vals : List W64
  shadow : Option Shadow
  banks : W32
  tok : BitVec 16
  wp : Bool
  wn : Bool
  sp : Bool
  sn : Bool
  guard : Nat
  /-- cancelled by CPCAN before its start (R264) -/
  cancelled : Bool
  state : CmdState
  tokensTaken : Bool
  sampled : Option Bool
  banksHeld : Bool
  /-- matrix and copy cycles to the next action (R212, R214, R230, R235) -/
  wait : Nat
  /-- position: micro-PC as a flat pass number, next row, bytes issued, or sample phase -/
  pos : Nat
  /-- bytes that have arrived (R252) -/
  arrived : Nat
  /-- a reload in progress, in matrix cycles left (R205) -/
  reload : Nat
  cad : Nat
  page : Option PageMap
  /-- the span test of R243 has been made -/
  spanTested : Bool
  /-- the fault of a parked or waiting copy is in the fault queue (R244) -/
  faultTag : Option W64
  /-- error to report at completion: reason of a matrix error, or ERR of a copy; 0 none -/
  err : Nat
  /-- the weight address of a matrix error (R206) -/
  errTag : W32
  /-- bytes read so far by a weight load (R214) -/
  buf : List Byte
  /-- a read of a weight load has met an uncorrectable memory error (R204) -/
  badRead : Bool
  /-- MXSMP: a check is in progress (R235) -/
  checking : Bool
  /-- the matrix cycle under way is the command's: the array serves its context from the first reference cycle of it on (R43, R44) -/
  turn : Bool
  /-- order stamp of the push, alias class, and the stores that the push releases (R274, R277) -/
  seq : Nat
  ac : Nat
  rel : List (Nat × Nat)
  joined : Nat
  /-- memory as it stood at the push of a copy, or at the start of a matrix command: what a racing granule may still
  hold (R216, R255) -/
  old : Memory
  deriving DecidableEq, Repr

/-- A pass injected and not yet landed, or a drained row not yet written (R212, R214). -/
structure Flight where
  x : Nat
  cmd : Nat
  ba : W64
  left : Nat
  row : Nat
  /-- accumulation of R98 (floating point) or R99 and R100 (integers) -/
  float : Bool
  /-- one psum per column: an F32 encoding, or an exact sum -/
  sums : List Int
  flags : BitVec 7
  /-- its accumulator row as it stood at the start of the landing cycle (R213) -/
  base : Option (List Byte)
  /-- bytes to write in LOCAL at the end (MXDRAIN) -/
  store : Option (Nat × List Byte)
  deriving DecidableEq, Repr

/-- A 64-byte block of a copy on its way (R249, R252). -/
structure CopyBlock where
  id : Nat
  cmd : Nat
  x : Nat
  /-- source and destination: region and offset; several destinations for CPMC -/
  src : Region × Nat
  dsts : List (Region × Nat)
  len : Nat
  due : Nat
  /-- the bytes, once its source has been read -/
  data : Option (List Byte)
  /-- an error that the transfer meets (R252); 0 none -/
  err : Nat
  deriving DecidableEq, Repr

/-! ### Accesses in flight -/

/-- What an access does when it is performed (R71, R159, R164, R306 to R314, R348 to R351). -/
inductive AccessKind where
  /-- a scalar load of n bytes into a register -/
  | load (n d : Nat)
  /-- a scalar store -/
  | store (bytes : List Byte)
  /-- an atomic: function of R158, size, operand, new value of AMOCAS, register -/
  | amo (fn n : Nat) (v w : W64) (d : Nat)
  /-- a vector load: its fields, whether it gathers, its pattern and register (R190, R196 to R198) -/
  | vload (f : VM) (gather : Bool) (pat : BitVec 128) (d : Nat)
  /-- a vector store: the bytes of each cell, last first written last; .REL (R190, R197, R198, R200) -/
  | vstore (bytes : List (Nat × Byte)) (rel : Bool)
  /-- a pool instruction: function, type, qualifier, pool address, source, length, register, the next element and the fold
  so far (R161, R163) -/
  | pool (fn ty qual : Nat) (a b : W64) (len d pos : Nat) (sum : W64)
  | mbrecv (lo : Nat) (pair n m d : Nat)
  | mbsend (pair : Nat) (entry : List Byte) (d : Nat)
  | mbstat (pair d : Nat)
  | tstat (addr d : Nat)
  | jcnew (addr count : Nat) (rec : List Byte) (d : Nat)
  | jcadd (addr n d : Nat)
  /-- MXSTAT: the two registers and the commands it counts (R237) -/
  | mxstat (a b : Nat) (cmds : List Nat)
  /-- BARQ, TOKTEST: a value fixed at the end of the issue cycle (R262, R263) -/
  | query (d : Nat) (v : W64)
  | barq (b d : Nat) (clear : Bool)
  | toktest (t : BitVec 16) (d : Nat)
  /-- FENCE and PHASE, performed in their place in the order (R118, R268, R272) -/
  | fence (acq rel : Bool)
  deriving DecidableEq, Repr

/-- An access in flight (R71, R117, R267, R272). -/
structure Access where
  id : Nat
  core : Nat
  x : Nat
  gen : W32
  strand : Nat
  slot : Nat
  ba : W64
  kind : AccessKind
  /-- the runs of bytes that it covers: region, first byte and length; none for what acts in no memory -/
  runs : List (Region × Nat × Nat)
  ord : Nat
  scope : Nat
  ac : Nat
  /-- counted by WAITCNT as a load, as a store (R117) -/
  isLoad : Bool
  isStore : Bool
  due : Nat
  /-- the access has been performed or accepted, and its results are these -/
  done : Bool
  results : List Result
  flags : BitVec 7
  seq : Nat
  deriving DecidableEq, Repr

/-- A plain store held at its destination until published (R267). -/
structure Held where
  core : Nat
  x : Nat
  gen : W32
  seq : Nat
  strand : Nat
  ac : Nat
  key : Nat
  byte : Byte
  deriving DecidableEq, Repr

/-! ### Contexts -/

/-- What a record says of an end. -/
structure Ending where
  tcause : W64
  tval : W64
  tepc : W64
  /-- 1 ended under KILL, 2 queued for restart, 3 killed -/
  out : Nat
  dbl : Bool
  deriving DecidableEq, Repr

/-- What a context is doing (R21, R123, R293, R300, R319 to R324, R361). -/
inductive CtxState where
  | free
  /-- reserved for a unit held for translation (R293) -/
  | held
  /-- the first bundle issues at this cycle (R300, R334) -/
  | starting (due : Nat)
  | running
  | halted
  /-- stopping for a save (R324): yielded or pre-empted -/
  | stopping (yielded halted : Bool) (stop : Nat)
  /-- the end of a unit under KILL, whose counter receives FAULTED or KILLED, waits for its engines (R319): the CYCLE of its stop -/
  | ending (e : Ending) (f k : Bool) (stop : Nat)
  /-- a record waits for the ring (R322): the record's bytes -/
  | recording (rec : List Byte) (requeue : Bool)
  /-- the cluster is in retention (R361) -/
  | retained (halted : Bool)
  deriving DecidableEq, Repr

/-- A context drains before it acts (R38, R124, R35). -/
inductive Drain where
  | none
  | crossing
  | clkdiv (divs : BitVec 12)
  | tret
  /-- a TYIELD has issued: the context stops at the end of its issue cycle (R311, R324) -/
  | yield
  deriving DecidableEq, Repr

/-- A run of bytes that a copy command wrote in POOL or DEVICE memory: its token, barrier, cell and length (R279). -/
structure Copied where
  tok : BitVec 16
  bar : Option Nat
  key : Nat
  len : Nat
  /-- order stamp and strand of the command's push (R118, R281) -/
  seq : Nat
  strand : Nat
  /-- its barrier has completed a phase since (R261, R279) -/
  phased : Bool
  deriving DecidableEq, Repr

/-- A context (R13, R31, INVENTORY.md). -/
structure Ctx where
  state : CtxState
  unit : Option WorkUnit
  gen : W32
  /-- the generation of the slot: that of the last new unit dispatched to it (R332) -/
  slotGen : W32
  sregs : Vector W64 64
  vregs : Vector VReg 32
  masks : Vector LaneMask 8
  pats : Vector (BitVec 128) 8
  tables : Vector SfuTable 8
  tableLoads : List TableLoad
  cqs : Vector (List Bool) 4
  cb : BitVec 16
  guards : Vector Guard 8
  bars : Vector Barrier 64
  barEvents : List BarEvent
  fpf : Vector (BitVec 7) 8
  ferec : W64
  flagEvents : List (Nat × BitVec 7 × W64)
  tvec : W64
  tepc : W64
  tcause : W64
  tval : W64
  issue : W64
  taskid : W64
  brcol : Bool
  inhdl : Bool
  clkReq : Bool
  scrbase : BitVec 21
  scrlim : BitVec 22
  accbase : BitVec 22
  acclim : BitVec 22
  mscnt : BitVec 18
  msfro : W32
  msvar : W32
  msz : W32
  strands : List Strand
  nextStrand : Nat
  repeats : Vector (Option Repeat) 8
  pend : List Pending
  /-- strands stopped by a handler, which of them faulted, and TEPC as the fault left it (R35, R110, R375) -/
  stopped : List Strand
  faulted : Nat
  faultPc : W64
  /-- repeat states of the stopped strands (R110) -/
  stoppedReps : Vector (Option Repeat) 8
  drain : Drain
  /-- the drain of a CLKDIV that a handler interrupted (R124) -/
  stoppedDrain : Drain
  /-- a pre-emption takes the context at its next boundary (R320, R324) -/
  leaving : Bool
  discards : Vector (W64 × W64) 8
  lives : Vector (W64 × W64) 8
  extents : Vector Extent 8
  peers : Vector W64 8
  shadow : Shadow
  tile : Option Tile
  wslots : Vector WSlot 8
  sampler : Sampler
  inP : Vector (BitVec 8) 4
  inN : Vector (BitVec 8) 4
  newest : BitVec 16
  posted : List Posted
  snap : Memory
  relWord : W64
  /-- the cycle of the dispatch or restore and e at dispatch (R301) -/
  ranSince : Nat
  ranE : Nat
  /-- the CYCLE at which a restored unit with commands under way stopped: its first issue stands in the same phase of the matrix clock
  (R326) -/
  resume : Option Nat
  /-- copy-fault replies logged while saved (R332, R333) -/
  replyLog : List (BitVec 16 × Bool)
  /-- the current reference cycle is an issue cycle of the context (R24) -/
  counts : Bool
  /-- ranges of POOL and DEVICE memory that the context's copies wrote and no wait has acquired yet (R279) -/
  copied : List Copied
  deriving DecidableEq, Repr

/-! ### Cores, dies, camp cores, the device -/

/-- A core's shared state (R13, R25, R42, R72, R120, R148, R297). -/
structure Core where
  clkdiv : BitVec 12
  mxcad : BitVec 5
  mxshare : BitVec 1
  mxshareNow : BitVec 1
  pinned : Bool
  /-- the end of a mode switch under way, and whether one has ended in this cycle (R357) -/
  switchEnd : Option Nat
  thawed : Bool
  /-- control-domain cycles that a slot stays busy for operations of interval above 1 (R72) -/
  busy : Vector Nat 8
  /-- slots occupied in the current cycle by primary bundles (R22) -/
  occupied : BitVec 8
  /-- reference cycles for which a ready bundle of a secondary strand has been refused in a row (R45) -/
  starved : List (Nat × Nat)
  /-- domains whose next cycle a droop stretches, those whose cycle is stretched over this reference cycle, and the reference cycles
  that each domain has lost so (R355) -/
  droops : BitVec 4
  stretched : BitVec 4
  skew : Vector Nat 4
  /-- primary issue is withheld in this cycle (R45) -/
  withheld : Bool
  queues : Vector (List Cmd) 4
  flights : List Flight
  blocks : List CopyBlock
  /-- tokens signalled in this cycle: context, queue, and whether from its previous queue; they land at its end (R248) -/
  signals : List (Nat × Nat × Bool)
  /-- the context whose copies each channel served last (R25) -/
  lastIn : Nat
  lastOut : Nat
  ready : List WorkUnit
  cadHold : Option Nat
  deriving DecidableEq, Repr

/-- A mailbox pair (R340). -/
structure Pair where
  state : Nat
  epid : BitVec 20
  step : W32
  mode : BitVec 1
  rver : BitVec 16
  reason : BitVec 4
  chg : BitVec 5
  obs : List (List Byte)
  act : List (List Byte)
  deriving DecidableEq, Repr

/-- A camp core: the RISC-V hart state (log entry 12) and the episode (R338, R339, R344). -/
structure Camp where
  running : Bool
  x : Vector W64 32
  f : Vector W64 32
  fcsr : W32
  pc : W64
  machine : Bool
  mstatus : W64
  mie : W64
  mip : W64
  mtvec : W64
  mscratch : W64
  mepc : W64
  mcause : W64
  mtval : W64
  mcounteren : W64
  mcycle : W64
  minstret : W64
  resv : Option Nat
  waiting : Bool
  /-- descriptor address of the current episode -/
  episode : Option Nat
  pair : BitVec 14
  epid : BitVec 20
  mode : BitVec 1
  winA : Nat × Nat
  winB : Nat × Nat
  count : W32
  budget : W32
  /-- the count is stopped by an MB.POST of this camp cycle (R344) -/
  posted : Bool
  digest : List Byte
  deriving DecidableEq, Repr

/-- A saved unit or a FINAL area (R327, R328). -/
structure Saved where
  addr : Nat
  size : Nat
  core : Nat
  x : Nat
  final : Bool
  stop : Nat
  ctx : Ctx
  cmds : Vector (List Cmd) 4
  /-- MXSTAT results that wait for commands which the save has stopped (R237) -/
  waiting : List Access
  /-- scratchpad window, full/empty bits and accumulator rows that the area holds -/
  cells : Memory
  deriving DecidableEq, Repr

/-- The launch configuration (R296). -/
structure DieConfig where
  spbase : Nat
  spcap : Nat
  cscap : Nat
  csbase : Nat
  btbase : Nat
  svbase : Nat
  svsize : Nat
  deriving DecidableEq, Repr

structure Launch where
  asroot : Nat
  fqbase : Nat
  frbase : Nat
  frcap : Nat
  dies : List DieConfig
  /-- peer tables 1 to 15, eight words each -/
  peers : List (List W64)
  /-- SBASE, SLIM, ABASE, ALIM of context x of core c at index 2c + x -/
  windows : List (Nat × Nat × Nat × Nat)
  deriving DecidableEq, Repr

/-- A loaded image (R81 to R83, R295). -/
structure Image where
  /-- address of the first task's first bundle -/
  entry : W64
  /-- virtual and physical base and size of each buffer -/
  buffers : List (Nat × Nat × Nat)
  /-- physical base of the 64 KiB region of R295 and its virtual address -/
  region : Nat × Nat
  deriving DecidableEq, Repr

/-- A fault that awaits its reply (R245): its tag, and the copy or the held unit. -/
structure OpenFault where
  tag : W64
  core : Nat
  x : Nat
  gen : W32
  /-- none for a translation at dispatch -/
  token : Option (BitVec 16)
  deriving DecidableEq, Repr

/-- A stored continuation (R305, R313): its die, index, record, core of its JCNEW. -/
structure Continuation where
  die : Nat
  index : Nat
  unit : WorkUnit
  core : Nat
  deriving DecidableEq, Repr

/-- Power state of a cluster (R361, R362). -/
inductive Power where
  | on
  /-- contexts stop and their results land before the clocks stop -/
  | entering
  | retained
  | exiting (due : Nat)
  /-- gating waits for the in-flight counter to read zero -/
  | gating
  | gated
  | waking (due : Nat)
  deriving DecidableEq, Repr

/-- What the device tells the management core (R123, R206, R245, R293, R304, R321, R359, R360). -/
inductive Notice where
  | halt (core x : Nat) (pc : W64) (code : BitVec 16)
  | fault (index : Nat)
  | record (index : Nat)
  | joinDone (addr : Nat) (word : W64)
  | unitEnd (taskid : W64)
  | power (milliwatts : Nat)
  | thermal (die sensor threshold : Nat) (upward : Bool)
  deriving DecidableEq, Repr

/-- One indivisible step still to run in the current reference cycle: an event and what it acts in, a context's issue, a
camp core's instruction. -/
inductive Turn where
  | event (i : Instr) (core x strand slot id : Nat)
  | issue (core x : Nat)
  | camp (n : Nat)
  deriving DecidableEq, Repr

/-- How exec treats an operation of a bundle: checks alone, the whole operation, or its effect after the checks of its
bundle have passed. -/
inductive Mode where
  | probe | whole | commit
  deriving DecidableEq, Repr

/-- A precise fault (R66, R315): cause, TVAL, slot. -/
structure Exn where
  code : Nat
  tval : W64
  slot : Nat
  deriving DecidableEq, Repr

/-- What the checks of an operation found: it can issue, it is held (true for a stall of the whole context, R36), or it
faults. -/
inductive Verdict where
  | ok
  | held (stall : Bool)
  | faulted (e : Exn)
  deriving DecidableEq, Repr

/-- A group that FORK makes a strand of: slots, entry address, and the registers it owns (R26). -/
structure Group where
  slots : BitVec 8
  entry : W64
  sOwn : BitVec 64
  vOwn : BitVec 32
  mOwn : BitVec 8
  pOwn : BitVec 8
  deriving DecidableEq, Repr

/-- What the step is acting in: the operation now issuing and its bundle, or the event's subject. -/
structure Cursor where
  core : Nat
  x : Nat
  strand : Nat
  slot : Nat
  /-- the event's command, access, block, unit, decrement or strand -/
  id : Nat
  ba : W64
  nw : Nat
  exposed : Bool
  /-- the word now issuing and the operations of its bundle by slot -/
  word : W64
  bundle : List (Nat × Instr)
  /-- operations that other strands of the context offer in this cycle (R32, R34) -/
  others : List (Nat × Instr)
  mode : Mode
  verdict : Verdict
  acts : List SeqAct
  /-- the bundle arms repeats in these slots (R109) -/
  arms : List (Nat × Nat × BitVec 6)
  /-- the groups that FORK creates (R26) -/
  fork : Option (List Group)
  trap : Option (BitVec 16)
  halt : Option (BitVec 16)
  tend : Option (Option WorkUnit)
  yield : Bool
  waits : List Wait
  isRepeat : Bool
  /-- the order stamp at the start of the issue cycle -/
  seq0 : Nat
  deriving DecidableEq, Repr

/-- The device. -/
structure State where
  now : Nat
  mem : Memory
  memStart : Memory
  /-- contexts by 2 times the core plus the context; one not listed is as reset leaves it -/
  ctxs : List (Nat × Ctx)
  cores : List (Nat × Core)
  /-- pairs by 16,384 times the die plus the pair -/
  pairs : List (Nat × Pair)
  camps : List (Nat × Camp)
  accs : List Access
  held : List Held
  polver : Vector (BitVec 16) 4
  launch : Option Launch
  image : Option Image
  /-- code sections loaded: virtual base and size (R48) -/
  codes : List (Nat × Nat)
  /-- what the loader has placed in device memory: physical base and size (R83) -/
  allocated : List (Nat × Nat)
  started : Bool
  fqprod : W32
  fqcons : W32
  frprod : W32
  frcons : W32
  openFaults : List OpenFault
  /-- fault records of units that were not bound, waiting for the ring (R322) -/
  records : List (List Byte)
  conts : List Continuation
  /-- spilled units of each die with their core (R297) -/
  spills : List (Nat × Nat × WorkUnit)
  blocks : List Block
  recSeq : Vector W32 4
  transits : List Transit
  /-- the packets that a later one of the same path may not overtake (R11) -/
  packets : List Packet
  decs : List Decrement
  saves : List Saved
  owner : Option (BitVec 8)
  election : Option Nat
  /-- latest claim of each master in the open window: master, priority, nonce (R365) -/
  claims : List (BitVec 8 × BitVec 8 × W64)
  claimPri : List (BitVec 8 × BitVec 8)
  nonce : W64
  cmd : List Byte
  /-- the command under way and the cycle of its end (R367) -/
  cmdRun : Option (Nat × Instr)
  cmdCode : BitVec 8
  cmdResult : BitVec 8
  memready : Bool
  resetting : Bool
  strap : BitVec 1
  /-- the session keys derived for attestation reports, which live until a warm reset (R373, R374) -/
  sessions : List (List Byte)
  /-- the boot ROM has verified and loaded the firmware, and the firmware the default tables (R372) -/
  firmware : Bool
  tables : Bool
  /-- the identity key, and the repairs that are fused (R374) -/
  identityKey : Nat × Nat
  fusedRepairs : List (Nat × Nat × Nat)
  /-- the route table: device number and port (R369) -/
  routes : List (Nat × Nat)
  failedLinks : List Nat
  /-- translations that live extent tables pin (R293) -/
  pages : List PageMap
  /-- pages migrating with their target, and from the end of their wait on the time of their move; the times of past migrations; settled
  pages with their end and the other device (R370) -/
  migrating : List (Nat × Nat × Option Nat)
  migrated : List (Nat × Nat)
  settled : List (Nat × Nat × Nat)
  /-- retirements under way and done: stack, pseudo-channel, spare (R240) -/
  retiring : List (Nat × Nat)
  repaired : List (Nat × Nat × Nat)
  powers : List (Nat × Power)
  /-- the power monitor's last 91 reports, newest first: averages over 1 ms, 100 µs apart (R359) -/
  supply : List Nat
  notices : List Notice
  /-- answers to host reads of BAR2, newest last (R363, R374); none for Unsupported Request -/
  hostReads : List (Option (List Byte))
  freeN : Nat
  seqN : Nat
  stage : Nat
  agenda : List Turn
  inputs : List (Nat × Instr)
  cur : Cursor
  deriving DecidableEq, Repr

/-! ### Stops -/

/-- Reasons a step can stop the machine. Every fault that the manual describes is taken by the machine itself (R315 to
R319) and is a next state; what is left is an address that does not exist. -/
inductive Fault where
  /-- an access of a core or an engine reaches a physical device-memory address at or past 1,536 GiB, which no
  stack holds (R238); safe: the run stops -/
  | noSuchAddress (a : Nat)
  deriving DecidableEq, Repr

/-- Reasons a step can refuse. -/
inductive Refusal where
  /-- an arm of exec whose instruction has no meaning yet; safe, since nothing can be proved of a run past it -/
  | notModelled (mnemonic : String)
  deriving DecidableEq, Repr

/-! ### Reset -/

def Loop.reset : Loop := ⟨false, 0, 0, 0, 0, false, 0⟩

/-- A strand of all eight slots that owns every register (R21). -/
def Strand.lockstep (id : Nat) (pc : W64) (kind : Option Bool) : Strand :=
  ⟨id, 0xFF#8, pc, kind, BitVec.allOnes 64, BitVec.allOnes 32, 0xFF#8, 0xFF#8, Vector.replicate 4 Loop.reset, [], 0, 0, [], 0⟩

/-- The matrix shadow at dispatch and reset (R207, R209). -/
def Shadow.reset : Shadow :=
  ⟨Vector.replicate 6 ⟨0, 1, 0, 0, 0⟩, 0, 0, 0, 0, false, false, 127#7, 0xFFFFFFFF#32, 0, []⟩

/-- The sampler state at dispatch and reset (R226); a list not written reads as zeros. -/
def Sampler.reset : Sampler := ⟨0, 0, 0, 0, 0, [], [], [], [], [], false, [], 0, 0, 0, 0, 0⟩

/-- Mask registers at dispatch: m0 is all ones (R166). -/
def masksReset : Vector LaneMask 8 := (Vector.replicate 8 0#1024).set 0 (BitVec.allOnes 1024)

/-- A context after reset (R374 clears its registers; R120, R166, R209, R226, R250 give the Reset columns). -/
def Ctx.reset : Ctx where
  state := .free
  unit := none
  gen := 0
  slotGen := 0
  sregs := Vector.replicate 64 0
  vregs := Vector.replicate 32 (Vector.replicate 1024 0)
  masks := masksReset
  pats := Vector.replicate 8 0
  tables := Vector.replicate 8 (Vector.replicate 260 0)
  tableLoads := []
  cqs := Vector.replicate 4 []
  cb := 0
  guards := Vector.replicate 8 .unresolved
  bars := Vector.replicate 64 ⟨false, false, false, false, 0, 0⟩
  barEvents := []
  fpf := Vector.replicate 8 0
  ferec := 0
  flagEvents := []
  tvec := 0
  tepc := 0
  tcause := 0
  tval := 0
  issue := 0
  taskid := 0
  brcol := false
  inhdl := false
  clkReq := false
  scrbase := 0
  scrlim := 0
  accbase := 0
  acclim := 0
  mscnt := 0
  msfro := 0
  msvar := 0
  msz := 0
  strands := [Strand.lockstep 0 0 (some false)]
  nextStrand := 1
  repeats := Vector.replicate 8 none
  pend := []
  stopped := []
  faulted := 0
  faultPc := 0
  stoppedReps := Vector.replicate 8 none
  drain := .none
  stoppedDrain := .none
  leaving := false
  discards := Vector.replicate 8 (0, 0)
  lives := Vector.replicate 8 (0, 0)
  extents := Vector.replicate 8 ⟨0, 0, 0, false, false⟩
  peers := Vector.replicate 8 0
  shadow := Shadow.reset
  tile := none
  wslots := Vector.replicate 8 .empty
  sampler := Sampler.reset
  inP := Vector.replicate 4 0
  inN := Vector.replicate 4 0
  newest := 0
  posted := []
  snap := []
  relWord := 0
  ranSince := 0
  ranE := 0
  resume := none
  replyLog := []
  counts := false
  copied := []

/-- A core after reset (R42, R120: MXCAD 1, the rest 0). -/
def Core.reset : Core where
  clkdiv := 0
  mxcad := 1
  mxshare := 0
  mxshareNow := 0
  pinned := false
  switchEnd := none
  thawed := false
  busy := Vector.replicate 8 0
  occupied := 0
  starved := []
  droops := 0
  stretched := 0
  skew := Vector.replicate 4 0
  withheld := false
  queues := Vector.replicate 4 []
  flights := []
  blocks := []
  signals := []
  lastIn := 1
  lastOut := 1
  ready := []
  cadHold := none

/-- A mailbox pair after reset: IDLE, every other field zero (R340). -/
def Pair.reset : Pair := ⟨0, 0, 0, 0, 0, 0, 0, [], []⟩

/-- A camp core after reset: no current episode, not started (R338, R368); hart state as log entry 12 says. -/
def Camp.reset : Camp where
  running := false
  x := Vector.replicate 32 0
  f := Vector.replicate 32 0
  fcsr := 0
  pc := 0
  machine := true
  mstatus := 0
  mie := 0
  mip := 0
  mtvec := 0
  mscratch := 0
  mepc := 0
  mcause := 0
  mtval := 0
  mcounteren := 0
  mcycle := 0
  minstret := 0
  resv := none
  waiting := false
  episode := none
  pair := 0
  epid := 0
  mode := 0
  winA := (0, 0)
  winB := (0, 0)
  count := 0
  budget := 0
  posted := false
  digest := []

/-- The cursor before anything issues (log entry 3). -/
def Cursor.reset : Cursor :=
  ⟨0, 0, 0, 0, 0, 0, 1, false, 0, [], [], .whole, .ok, [], [], none, none, none, none, false, [], false, 0⟩

/-- The machine right after cold reset (R374): every store cleared, every register zero but for the Reset columns,
MEMREADY 0, no owner, no work. -/
def State.reset : State where
  now := 0
  mem := []
  memStart := []
  ctxs := []
  cores := []
  pairs := []
  camps := []
  accs := []
  held := []
  polver := Vector.replicate 4 0
  launch := none
  image := none
  codes := []
  allocated := []
  started := false
  fqprod := 0
  fqcons := 0
  frprod := 0
  frcons := 0
  openFaults := []
  records := []
  conts := []
  spills := []
  blocks := []
  recSeq := Vector.replicate 4 0
  transits := []
  packets := []
  decs := []
  saves := []
  owner := none
  election := none
  claims := []
  claimPri := []
  nonce := 0
  cmd := List.replicate 64 0
  cmdRun := none
  cmdCode := 0
  cmdResult := 0
  memready := false
  resetting := true
  strap := 0
  sessions := []
  firmware := imageVerified Config.firmwareImage
  tables := imageVerified Config.tableImage
  identityKey := Config.identityKey
  fusedRepairs := Config.fusedRepairs
  routes := Config.loadedRoutes
  failedLinks := []
  pages := []
  migrating := []
  migrated := []
  settled := []
  retiring := []
  repaired := []
  powers := []
  supply := []
  notices := []
  hostReads := []
  freeN := 0
  seqN := 0
  stage := 0
  agenda := []
  inputs := []
  cur := Cursor.reset

end Sys2Proof.Machine
end

