-- ==== Sys2Proof/Machine/Flags.lean ====
section
/-!
DEFINITION. Number formats, rounding, conversions and every flag computation (spec/07 R84 to R97): exact values, one
rounding, and the flags that it raises.
-/

namespace Sys2Proof.Machine

/-! ### Flags (R94) -/

def flagINV : BitVec 7 := 0x01#7
def flagDZ : BitVec 7 := 0x02#7
def flagOVF : BitVec 7 := 0x04#7
def flagUNF : BitVec 7 := 0x08#7
def flagINX : BitVec 7 := 0x10#7
def flagSAT : BitVec 7 := 0x20#7
def flagTCODE : BitVec 7 := 0x40#7

/-- A flag where a condition holds. -/
def flagIf (c : Bool) (f : BitVec 7) : BitVec 7 := if c then f else 0#7

/-! ### Formats and values -/

/-- A binary format: precision with the hidden bit, and exponent width (R84). -/
structure Fmt where
  p : Nat
  ew : Nat
  deriving DecidableEq, Repr

def f32 : Fmt := ⟨24, 8⟩
def bf16 : Fmt := ⟨8, 8⟩
/-- binary64, for the camp cores' base ISA (R337). -/
def f64 : Fmt := ⟨53, 11⟩

/-- The bias, which is also the largest exponent. -/
def Fmt.bias (f : Fmt) : Nat := 2 ^ (f.ew - 1) - 1

/-- The encoding of +∞. -/
def Fmt.infBits (f : Fmt) : Nat := (2 ^ f.ew - 1) * 2 ^ (f.p - 1)

/-- The sign bit's weight. -/
def Fmt.signBit (f : Fmt) : Nat := 2 ^ (f.p - 1 + f.ew)

/-- A value: a NaN with its fraction aligned to F32's 23 bits, an infinity, or the exact ± num / den · 2^e (a zero keeps
its sign). -/
inductive FVal where
  | nan (neg : Bool) (frac : Nat)
  | inf (neg : Bool)
  | fin (neg : Bool) (num den : Nat) (e : Int)
  deriving DecidableEq, Repr

def FVal.isNan : FVal → Bool
  | .nan _ _ => true
  | _ => false

/-- A signalling NaN (R84). -/
def FVal.isSignalling : FVal → Bool
  | .nan _ fr => decide (fr / 4194304 % 2 = 0)
  | _ => false

/-- The canonical quiet NaN (R84). -/
def FVal.canonical : FVal := .nan false 4194304

/-- quiet(x) of R87. -/
def FVal.quiet : FVal → FVal
  | .nan n fr => .nan n (if fr / 4194304 % 2 = 0 then fr + 4194304 else fr)
  | v => v

def FVal.isZero : FVal → Bool
  | .fin _ 0 _ _ => true
  | _ => false

def FVal.neg : FVal → Bool
  | .nan n _ => n
  | .inf n => n
  | .fin n _ _ _ => n

/-- Negation acts on the sign bit alone (R90). -/
def FVal.negate : FVal → FVal
  | .nan n fr => .nan (!n) fr
  | .inf n => .inf (!n)
  | .fin n a d e => .fin (!n) a d e

/-- Absolute value acts on the sign bit alone (R90). -/
def FVal.abs : FVal → FVal
  | .nan _ fr => .nan false fr
  | .inf _ => .inf false
  | .fin _ a d e => .fin false a d e

/-- The value that an encoding holds (R84). -/
def decodeF (f : Fmt) (bits : Nat) : FVal :=
  let neg := decide (bits / f.signBit % 2 = 1)
  let frac := bits % 2 ^ (f.p - 1)
  let ex := bits / 2 ^ (f.p - 1) % 2 ^ f.ew
  let emin : Int := 2 - (f.p : Int) - (f.bias : Int)
  if ex = 2 ^ f.ew - 1 then
    if frac = 0 then .inf neg
    else .nan neg (if f.p ≤ 24 then frac * 2 ^ (24 - f.p) else
      (if frac / 2 ^ (f.p - 24) = 0 then 1 else frac / 2 ^ (f.p - 24)))
  else if ex = 0 then .fin neg frac 1 emin
  else .fin neg (2 ^ (f.p - 1) + frac) 1 (emin + (ex : Int) - 1)

/-- Rounding modes (R57, R88). -/
inductive Rnd where
  | rne | rtz | rup | rdn
  /-- round to nearest, ties away: the base ISA's fifth mode (R337) -/
  | rmm
  deriving DecidableEq, Repr

/-- The mode of a two-bit field (R57, R136). -/
def Rnd.ofCode {n : Nat} (c : BitVec n) : Rnd :=
  match c.toNat with
  | 0 => .rne
  | 1 => .rtz
  | 2 => .rup
  | _ => .rdn

/-- Whether fl + rem / d is rounded up in magnitude (R88). -/
def roundsUp (m : Rnd) (neg : Bool) (fl rem d : Nat) : Bool :=
  match m with
  | .rne => decide (d < 2 * rem ∨ (2 * rem = d ∧ fl % 2 = 1))
  | .rtz => false
  | .rup => !neg && decide (rem ≠ 0)
  | .rdn => neg && decide (rem ≠ 0)
  | .rmm => decide (d ≤ 2 * rem)

/-- num / den · 2^k as a floor and the remainder over its divisor. -/
def scaleDiv (num den : Nat) (k : Int) : Nat × Nat × Nat :=
  let n := num * 2 ^ k.toNat
  let d := den * 2 ^ (-k).toNat
  (n / d, n % d, d)

/-- The exponent q with 2^q ≤ num / den · 2^e < 2^(q + 1), for num and den positive. -/
def expOf (num den : Nat) (e : Int) : Int :=
  let l : Int := (Nat.log2 num : Int) - (Nat.log2 den : Int)
  if den * 2 ^ l.toNat ≤ num * 2 ^ (-l).toNat then l + e else l - 1 + e

/-- The overflow result of R88 as an encoding without its sign. -/
def overflowBits (f : Fmt) (m : Rnd) (neg : Bool) : Nat :=
  match m with
  | .rne => f.infBits
  | .rmm => f.infBits
  | .rtz => f.infBits - 1
  | .rup => if neg then f.infBits - 1 else f.infBits
  | .rdn => if neg then f.infBits else f.infBits - 1

/-- rnd(x, F, m) of a finite exact value: its encoding and flags (R87 to R89). -/
def roundFin (f : Fmt) (m : Rnd) (neg : Bool) (num den : Nat) (e : Int) : Nat × BitVec 7 :=
  let s := if neg then f.signBit else 0
  if num = 0 then (s, 0) else
  let emin : Int := 1 - (f.bias : Int)
  let umin : Int := emin - ((f.p : Int) - 1)
  let q := expOf num den e
  let u := q - ((f.p : Int) - 1)
  let u' := max u umin
  let (fl, rem, d) := scaleDiv num den (e - u')
  let mant := fl + (if roundsUp m neg fl rem d then 1 else 0)
  let bits := (u' - umin).toNat * 2 ^ (f.p - 1) + mant
  let (fl2, rem2, d2) := scaleDiv num den (e - u)
  let mant2 := fl2 + (if roundsUp m neg fl2 rem2 d2 then 1 else 0)
  let tiny := decide (q < emin) && !(decide (q = emin - 1) && decide (mant2 = 2 ^ f.p))
  if f.infBits ≤ bits then (s + overflowBits f m neg, flagOVF ||| flagINX)
  else (s + bits, flagIf (decide (rem ≠ 0)) flagINX ||| flagIf (tiny && decide (rem ≠ 0)) flagUNF)

/-- A NaN's encoding: sign and the fraction bits that the format holds. -/
def nanBits (f : Fmt) (neg : Bool) (frac : Nat) : Nat :=
  (if neg then f.signBit else 0) + f.infBits
    + (if f.p ≤ 24 then frac / 2 ^ (24 - f.p) else frac * 2 ^ (f.p - 24))

/-- rnd of any value; a NaN keeps the sign and fraction chosen by R90. -/
def roundV (f : Fmt) (m : Rnd) (v : FVal) : Nat × BitVec 7 :=
  match v with
  | .nan n fr => (nanBits f n fr, 0)
  | .inf n => ((if n then f.signBit else 0) + f.infBits, 0)
  | .fin n a d e => roundFin f m n a d e

/-! ### Exact operations and special values (R88, R90) -/

/-- Invalid for every signalling NaN among the operands (R90). -/
def sigFlags (l : List FVal) : BitVec 7 := flagIf (l.any FVal.isSignalling) flagINV

/-- The first NaN in operand order, quieted (R90). -/
def pickNan (l : List FVal) : Option FVal := (l.find? FVal.isNan).map FVal.quiet

/-- The signed numerator of a finite value over den · 2^-e0, for e0 at most its exponent. -/
def scaledInt (neg : Bool) (num : Nat) (e e0 : Int) : Int :=
  let v : Int := (num : Int) * 2 ^ (e - e0).toNat
  if neg then -v else v

/-- The exact sum of two finite values, with the zero sign of R88. -/
def addFin (m : Rnd) (n1 : Bool) (a1 d1 : Nat) (e1 : Int) (n2 : Bool) (a2 d2 : Nat) (e2 : Int) : FVal :=
  let e0 := min e1 e2
  let t := scaledInt n1 (a1 * d2) e1 e0 + scaledInt n2 (a2 * d1) e2 e0
  if t = 0 then
    .fin (if a1 = 0 ∧ a2 = 0 ∧ n1 = n2 then n1 else decide (m = .rdn)) 0 1 0
  else .fin (decide (t < 0)) t.natAbs (d1 * d2) e0

/-- a + b exactly, under R90. -/
def addV (m : Rnd) (a b : FVal) : FVal × BitVec 7 :=
  match pickNan [a, b] with
  | some v => (v, sigFlags [a, b])
  | none =>
    match a, b with
    | .inf n1, .inf n2 => if n1 = n2 then (.inf n1, 0) else (FVal.canonical, flagINV)
    | .inf n, _ => (.inf n, 0)
    | _, .inf n => (.inf n, 0)
    | .fin n1 a1 d1 e1, .fin n2 a2 d2 e2 => (addFin m n1 a1 d1 e1 n2 a2 d2 e2, 0)
    | _, _ => (FVal.canonical, 0)

/-- a − b, with a NaN operand b kept (R90). -/
def subV (m : Rnd) (a b : FVal) : FVal × BitVec 7 := addV m a (if b.isNan then b else b.negate)

/-- The product of two values that are not NaNs; none for 0 × ∞. -/
def mulCore (a b : FVal) : Option FVal :=
  match a, b with
  | .inf n1, .inf n2 => some (.inf (n1 != n2))
  | .inf n1, .fin n2 a2 _ _ => if a2 = 0 then none else some (.inf (n1 != n2))
  | .fin n1 a1 _ _, .inf n2 => if a1 = 0 then none else some (.inf (n1 != n2))
  | .fin n1 a1 d1 e1, .fin n2 a2 d2 e2 => some (.fin (n1 != n2) (a1 * a2) (d1 * d2) (e1 + e2))
  | _, _ => none

/-- a × b exactly, under R90. -/
def mulV (a b : FVal) : FVal × BitVec 7 :=
  match pickNan [a, b] with
  | some v => (v, sigFlags [a, b])
  | none =>
    match mulCore a b with
    | some v => (v, 0)
    | none => (FVal.canonical, flagINV)

/-- a × b + c exactly, with the FMA rule of R90. -/
def fmaV (m : Rnd) (a b c : FVal) : FVal × BitVec 7 :=
  match pickNan [a, b] with
  | some v => (v, sigFlags [a, b, c])
  | none =>
    match mulCore a b with
    | none => (if c.isNan then c.quiet else FVal.canonical, flagINV)
    | some p =>
      let r := addV m p c
      (r.1, r.2 ||| sigFlags [c])

/-- a ÷ b exactly (R90: 0 ÷ 0 and ∞ ÷ ∞ are invalid; a finite nonzero value by zero raises DivZero). -/
def divV (a b : FVal) : FVal × BitVec 7 :=
  match pickNan [a, b] with
  | some v => (v, sigFlags [a, b])
  | none =>
    match a, b with
    | .inf _, .inf _ => (FVal.canonical, flagINV)
    | .inf n1, .fin n2 _ _ _ => (.inf (n1 != n2), 0)
    | .fin n1 _ _ _, .inf n2 => (.fin (n1 != n2) 0 1 0, 0)
    | .fin n1 a1 d1 e1, .fin n2 a2 d2 e2 =>
      if a2 = 0 then (if a1 = 0 then (FVal.canonical, flagINV) else (.inf (n1 != n2), flagDZ))
      else (.fin (n1 != n2) (a1 * d2) (d1 * a2) (e1 - e2), 0)
    | _, _ => (FVal.canonical, 0)

/-- The integer square root, one bit of the result at a time from bit k down. -/
def isqrtFrom (n : Nat) : Nat → Nat → Nat
  | 0, r => if (r + 1) * (r + 1) ≤ n then r + 1 else r
  | k + 1, r => let t := r + 2 ^ (k + 1); isqrtFrom n k (if t * t ≤ n then t else r)

/-- The integer square root of n. -/
def isqrt (n : Nat) : Nat := isqrtFrom n (Nat.log2 n / 2 + 1) 0

/-- sqrt(x) of R87 as a value whose single rounding to a precision of at most 60 bits is that of the exact root: the last
bit of the numerator is set where the root goes on. -/
def sqrtV (a : FVal) : FVal × BitVec 7 :=
  match a with
  | .nan _ _ => (a.quiet, sigFlags [a])
  | .inf n => if n then (FVal.canonical, flagINV) else (a, 0)
  | .fin n num den e =>
    if num = 0 then (a, 0)
    else if n then (FVal.canonical, flagINV)
    else
      let k : Int := 160 + e % 2
      let v := num * den * 2 ^ k.toNat
      let r := isqrt v
      (.fin false (2 * r + (if r * r = v then 0 else 1)) den ((e - k) / 2 - 1), 0)

/-- a < b, a = b, a > b of values that are not NaNs; zeros are equal. -/
def cmpV (a b : FVal) : Ordering :=
  match a, b with
  | .inf n1, .inf n2 => if n1 = n2 then .eq else if n1 then .lt else .gt
  | .inf n, _ => if n then .lt else .gt
  | _, .inf n => if n then .gt else .lt
  | .fin n1 a1 d1 e1, .fin n2 a2 d2 e2 =>
    let e0 := min e1 e2
    compare (scaledInt n1 (a1 * d2) e1 e0) (scaledInt n2 (a2 * d1) e2 e0)
  | _, _ => .eq

/-- Minimum or maximum under R90: −0 below +0; equal operands of one sign give a. -/
def minMaxV (isMax : Bool) (a b : FVal) : FVal × BitVec 7 :=
  match pickNan [a, b] with
  | some v => (v, sigFlags [a, b])
  | none =>
    let bLess := match cmpV a b with
      | .lt => false
      | .gt => true
      | .eq => !a.neg && b.neg
    let aLess := match cmpV a b with
      | .lt => true
      | .gt => false
      | .eq => a.neg && !b.neg
    (if isMax then (if aLess then b else a) else (if bLess then b else a), 0)

/-- The floating-point relation of a compare code of R53 with the Invalid rule of R90. -/
def relFloat (code : Nat) (a b : FVal) : Bool × BitVec 7 :=
  let un := a.isNan || b.isNan
  let sig := sigFlags [a, b]
  let o := cmpV a b
  let quietF := sig
  let loud := if un then flagINV else 0#7
  match code with
  | 0 => (!un && decide (o = .eq), quietF)
  | 1 => (un || decide (o ≠ .eq), quietF)
  | 2 => (!un && decide (o = .lt), loud)
  | 3 => (!un && decide (o ≠ .lt), loud)
  | 6 => (!un && decide (o ≠ .gt), loud)
  | 7 => (!un && decide (o = .gt), loud)
  | 10 => (un, quietF)
  | _ => (!un, quietF)

/-- The integer relation of a compare code of R53, on n-bit patterns and their mathematical values. -/
def relInt (code : Nat) (a b : Int) (ua ub : Nat) : Bool :=
  match code with
  | 0 => decide (a = b)
  | 1 => decide (a ≠ b)
  | 2 => decide (a < b)
  | 3 => decide (b ≤ a)
  | 4 => decide (ua < ub)
  | 5 => decide (ub ≤ ua)
  | 6 => decide (a ≤ b)
  | 7 => decide (b < a)
  | 8 => decide (ua ≤ ub)
  | _ => decide (ub < ua)

/-! ### Integers (R87, R93, R97) -/

/-- rint(x, m) of R87, and whether it differs from x. -/
def rintFin (m : Rnd) (neg : Bool) (num den : Nat) (e : Int) : Int × Bool :=
  let (fl, rem, d) := scaleDiv num den e
  let r : Nat := fl + (if roundsUp m neg fl rem d then 1 else 0)
  (if neg then -(r : Int) else r, decide (rem ≠ 0))

/-- sat(x, lo, hi) of R87 with Saturate. -/
def satI (x lo hi : Int) : Int × BitVec 7 :=
  if x < lo then (lo, flagSAT) else if hi < x then (hi, flagSAT) else (x, 0)

/-- sat_i32 of R87. -/
def satI32 (x : Int) : Int × BitVec 7 := satI x (-2147483648) 2147483647

/-- Float to an integer range (R97): saturating with INV alone, INX otherwise, 0 and INV for a NaN. -/
def floatToInt (m : Rnd) (lo hi : Int) (v : FVal) : Int × BitVec 7 :=
  match v with
  | .nan _ _ => (0, flagINV)
  | .inf n => (if n then lo else hi, flagINV)
  | .fin n a d e =>
    let (r, x) := rintFin m n a d e
    if r < lo then (lo, flagINV) else if hi < r then (hi, flagINV) else (r, flagIf x flagINX)

/-- Float to a trit (R97). -/
def floatToTrit (m : Rnd) (v : FVal) : Int × BitVec 7 :=
  match v with
  | .nan _ _ => (0, flagINV)
  | .inf n => (if n then -1 else 1, flagINV)
  | .fin n a d e =>
    let (r, x) := rintFin m n a d e
    let (s, fl) := satI r (-1) 1
    (s, fl ||| flagIf x flagINX)

/-- An integer as an exact value. -/
def intV (x : Int) : FVal := .fin (decide (x < 0)) x.natAbs 1 0

/-! ### Trits (R84, R86) -/

/-- t2_dec of R87. -/
def t2Dec (c : Nat) : Int × BitVec 7 :=
  match c % 4 with
  | 0 => (0, 0)
  | 1 => (1, 0)
  | 3 => (-1, 0)
  | _ => (0, flagTCODE)

/-- The code of a trit (R84). -/
def t2Enc (t : Int) : Nat := if t = 0 then 0 else if 0 < t then 1 else 3

/-- Trit i of a T5 byte (R86). -/
def t5Trit (b i : Nat) : Int :=
  if b < 243 then
    match b / 3 ^ i % 3 with
    | 0 => 0
    | 1 => 1
    | _ => -1
  else 0

/-- TCODE of a T5 byte (R86). -/
def t5Flag (b : Nat) : BitVec 7 := flagIf (decide (243 ≤ b)) flagTCODE

/-! ### F32 and BF16 shorthands -/

/-- The value of an F32 encoding. -/
def vF32 (w : W32) : FVal := decodeF f32 w.toNat

/-- The value of a BF16 encoding. -/
def vBF16 (w : Half) : FVal := decodeF bf16 w.toNat

/-- rnd to an F32 encoding with flags. -/
def rndF32 (m : Rnd) (r : FVal × BitVec 7) : W32 × BitVec 7 :=
  let z := roundV f32 m r.1
  (BitVec.ofNat 32 z.1, r.2 ||| z.2)

/-- rne_f32(a + b). -/
def addF32 (a b : W32) : W32 × BitVec 7 := rndF32 .rne (addV .rne (vF32 a) (vF32 b))

/-- rne_f32(a × b). -/
def mulF32 (a b : W32) : W32 × BitVec 7 := rndF32 .rne (mulV (vF32 a) (vF32 b))

/-- rne_f32(a ÷ b). -/
def divF32 (a b : W32) : W32 × BitVec 7 := rndF32 .rne (divV (vF32 a) (vF32 b))

/-- A subnormal of F32 and BF16 as a zero of the same sign (R91). -/
def flushV (v : FVal) : FVal :=
  match v with
  | .fin n a d e => if expOf a d e < -126 ∨ a = 0 then .fin n 0 1 0 else v
  | _ => v

/-- F32 → BF16 under R97: a NaN keeps its sign and top fraction bits and is quiet; INV for a signalling one. -/
def cvtF32BF16 (m : Rnd) (w : W32) : Half × BitVec 7 :=
  let v := vF32 w
  let z := roundV bf16 m v.quiet
  (BitVec.ofNat 16 z.1, z.2 ||| sigFlags [v])

/-- A BF16 encoding's F32 encoding: 16 zero bits appended (R97), a NaN quieted. -/
def cvtBF16F32 (h : Half) : W32 × BitVec 7 :=
  let v := vBF16 h
  (BitVec.ofNat 32 (roundV f32 .rne v.quiet).1, sigFlags [v])

/-! ### The vector destination (R92) -/

/-- apply_clamp of R92 on a rounded value. -/
def clampV (clamp : BitVec 2) (v : FVal) : FVal :=
  let zero : FVal := .fin false 0 1 0
  let one : FVal := .fin false 1 1 0
  let minusOne : FVal := .fin true 1 1 0
  if v.isNan then v else
  match clamp.toNat with
  | 0 => v
  | 1 => if v.neg then zero else v
  | 2 => if v.neg then zero else if cmpV v one = .gt then one else v
  | _ => if cmpV v minusOne = .lt then minusOne else if cmpV v one = .gt then one else v

/-- fp_dest of R92: the encoding written, and the flags. -/
def fpDest (r : FVal × BitVec 7) (f : Fmt) (m : Rnd) (scale : BitVec 4) (clamp : BitVec 2) (fo : Bool) : Nat × BitVec 7 :=
  match r.1 with
  | .nan n fr => (nanBits f n fr, r.2)
  | .inf n => ((roundV f m (clampV clamp (.inf n))).1, r.2)
  | .fin n a d e =>
    let z := roundFin f m n a d (e + scale.toInt)
    let v := decodeF f z.1
    let sub := match v with
      | .fin _ a' d' e' => decide (a' ≠ 0 ∧ expOf a' d' e' < -126)
      | _ => false
    let v' := if fo && sub then .fin n 0 1 0 else v
    let fl := if fo && sub then flagUNF ||| flagINX else 0#7
    ((roundV f m (clampV clamp v')).1, r.2 ||| z.2 ||| fl)

/-- Scalar integer division (R132): quotient, remainder and DivZero, on signed or unsigned 64-bit values. -/
def divide (isSigned : Bool) (a b : W64) : W64 × W64 × BitVec 7 :=
  if b = 0#64 then (BitVec.allOnes 64, a, flagDZ)
  else if isSigned then (BitVec.sdiv a b, BitVec.srem a b, 0)
  else (a / b, a % b, 0)

/-- FEREC's FLAG code of the lowest flag raised (R96). -/
def lowestFlag (f : BitVec 7) : Nat := leastOr 7 (bitsOf f 7)

end Sys2Proof.Machine
end

