-- ==== Sys2Proof/Machine/Store.lean ====
section
/-!
DEFINITION. The named accessors of the state: bytes of memory, contexts, cores, registers, condition queues, pending
results, flags, barriers and notices. Every read and write of a register or a byte goes through these.
-/

namespace Sys2Proof.Machine

/-! ### Memory -/

/-- The byte of a cell; an unlisted cell reads as `unlistedByte` (log entry 1). -/
def Memory.get (m : Memory) (k : Nat) : Byte :=
  match m with
  | [] => unlistedByte
  | (j, b) :: r => if j = k then b else Memory.get r k

/-- A cell put in its place among rising keys. -/
def Memory.insertCell (m : Memory) (k : Nat) (b : Byte) : Memory :=
  match m with
  | [] => [(k, b)]
  | (j, c) :: r => if j < k then (j, c) :: Memory.insertCell r k b else (k, b) :: (j, c) :: r

/-- Memory without the cell of k. -/
def Memory.erase (m : Memory) (k : Nat) : Memory := m.filter fun c => decide (c.1 ≠ k)

/-- A byte written, the canonical form kept: writing what an unlisted cell reads as removes the entry. -/
def Memory.put (m : Memory) (k : Nat) (b : Byte) : Memory :=
  if b = unlistedByte then m.erase k else Memory.insertCell (m.erase k) k b

/-- A run of bytes written, lowest key first. -/
def Memory.putRun (m : Memory) (k : Nat) (bs : List Byte) : Memory :=
  match bs with
  | [] => m
  | b :: r => Memory.putRun (m.put k b) (k + 1) r

/-- A run of n bytes. -/
def Memory.run (m : Memory) (k n : Nat) : List Byte := (upTo n).map fun i => m.get (k + i)

/-- The cells of a run of bytes. -/
def cellRun (key : Nat) (bs : List Byte) : List (Nat × Byte) := (upTo bs.length).map fun i => (key + i, bs.getD i 0#8)

/-- Byte a of a region. -/
def State.byte (s : State) (r : Region) (a : Nat) : Byte := s.mem.get (cellKey r a)

/-- n bytes of a region from a. -/
def State.bytes (s : State) (r : Region) (a n : Nat) : List Byte := s.mem.run (cellKey r a) n

/-- The little-endian value of n bytes of a region from a (R4). -/
def State.word (s : State) (r : Region) (a n : Nat) : Nat := ofBytes (s.bytes r a n)

/-- Bytes written into a region from a. -/
def State.putBytes (s : State) (r : Region) (a : Nat) (bs : List Byte) : State :=
  { s with mem := s.mem.putRun (cellKey r a) bs }

/-- A byte written into a region. -/
def State.putByte (s : State) (r : Region) (a : Nat) (b : Byte) : State := { s with mem := s.mem.put (cellKey r a) b }

/-- The full/empty bit of the granule that holds LOCAL byte a of a core (R150). -/
def State.full (s : State) (core a : Nat) : Bool := decide (s.byte (.fe core) (a / 16) ≠ 0#8)

/-- The bit as it stood at the start of the cycle (R151). -/
def State.fullAtStart (s : State) (core a : Nat) : Bool :=
  decide (s.memStart.get (cellKey (.fe core) (a / 16)) ≠ 0#8)

/-- The bits of n granules from granule g written by the core's own operations. -/
def State.setFull (s : State) (core g n : Nat) (b : Bool) : State :=
  s.putBytes (.fe core) g (List.replicate n (if b then 1#8 else 0#8))

/-- The bits of n granules from granule g set full by an arrival that R280 counts as a strong store. -/
def State.fillFull (s : State) (core g n : Nat) : State := s.putBytes (.fe core) g (List.replicate n 2#8)

/-- The granule of LOCAL byte a was last set full by such an arrival, so that a load that waits for it acquires (R280). -/
def State.filledAtStart (s : State) (core a : Nat) : Bool :=
  decide (s.memStart.get (cellKey (.fe core) (a / 16)) = 2#8)

/-- The granules that n bytes from a touch, as a first granule and a count. -/
def granules (a n : Nat) : Nat × Nat := (a / 16, if n = 0 then 0 else (a + n - 1) / 16 - a / 16 + 1)

/-! ### Units of the device -/

def State.ctx (s : State) (core x : Nat) : Ctx := lookupD Ctx.reset s.ctxs (2 * core + x)

def State.setCtx (s : State) (core x : Nat) (k : Ctx) : State := { s with ctxs := insertKey s.ctxs (2 * core + x) k }

def State.modCtx (s : State) (core x : Nat) (f : Ctx → Ctx) : State := s.setCtx core x (f (s.ctx core x))

def State.core (s : State) (core : Nat) : Core := lookupD Core.reset s.cores core

def State.setCore (s : State) (core : Nat) (k : Core) : State := { s with cores := insertKey s.cores core k }

def State.modCore (s : State) (core : Nat) (f : Core → Core) : State := s.setCore core (f (s.core core))

def State.pair (s : State) (n : Nat) : Pair := lookupD Pair.reset s.pairs n

def State.setPair (s : State) (n : Nat) (p : Pair) : State := { s with pairs := insertKey s.pairs n p }

def State.camp (s : State) (n : Nat) : Camp := lookupD Camp.reset s.camps n

def State.setCamp (s : State) (n : Nat) (c : Camp) : State := { s with camps := insertKey s.camps n c }

def State.modCamp (s : State) (n : Nat) (f : Camp → Camp) : State := s.setCamp n (f (s.camp n))

/-- The context of the cursor. -/
def State.me (s : State) : Ctx := s.ctx s.cur.core s.cur.x

def State.modMe (s : State) (f : Ctx → Ctx) : State := s.modCtx s.cur.core s.cur.x f

def State.myCore (s : State) : Core := s.core s.cur.core

def State.notify (s : State) (n : Notice) : State := { s with notices := s.notices ++ [n] }

/-- The next free value's number, and the state that has asked for it. -/
def State.fresh (s : State) : Nat × State := (s.freeN, { s with freeN := s.freeN + 1 })

/-- The next order stamp. -/
def State.stampSeq (s : State) : Nat × State := (s.seqN, { s with seqN := s.seqN + 1 })

/-- A time from now that the manual leaves open: at least one cycle. -/
def State.later (s : State) : Nat := s.now + 1 + Config.delay s.freeN

/-! ### Numbering (R10, R11, R12) -/

def dieOf (core : Nat) : Nat := 2 * (core / 16 / 8) + core % 16 / 8

def clusterOf (core : Nat) : Nat := 8 * dieOf core + 2 * (core / 16 % 8 / 2) + core % 16 % 8 / 4

def absDiff (a b : Nat) : Nat := (a - b) + (b - a)

/-- Transit of a packet between two cores (R11). -/
def transit (a b : Nat) : Nat :=
  2 * (absDiff (a % 16) (b % 16) + absDiff (a / 16) (b / 16))
    + 12 * (absDiff (a % 16 / 8) (b % 16 / 8) + absDiff (a / 16 / 8) (b / 16 / 8))

/-- The corner cores of a die, in ascending core ID (R12). -/
def corners (die : Nat) : List Nat :=
  let x := 8 * (die % 2)
  let y := 8 * (die / 2)
  [16 * y + x, 16 * y + x + 7, 16 * (y + 7) + x, 16 * (y + 7) + x + 7]

/-- Transit to a unit of a die through its nearest corner (R12). -/
def transitDie (core die : Nat) : Nat := leastOr 0 ((corners die).map (transit core))

/-- That corner: of those at the fewest cycles, the one of lowest core ID (R12). -/
def nearestCorner (core die : Nat) : Nat :=
  ((corners die).find? fun c => decide (transit core c = transitDie core die)).getD 0

/-! ### Packets (R9, R11, R12, R369) -/

/-- Core tile t of a die. -/
def tileOn (die t : Nat) : Nat := 16 * (8 * (die / 2) + t % 64 / 8) + 8 * (die % 2) + t % 8

/-- The tile at which a Skorn Link port attaches: on die p / 4, at a place that the manual leaves open (R9; log entry 20). -/
def linkTile (p : Nat) : Nat := tileOn (p / 4) (Config.portTile p)

/-- The tile of the host port, on die 0 (R9; log entry 20). -/
def hostTile : Nat := tileOn 0 (Config.portTile 16)

/-- The port of a device number in the route table that software has loaded; the device has 16 ports (R9, R369). -/
def State.route (s : State) (n : Nat) : Option Nat := (s.routes.find? fun e => decide (e.1 = n)).map fun e => e.2 % 16

/-- The tile at which a request of a core leaves the mesh: the target core, the nearest corner of a unit's die, or the tile of a port. -/
def State.tileOf (s : State) (core : Nat) (r : Region) (a : Nat) : Nat :=
  match r with
  | .scratch c => c
  | .pool d => nearestCorner core d
  | .dev => nearestCorner core (a / 412316860416)
  | .host => hostTile
  | .cxl => hostTile
  | .peer n => linkTile ((s.route n).getD 0)
  | _ => core

/-- When a packet that sets out at a time leaves its path, with a wait at contended links: links serve in the order of arrival, so that
two packets of one path keep theirs (R11). -/
def State.pathEnd (s : State) (p : Nat × Nat) (sent wait : Nat) : Nat :=
  let mine := s.packets.filter fun q => decide (q.src = p.1 ∧ q.dst = p.2)
  let first := mine.foldl (fun n q => if q.sent ≤ sent then max n q.due else n) (sent + transit p.1 p.2 + wait)
  mine.foldl (fun n q => if sent < q.sent then min n q.due else n) first

/-- Packets set out on some paths: when the last of them arrives, and the state; what contention costs is a free value (R11). -/
def State.carry (s : State) (paths : List (Nat × Nat)) (sent : Nat) : Nat × State :=
  let l := paths.map fun p => ({ src := p.1, dst := p.2, sent := sent, due := s.pathEnd p sent (Config.delay s.freeN) } : Packet)
  (l.foldl (fun n p => max n p.due) sent, { s with packets := s.packets ++ l, freeN := s.freeN + 1 })

/-- A request of a core and its reply by the same tile (R12), with an open access time between them: when the reply is back. -/
def State.roundTrip (s : State) (core tile : Nat) : Nat × State :=
  let (there, t) := s.carry [(core, tile)] s.now
  { t with freeN := t.freeN + 1 }.carry [(tile, core)] (there + 1 + Config.delay t.freeN)

/-! ### Registers -/

/-- s[n]; s0 holds zero, since nothing writes it (R30, R286). -/
def Ctx.s (k : Ctx) (n : Nat) : W64 := if n = 0 then 0#64 else k.sregs.getD n 0

def Ctx.v (k : Ctx) (n : Nat) : VReg := k.vregs.getD n (Vector.replicate 1024 0)

/-- m0 reads as all ones (R166). -/
def Ctx.m (k : Ctx) (n : Nat) : LaneMask := if n = 0 then BitVec.allOnes 1024 else k.masks.getD n 0

def Ctx.p (k : Ctx) (n : Nat) : BitVec 128 := k.pats.getD n 0

def Ctx.cq (k : Ctx) (n : Nat) : List Bool := k.cqs.getD n []

def Ctx.guard (k : Ctx) (n : Nat) : Guard := k.guards.getD n .unresolved

def Ctx.bar (k : Ctx) (n : Nat) : Barrier := k.bars.getD n ⟨false, false, false, false, 0, 0⟩

/-- A write to s0 is discarded (R30). -/
def Ctx.setS (k : Ctx) (n : Nat) (v : W64) : Ctx :=
  if n = 0 then k else { k with sregs := k.sregs.setIfInBounds n v }

/-- The active lanes of a vector register written (R166). -/
def Ctx.setV (k : Ctx) (n : Nat) (lanes : LaneMask) (v : VReg) : Ctx :=
  let old := k.v n
  let new : VReg := Vector.ofFn fun i : Fin 1024 => if lanes.getLsbD i.val then v[i] else old[i]
  { k with vregs := k.vregs.setIfInBounds n new }

/-- m0 is never written (R68). -/
def Ctx.setM (k : Ctx) (n : Nat) (lanes v : LaneMask) : Ctx :=
  if n = 0 then k
  else { k with masks := k.masks.setIfInBounds n ((k.m n &&& ~~~lanes) ||| (v &&& lanes)) }

def Ctx.setP (k : Ctx) (n : Nat) (v : BitVec 128) : Ctx := { k with pats := k.pats.setIfInBounds n v }

def Ctx.pushCq (k : Ctx) (n : Nat) (b : Bool) : Ctx := { k with cqs := k.cqs.setIfInBounds n (k.cq n ++ [b]) }

def Ctx.popCq (k : Ctx) (n : Nat) : Ctx := { k with cqs := k.cqs.setIfInBounds n (k.cq n).tail }

/-- A result lands in its destination (R39, R166). -/
def Ctx.land (k : Ctx) (r : Result) : Ctx :=
  match r with
  | .scalar n v => k.setS n v
  | .vector n l v => k.setV n l v
  | .mask n l v => k.setM n l v
  | .queue n b => k.pushCq n b
  | .pattern n v => k.setP n v
  | .flagsOnly => k

/-- Flags are merged into the slot's register, and the event is kept for FEREC (R94 to R96). -/
def Ctx.raise (k : Ctx) (slot : Nat) (f : BitVec 7) (ba : W64) : Ctx :=
  if f = 0#7 then k
  else { k with fpf := k.fpf.setIfInBounds slot (k.fpf.getD slot 0 ||| f), flagEvents := k.flagEvents ++ [(slot, f, ba)] }

/-- FEREC after the events of a cycle: the lowest slot, then the lowest FLAG code, while VALID is 0 (R96). Of two events that agree in
both, the one merged first gives ADDR (log entry 36). -/
def Ctx.recordFlags (k : Ctx) : Ctx :=
  let slot := leastOr 8 (k.flagEvents.map fun e => e.1)
  match k.flagEvents.find? fun e => decide (e.1 = slot) with
  | none => k
  | some first =>
    let mine := k.flagEvents.filter fun e => decide (e.1 = slot)
    let fl := leastOr 7 (mine.map fun e => lowestFlag e.2.1)
    let ba := ((mine.find? fun e => decide (lowestFlag e.2.1 = fl)).getD first).2.2
    { k with
      flagEvents := []
      ferec := if bitAt k.ferec 63 then k.ferec
        else BitVec.ofNat 64 (2 ^ 63 + slot * 2 ^ 60 + fl * 2 ^ 57 + ba.toNat % 2 ^ 57 / 8 * 8) }

/-- The destination that a result names, for R39 and R40: kind and number. -/
def Result.dest : Result → Nat × Nat
  | .scalar n _ => (0, n)
  | .vector n _ _ => (1, n)
  | .mask n _ _ => (2, n)
  | .queue n _ => (3, n)
  | .pattern n _ => (4, n)
  | .flagsOnly => (5, 0)

/-! ### Strands -/

def Ctx.strand? (k : Ctx) (id : Nat) : Option Strand := k.strands.find? fun t => decide (t.id = id)

/-- The strand that is issuing; a context always has one (R21). -/
def Ctx.strandD (k : Ctx) (id : Nat) : Strand := (k.strand? id).getD (Strand.lockstep id 0 (some false))

def Ctx.modStrand (k : Ctx) (id : Nat) (f : Strand → Strand) : Ctx :=
  { k with strands := k.strands.map fun t => if t.id = id then f t else t }

def Strand.low (t : Strand) : Nat := leastOr 8 (bitsOf t.slots 8)

/-- The mask of the JOIN at which a strand waits. -/
def Strand.joinMask (t : Strand) : Option (BitVec 8) :=
  t.waits.findSome? fun w => match w with
    | .join m => some m
    | _ => none

/-- The strands in ascending order of their lowest slot (R22). -/
def sortStrands (l : List Strand) : List Strand := (upTo 8).filterMap fun i => l.find? fun t => decide (t.low = i)

/-- The strand that holds a slot. -/
def Ctx.holder (k : Ctx) (slot : Nat) : Option Strand := k.strands.find? fun t => t.slots.getLsbD slot

def Ctx.lockstep (k : Ctx) : Bool := decide (k.strands.length = 1)

/-- The strand issuing the current operation. -/
def State.myStrand (s : State) : Strand := s.me.strandD s.cur.strand

/-! ### Latency (R70, R354) -/

/-- The factor q of R354. -/
def Core.q (c : Core) : Nat := ((field c.clkdiv 3 3).toNat + 1) / ((field c.clkdiv 0 3).toNat + 1)

/-- Reference cycles of a domain's cycle: control 0, vector 1, matrix 2, copy 3 (R353). -/
def Core.divisor (c : Core) (domain : Nat) : Nat := (field c.clkdiv (3 * domain) 3).toNat + 1

/-- A mode switch is under way in this cycle: the core's clock domains are frozen (R357). -/
def State.frozen (s : State) (core : Nat) : Bool :=
  match (s.core core).switchEnd with
  | none => false
  | some e => decide (s.now < e ∧ e ≤ s.now + Config.switchCycles)

/-- Reference cycles as a domain of a core counts them: those of the device without the ones that droops took (R355). -/
def State.domainTime (s : State) (core domain : Nat) : Nat := s.now - (s.core core).skew.getD domain 0

/-- CYCLE of a core: the reference cycles of its control domain (R353). -/
def State.cycleOf (s : State) (core : Nat) : Nat := s.domainTime core 0

/-- A domain has a cycle beginning now (R353, R355, R357). -/
def State.domainTick (s : State) (core domain : Nat) : Bool :=
  decide (s.domainTime core domain % (s.core core).divisor domain = 0) && !(s.core core).stretched.getLsbD domain && !s.frozen core

/-- A cycle of a domain ends with this reference cycle. -/
def State.domainLast (s : State) (core domain : Nat) : Bool :=
  decide ((s.domainTime core domain + 1) % (s.core core).divisor domain = 0) && !s.frozen core
    && !(s.domainTick core domain && (s.core core).droops.getLsbD domain)

/-- A fixed-latency result of the issuing operation goes to the pending list: it lands at the end of its N-th issue cycle
(R39, R40, R95). In a scoreboard region it is interlocked (R39). -/
def State.post (s : State) (r : Result) (latency : Nat) (flags : BitVec 7) : State :=
  { (s.modMe fun k => { k with pend := k.pend ++ [{
      res := r, left := latency, flags := flags, slot := s.cur.slot, strand := s.cur.strand, ba := s.cur.ba,
      exposed := s.cur.exposed, inter := false, isLoad := false, frozen := false, seq := s.seqN }] })
    with seqN := s.seqN + 1 }

/-- A result of a vector-domain operation, its latency scaled by q (R354). -/
def State.postV (s : State) (r : Result) (latency : Nat) (flags : BitVec 7) : State :=
  s.post r (latency * s.myCore.q) flags

/-! ### Barriers (R250, R251) -/

def Barrier.word (b : Barrier) : W64 :=
  BitVec.ofNat 64 ((if b.arm then 2 ^ 63 else 0) + (if b.ph then 2 ^ 62 else 0) + (if b.ovr then 2 ^ 61 else 0)
    + (if b.lastst then 2 ^ 60 else 0) + b.err.toNat * 2 ^ 56 + wrapNat b.bal 40)

/-- The events of one cycle on one barrier, in the order of R251, and the completion test. -/
def Barrier.cycle (b : Barrier) (n : Nat) (evs : List BarEvent) : Barrier :=
  let mine := evs.filter fun e => match e with
    | .init i => decide (i = n)
    | .expect i _ => decide (i = n)
    | .arrive i _ => decide (i = n)
    | .error i _ => decide (i = n)
  if mine.isEmpty then b else
  let b1 := if mine.any fun e => match e with | .init _ => true | _ => false
    then { b with bal := 0, arm := false, ovr := false, lastst := false, err := 0#4 } else b
  let b2 := mine.foldl (fun b e => match e with
    | .expect _ m => { b with bal := b.bal - m, arm := true }
    | _ => b) b1
  let b3 := mine.foldl (fun b e => match e with
    | .arrive _ m => if (2 : Int) ^ 39 - 1 < b.bal + m then { b with bal := 2 ^ 39 - 1, ovr := true }
        else { b with bal := b.bal + m }
    | _ => b) b2
  let code := mine.foldl (fun c e => match e with | .error _ m => max c m | _ => c) 0
  if code ≠ 0 then
    { b3 with err := BitVec.ofNat 4 code, lastst := true, ph := !b3.ph, arm := false, bal := 0 }
  else if b3.arm ∧ 0 ≤ b3.bal then
    { b3 with ovr := b3.ovr || decide (0 < b3.bal), lastst := false, ph := !b3.ph, arm := false }
  else b3

/-- A barrier event of the current cycle is recorded; R251 takes all of a cycle together. -/
def State.barEvent (s : State) (core x : Nat) (e : BarEvent) : State :=
  s.modCtx core x fun k => { k with barEvents := k.barEvents ++ [e] }

/-- The barriers at the end of a cycle (R251). What copies wrote for a barrier that completes its phase is its waits' to acquire
(R279). -/
def Ctx.closeBarriers (k : Ctx) : Ctx :=
  if k.barEvents.isEmpty then k
  else
    let new (i : Nat) : Barrier := (k.bar i).cycle i k.barEvents
    let completes (b : Option Nat) : Bool := (b.map fun i => decide ((new i).ph ≠ (k.bar i).ph)).getD false
    { k with
      bars := Vector.ofFn fun i : Fin 64 => new i.val
      copied := k.copied.map fun c => { c with phased := c.phased || completes c.bar }
      barEvents := [] }

end Sys2Proof.Machine
end

