-- ==== Sys2Proof/Machine/Consistency.lean ====
section
/-!
DEFINITION. The memory consistency model (spec/21 R265 to R281): held stores and their publication, snapshots, the order of
the accesses of one context, releases to engine commands, and the stacks' block recoding (R246, R247). Where the manual
leaves an order open, times and choices are free values (log entries 2, 20, 21).
-/

namespace Sys2Proof.Machine

/-! ### Device memory and block recoding -/

/-- The least physical device-memory address that no stack holds: 1,536 GiB (R238). -/
def deviceLimit : Nat := 1649267441664

/-- Chain, stack, stack-local address and pseudo-channel of a physical address (R238). -/
def stackOf (pa : Nat) : Nat × Nat × Nat × Nat :=
  let d := pa / 412316860416
  let o := pa % 412316860416
  let cls := o / 206158430208
  let u := o % 206158430208
  let chain := 3 * d + u / 4096 % 3
  let sa := u / 12288 * 4096 + u % 4096
  (chain, 2 * chain + cls, sa, sa / 256 % 256)

/-- Some of n bytes of device memory from pa lie in a pseudo-channel that is quiesced for its retirement (R240); a pseudo-channel holds
256 bytes in a row (R238). -/
def State.quiesced (s : State) (pa n : Nat) : Bool :=
  s.retiring.any fun q => (upTo (if n = 0 then 0 else (pa + n - 1) / 256 - pa / 256 + 1)).any fun i =>
    let p := stackOf ((pa / 256 + i) * 256)
    decide (q = (p.2.1, p.2.2.2))

/-- The exponent fields of a 64-byte block read as BF16 (R246). -/
def blockExps (bs : List Byte) : List Nat :=
  (upTo 32).map fun i => ofBytes ((bs.drop (2 * i)).take 2) / 128 % 256

/-- The block fits its 48-byte image (R246). -/
def blockFits (bs : List Byte) : Bool :=
  let es := blockExps bs
  let b := es.foldl max 0
  es.all fun e => decide (e = 0 ∨ b - e ≤ 6)

/-- The 48-byte image of a fitting block (R246). -/
def blockEncode (bs : List Byte) : List Byte :=
  let b := (blockExps bs).foldl max 0
  let v := (upTo 32).foldl (fun a i =>
    let h := ofBytes ((bs.drop (2 * i)).take 2)
    let e := h / 128 % 256
    a + ((h / 32768) * 1024 + (if e = 0 then 7 else b - e) * 128 + h % 128) * 2 ^ (8 + 11 * i)) b
  toBytes 48 v

/-- The block that a 48-byte image decodes to (R246). -/
def blockDecode (im : List Byte) : List Byte :=
  let v := ofBytes im
  let b := v % 256
  (upTo 32).flatMap fun i =>
    let el := v / 2 ^ (8 + 11 * i) % 2048
    let c := el / 128 % 8
    toBytes 2 (el / 1024 * 32768 + (if c = 7 then 0 else b - c) * 128 + el % 128)

/-- The fallback flags of the blocks that n bytes from pa touch, re-evaluated (R247). -/
def State.recode (s : State) (pa n : Nat) : State :=
  (upTo (if n = 0 then 0 else (pa + n - 1) / 64 - pa / 64 + 1)).foldl (fun s i =>
    let b := pa / 64 + i
    s.putByte .bxr b (if blockFits (s.bytes .dev (64 * b) 64) then 0#8 else 1#8)) s

/-- A write to device memory with the recoding of R247. -/
def State.devPut (s : State) (pa : Nat) (bs : List Byte) : State := (s.putBytes .dev pa bs).recode pa bs.length

/-- A write to any store. -/
def State.write (s : State) (r : Region) (a : Nat) (bs : List Byte) : State :=
  match r with
  | .dev => s.devPut a bs
  | _ => s.putBytes r a bs

/-- The region and offset of a cell of POOL or DEVICE memory. -/
def keyPlace (key : Nat) : Region × Nat :=
  let i := key / 18446744073709551616
  (if 8 ≤ i then .pool (i - 8) else .dev, key % 18446744073709551616)

/-! ### Held stores and snapshots -/

/-- A held store of one work unit (R267). -/
def Held.ofUnit (h : Held) (core x : Nat) (gen : W32) : Bool := decide (h.core = core ∧ h.x = x ∧ h.gen = gen)

/-- Two accesses of one context are ordered by their classes (R272, R274). -/
def classesMeet (a b : Nat) : Bool := decide (a = b ∨ a = 0 ∨ b = 0)

/-- One held byte becomes visible to every agent (R267), and the context's own snapshot holds it (R266). -/
def State.publishOne (s : State) (h : Held) : State :=
  let (r, a) := keyPlace h.key
  let s1 := s.write r a [h.byte]
  if (s1.ctx h.core h.x).gen = h.gen then s1.modCtx h.core h.x fun k => { k with snap := k.snap.put h.key h.byte } else s1

/-- The held bytes that a publication takes, in context order; of two racing ones of different nonzero classes a free choice
stands (R275). -/
def pickHeld (n : Nat) : List Held → List Held
  | [] => []
  | h :: r =>
    let racing := (r.any fun g => decide (g.key = h.key) && !classesMeet g.ac h.ac)
      && !(r.any fun g => decide (g.key = h.key) && classesMeet g.ac h.ac)
    if racing && Config.choice n then pickHeld (n + 1) r ++ [h] else h :: pickHeld (n + 1) r

/-- Held stores of a unit that satisfy p are published (R267, R268). -/
def State.publishWhere (s : State) (p : Held → Bool) : State :=
  let out := pickHeld s.freeN (s.held.filter p)
  let s1 := { s with held := s.held.filter (fun h => !p h), freeN := s.freeN + out.length }
  out.foldl State.publishOne s1

/-- Every held store of the unit that precedes the stamp is published (R268). -/
def State.publish (s : State) (core x : Nat) (gen : W32) (before : Nat) : State :=
  s.publishWhere fun h => h.ofUnit core x gen && decide (h.seq < before)

/-- A full snapshot point (R269). -/
def State.snapshot (s : State) (core x : Nat) : State := s.modCtx core x fun k => { k with snap := s.mem, copied := [] }

/-- A context's own held bytes of one cell, newest first. -/
def State.ownHeld (s : State) (core x : Nat) (gen : W32) (key : Nat) : List Held :=
  (s.held.filter fun h => h.ofUnit core x gen && decide (h.key = key)).reverse

/-- The held byte that a read of class ac returns: the newest whose class meets its own; a newer one of another nonzero
class stands in a race, and a free choice says whether the read returns it (R275). -/
def pickOwn (ac : Nat) (n : Nat) : List Held → Option Byte
  | [] => none
  | h :: r => if classesMeet h.ac ac || Config.choice n then some h.byte else pickOwn ac (n + 1) r

/-- What a plain load of one byte returns: the context's own held byte, else its snapshot (R269). -/
def State.plainByte (s : State) (core x ac n key : Nat) : Byte :=
  let k := s.ctx core x
  (pickOwn ac n (s.ownHeld core x k.gen key)).getD (k.snap.get key)

/-- What a strong load of one byte returns: the context's own held byte, else the coherent one (R266, R271). -/
def State.strongByte (s : State) (core x ac n key : Nat) : Byte :=
  (pickOwn ac n (s.ownHeld core x (s.ctx core x).gen key)).getD (s.mem.get key)

/-- n bytes as plain loads read them; each asks for free choices of its own. -/
def State.plainBytes (s : State) (core x ac : Nat) (key n : Nat) : List Byte :=
  (upTo n).map fun i => s.plainByte core x ac (s.freeN + i * s.held.length) (key + i)

def State.strongBytes (s : State) (core x ac : Nat) (key n : Nat) : List Byte :=
  (upTo n).map fun i => s.strongByte core x ac (s.freeN + i * s.held.length) (key + i)

/-- The free choices of n bytes have been asked for. -/
def State.asked (s : State) (n : Nat) : State := { s with freeN := s.freeN + n * s.held.length }

/-- Bytes that a unit has read or written replace those of its snapshot (R266, R269). -/
def State.note (s : State) (core x : Nat) (gen : W32) (key : Nat) (bs : List Byte) : State :=
  if (s.ctx core x).gen = gen then s.modCtx core x fun k => { k with snap := k.snap.putRun key bs } else s

/-- Bytes enter a context's snapshot (R269, R279). -/
def State.refresh (s : State) (core x : Nat) (key n : Nat) : State :=
  s.modCtx core x fun k => { k with snap := k.snap.putRun key (s.mem.run key n) }

/-- Before a strong access, the context's own earlier held stores to its bytes, in a class that meets its own, take their
place in the coherence order (R154, R272). -/
def State.settle (s : State) (core x : Nat) (gen : W32) (before ac : Nat) (r : Region) (a n : Nat) : State :=
  s.publishWhere fun h => h.ofUnit core x gen && decide (h.seq < before) && classesMeet h.ac ac
    && decide (cellKey r a ≤ h.key ∧ h.key < cellKey r a + n)

/-! ### Order of a context's accesses (R272) -/

/-- The region and first byte of an access's first run. -/
def Access.place (a : Access) : Option Region := a.runs.head?.map fun r => r.1
def Access.addr (a : Access) : Nat := (a.runs.head?.map fun r => r.2.1).getD 0

/-- REMOTE, POOL or DEVICE memory. -/
def Region.outer : Region → Bool
  | .dev => true
  | .pool _ => true
  | .scratch _ => true
  | _ => false

def Access.isFence (a : Access) : Bool := match a.kind with | .fence _ _ => true | _ => false

/-- An acquire of R271. -/
def Access.acquires (a : Access) : Bool :=
  match a.kind with
  | .fence q _ => q
  | .load _ _ => decide (a.ord = 1)
  | .amo _ _ _ _ _ => decide (a.ord = 1 ∨ a.ord = 4)
  | .tstat _ _ => true
  | .jcadd _ _ _ => true
  | _ => false

/-- A release of R271. -/
def Access.releases (a : Access) : Bool :=
  match a.kind with
  | .fence _ r => r
  | .store _ => decide (a.ord = 2)
  | .amo _ _ _ _ _ => decide (a.ord = 2 ∨ a.ord = 4)
  | .jcnew _ _ _ _ => true
  | .jcadd _ _ _ => true
  | _ => false

/-- A store in the sense of R272's second row; pair operations that take or put an entry are atomics (R352). -/
def Access.writes (a : Access) : Bool :=
  match a.kind with
  | .mbrecv _ _ _ _ _ => true
  | .store _ => true
  | .amo _ _ _ _ _ => true
  | .vstore _ _ => true
  | .pool _ _ _ _ _ _ _ _ _ => true
  | .jcnew _ _ _ _ => true
  | .jcadd _ _ _ => true
  | .mbsend _ _ _ => true
  | _ => false

/-- A strong access of R271, pair operations included (R352). -/
def Access.strong (a : Access) : Bool :=
  match a.kind with
  | .load _ _ => decide (a.ord ≠ 0)
  | .store _ => decide (a.ord ≠ 0)
  | .amo _ _ _ _ _ => true
  | .pool _ _ _ _ _ _ _ _ _ => true
  | .mbsend _ _ _ => true
  | .mbrecv _ _ _ _ _ => true
  | .tstat _ _ => true
  | .jcnew _ _ _ _ => true
  | .jcadd _ _ _ => true
  | _ => false

/-- A strong load or an atomic. -/
def Access.strongRead (a : Access) : Bool := a.strong && (match a.kind with | .store _ => false | _ => true)

/-- The access acts in memory, in a pair or as a fence, so that R272 speaks of it. -/
def Access.inOrder (a : Access) : Bool :=
  a.isFence || (match a.kind with
    | .mxstat _ _ _ => false
    | .query _ _ => false
    | .barq _ _ _ => false
    | .toktest _ _ => false
    | .mbstat _ _ => false
    | _ => true)

/-- The number of bytes that a scalar access covers. -/
def AccessKind.size : AccessKind → Nat
  | .load n _ => n
  | .store bs => bs.length
  | .amo _ n _ _ _ => n
  | .pool _ _ _ _ _ len _ _ _ => len
  | .tstat _ _ => 8
  | .jcnew _ _ _ _ => 8
  | .jcadd _ _ _ => 8
  | _ => 0

/-- Two runs share a byte. -/
def runsMeet (p q : Region × Nat × Nat) : Bool := decide (p.1 = q.1 ∧ p.2.1 < q.2.1 + q.2.2 ∧ q.2.1 < p.2.1 + p.2.2)

/-- Two accesses touch one byte. -/
def Access.overlaps (a b : Access) : Bool := a.runs.any fun p => b.runs.any fun q => runsMeet p q

/-- The cores whose scratchpads an access reaches by their network ports. -/
def Access.remoteCores (a : Access) : List Nat :=
  a.runs.filterMap fun r => match r.1 with
    | .scratch c => some c
    | _ => none

/-- Both write one core's scratchpad: remote writes to one destination core land in issue order (R200). -/
def Access.sameRemote (a b : Access) : Bool := a.writes && b.writes && a.remoteCores.any b.remoteCores.contains

/-- The class with which an access is ordered: an acquire or a release is ordered with every class (R274). -/
def Access.cls (a : Access) : Nat := if a.acquires || a.releases then 0 else a.ac

/-- E precedes L in the order of performing (R272); a strong store follows the releases before it, so that an acquire which reads it sees
what they publish (R273, R280). -/
def Access.before (e l : Access) : Bool :=
  e.inOrder && l.inOrder &&
    (if l.isFence then true
     else if e.isFence then e.acquires || l.writes || l.releases
     else e.acquires || l.releases || (e.strongRead && l.strong) || (e.releases && l.writes && (l.strong || !l.remoteCores.isEmpty))
       || (e.overlaps l && classesMeet e.cls l.cls) || e.sameRemote l)

def State.powerOf (s : State) (cluster : Nat) : Power := lookupD Power.on s.powers cluster

/-- A cluster that neither is retained nor gated (R361, R362). -/
def State.clusterOn (s : State) (core : Nat) : Bool :=
  match s.powerOf (clusterOf core) with
  | .on => true
  | .entering => true
  | .gating => true
  | _ => false

/-- The core by whose cluster a request reaches a place (R12, R144, R362): the target core, or the corner of the pool's die that is
nearest to the requester. -/
def entryCore (core : Nat) : Region → Option Nat
  | .scratch c => some c
  | .pool d => some (nearestCorner core d)
  | _ => none

/-- The place of a request of a core can serve it now: device memory accepts accesses (R120) and the pseudo-channel is not
quiesced (R240), the target core's ports are not held by a mode switch (R357), the cluster that it enters by is on (R361,
R362). -/
def State.serves (s : State) (core : Nat) (r : Region) (a : Nat) : Bool :=
  ((entryCore core r).all s.clusterOn)
    && (match r with
      | .dev => s.memready && !(s.retiring.any fun q => decide (q = ((stackOf a).2.1, (stackOf a).2.2.2)))
      | .scratch c => !s.frozen c
      | _ => true)

/-- Every byte of a run can be served; neighbouring 256-byte blocks of device memory lie in different pseudo-channels (R238). -/
def State.servesRun (s : State) (core : Nat) (r : Region × Nat × Nat) : Bool :=
  s.serves core r.1 r.2.1
    && (decide (r.1 ≠ .dev) || ((upTo ((r.2.1 + r.2.2 - 1) / 256 - r.2.1 / 256)).all fun i =>
      s.serves core r.1 ((r.2.1 / 256 + i + 1) * 256)))

/-- The access may be performed now: its time has come, its places serve it, and every earlier access of its unit that
R272 orders before it has been performed. -/
def State.canPerform (s : State) (a : Access) : Bool :=
  !a.done && decide (a.due ≤ s.now) && a.runs.all (s.servesRun a.core)
    && s.accs.all fun e => !(decide (e.core = a.core ∧ e.x = a.x ∧ e.gen = a.gen ∧ e.seq < a.seq) && !e.done && e.before a)

/-- Every access in order that the unit has issued before a stamp has been performed, so that a release may follow (R272). -/
def State.allPerformed (s : State) (core x before : Nat) : Bool :=
  let gen := (s.ctx core x).gen
  s.accs.all fun e => !(decide (e.core = core ∧ e.x = x ∧ e.gen = gen ∧ e.seq < before) && !e.done && e.inOrder)

/-- A release fence of a unit, or an atomic that releases, that has not been performed. -/
def Access.pendingRelease (a : Access) : Bool := a.releases && !a.done

/-- Every release that the unit has issued before a stamp has been performed, so that a strong store may follow (R273). -/
def State.allReleased (s : State) (core x before : Nat) : Bool :=
  let gen := (s.ctx core x).gen
  s.accs.all fun e => !(decide (e.core = core ∧ e.x = x ∧ e.gen = gen ∧ e.seq < before) && e.pendingRelease)

/-- An operation of the mailbox unit (R342). -/
def AccessKind.onPair (k : AccessKind) : Bool :=
  match k with
  | .mbrecv _ _ _ _ _ => true
  | .mbsend _ _ _ => true
  | .mbstat _ _ => true
  | _ => false

/-- The tiles at which the packets of an access leave the mesh: those of its runs, or that of the mailbox unit of its pair's die (R12). -/
def State.tilesOf (s : State) (core : Nat) (kind : AccessKind) (runs : List (Region × Nat × Nat)) : List Nat :=
  match kind with
  | .mbrecv _ pair _ _ _ => [nearestCorner core (pair / 16384)]
  | .mbsend pair _ _ => [nearestCorner core (pair / 16384)]
  | .mbstat pair _ => [nearestCorner core (pair / 16384)]
  | _ => runs.map fun r => s.tileOf core r.1 r.2.1

/-- The request of an access sets out. -/
def State.request (s : State) (core : Nat) (kind : AccessKind) (runs : List (Region × Nat × Nat)) : Nat × State :=
  s.carry ((s.tilesOf core kind runs).map fun t => (core, t)) s.now

/-- The time at which an access can be performed: its packets have arrived, and an access time that the manual leaves open has passed;
what the core itself answers waits for nothing (R237), and an operation on pairs is performed as it reaches the mailbox unit, so that those
of a core keep their order there (R11, R342). -/
def State.arrival (s : State) (core : Nat) (kind : AccessKind) (runs : List (Region × Nat × Nat)) : Nat :=
  match kind with
  | .mxstat _ _ _ => s.now
  | k => (s.request core kind runs).1 + 1 + (if k.onPair then 0 else Config.delay (s.freeN + 1))

/-- An access of the issuing operation to some runs enters the list. -/
def State.issueRuns (s : State) (kind : AccessKind) (runs : List (Region × Nat × Nat)) (ord scope ac : Nat)
    (isLoad isStore : Bool) : State :=
  let a : Access := {
    id := s.seqN, core := s.cur.core, x := s.cur.x, gen := s.me.gen, strand := s.cur.strand, slot := s.cur.slot,
    ba := s.cur.ba, kind := kind, runs := runs, ord := ord, scope := scope, ac := ac,
    isLoad := isLoad, isStore := isStore, due := s.arrival s.cur.core kind runs, done := false, results := [], flags := 0,
    seq := s.seqN }
  { s with
    accs := s.accs ++ [a], packets := (s.request s.cur.core kind runs).2.packets, seqN := s.seqN + 1, freeN := s.freeN + 2 }

/-- A scalar access of the issuing operation to one place, or to none. -/
def State.issueAccess (s : State) (kind : AccessKind) (place : Option Region) (addr ord scope ac : Nat)
    (isLoad isStore : Bool) : State :=
  s.issueRuns kind (place.toList.map fun r => (r, addr, kind.size)) ord scope ac isLoad isStore

def State.access? (s : State) (id : Nat) : Option Access := s.accs.find? fun a => decide (a.id = id)

def State.dropAccess (s : State) (id : Nat) : State := { s with accs := s.accs.filter fun a => decide (a.id ≠ id) }

/-- The reply of an access sets out when its access time is over, through the tiles by which it came (R11, R12). -/
def State.reply (s : State) (a : Access) : Nat × State :=
  s.carry ((s.tilesOf a.core a.kind a.runs).map fun t => (t, a.core)) (s.now + 1 + Config.delay (s.freeN + 1))

/-- An access has been performed with these results, which land at a time that the manual leaves open (R71), the way back among
it (R11, R12). -/
def State.performed (s : State) (id : Nat) (rs : List Result) (fl : BitVec 7) : State :=
  match s.access? id with
  | none => s
  | some b =>
    let c := s.reply b
    { s with
      accs := s.accs.map fun a => if a.id = id then { a with done := true, results := rs, flags := fl, due := c.1 } else a
      packets := c.2.packets
      freeN := s.freeN + 2 }

/-- The destination registers of an access, for the interlock of R36. -/
def Access.dests (a : Access) : List (Nat × Nat) :=
  match a.kind with
  | .load _ d => [(0, d)]
  | .amo _ _ _ _ d => [(0, d)]
  | .vload _ _ _ d => [(1, d)]
  | .pool _ _ _ _ _ _ d _ _ => [(0, d)]
  | .mbrecv _ _ _ _ d => [(0, d)]
  | .mbsend _ _ d => [(0, d)]
  | .mbstat _ d => [(0, d)]
  | .tstat _ d => [(0, d)]
  | .jcnew _ _ _ d => [(0, d)]
  | .jcadd _ _ d => [(0, d)]
  | .mxstat a b _ => [(0, a), (0, b)]
  | .query d _ => [(0, d)]
  | .barq _ d _ => [(0, d)]
  | .toktest _ d => [(0, d)]
  | _ => []

/-! ### Releases to engine commands (R277) -/

/-- A held or pending store of the command's unit was released to it by its push (R277). -/
def Cmd.released (c : Cmd) (seq strand ac : Nat) : Bool :=
  decide (seq < c.seq) && classesMeet ac c.ac
    && (decide (seq < c.joined) || decide (strand = c.strand) || c.rel.any fun q => decide (strand = q.1 ∧ seq < q.2))

/-- What a copy or weight stream reads of POOL or DEVICE memory: the coherent bytes, with the held stores that its push
released (R277, R278). -/
def State.engineByte (s : State) (core : Nat) (c : Cmd) (key : Nat) : Byte :=
  match (s.held.filter fun h => h.ofUnit core c.x c.gen && decide (h.key = key) && c.released h.seq h.strand h.ac).getLast? with
  | some h => h.byte
  | none => s.mem.get key

def State.engineBytes (s : State) (core : Nat) (c : Cmd) (r : Region) (a n : Nat) : List Byte :=
  (upTo n).map fun i => s.engineByte core c (cellKey r (a + i))

/-- No store that the push released is still on its way to bytes that the command touches. -/
def State.releasedArrived (s : State) (core : Nat) (c : Cmd) (r : Region) (a n : Nat) : Bool :=
  s.accs.all fun e => !(decide (e.core = core ∧ e.x = c.x ∧ e.gen = c.gen) && !e.done && e.writes
    && c.released e.seq e.strand e.ac && e.runs.any (runsMeet (r, a, n)))

/-- No release of the unit before the push is still to be performed: an arrival that sets granules full is a strong store behind them
(R273, R280). -/
def State.releasesDone (s : State) (core : Nat) (c : Cmd) : Bool :=
  s.accs.all fun e => !(decide (e.core = core ∧ e.x = c.x ∧ e.gen = c.gen ∧ e.seq < c.seq) && e.pendingRelease)

/-- LOCAL bytes that a command reads hold what its push released to it: the strand's earlier REMOTE stores to its own core (R277). -/
def State.localArrived (s : State) (core : Nat) (c : Cmd) (a n : Nat) : Bool := s.releasedArrived core c (.scratch core) a n

/-- A copy's write follows the released stores to its bytes in the coherence order (R272, R277). -/
def State.engineSettle (s : State) (core : Nat) (c : Cmd) (r : Region) (a n : Nat) : State :=
  s.publishWhere fun h => h.ofUnit core c.x c.gen && c.released h.seq h.strand h.ac
    && decide (cellKey r a ≤ h.key ∧ h.key < cellKey r a + n)

end Sys2Proof.Machine
end

