-- ==== Sys2Proof/Machine/Operands.lean ====
section
/-!
DEFINITION. Every operand form: effective addresses and the checks of their spaces (R140 to R146, R189), the footprints and
banks of vector accesses (R190, R191, R196 to R199), the elements that vector operations read and write (R85, R169, R170),
and the fields of copy commands (R254 to R258).
-/

namespace Sys2Proof

open Sys2Proof.Machine

/-! ### Addresses -/

/-- ea of a scalar memory operation (R141). -/
def SM.ea (f : SM) (k : Ctx) : W64 := k.s f.base.toNat + sext64 f.off

/-- ea of a vector memory operation (R189). -/
def VM.ea (f : VM) (k : Ctx) : W64 := k.s f.base.toNat + sext64 f.off * 16#64

/-- The access size in bytes (R55). -/
def SM.bytes (f : SM) : Nat := 2 ^ f.size.toNat

/-- The 57-bit canonical form of DEVICE addresses (R140). -/
def Machine.canonical (va : Nat) : Bool :=
  let top := va / 2 ^ 57
  if va / 2 ^ 56 % 2 = 1 then decide (top = 127) else decide (top = 0)

/-- FIRST, LIMIT, CORE and V of a peer window entry (R294). -/
def Machine.peerFirst (e : W64) : Nat := (field e 8 21).toNat
def Machine.peerLimit (e : W64) : Nat := (field e 29 22).toNat
def Machine.peerCore (e : W64) : Nat := (field e 0 8).toNat
def Machine.peerValid (e : W64) : Bool := bitAt e 63

/-- The extent entry that holds va to va + n − 1 (R146). -/
def Machine.Ctx.extentHit (k : Ctx) (va n : Nat) : Option (Nat × Extent) :=
  ((upTo 8).map fun i => (i, k.extents.getD i ⟨0, 0, 0, false, false⟩)).find? fun p =>
    decide (0 < p.2.len ∧ p.2.vbase ≤ va ∧ va + n ≤ p.2.vbase + p.2.len)

/-- The check of an access of n bytes at ea in a space: the store and offset it reaches, or none where R140, R142, R144 or
R146 raise EXTENT. -/
def Machine.Ctx.place (k : Ctx) (core space ea n : Nat) (reads writes : Bool) : Option (Region × Nat) :=
  match space with
  | 0 => if k.scrbase.toNat ≤ ea ∧ ea + n ≤ k.scrlim.toNat then some (.scratch core, ea) else none
  | 1 => if k.accbase.toNat ≤ ea ∧ ea + n ≤ k.acclim.toNat then some (.acc core, ea) else none
  | 2 =>
    let c := ea / 2097152
    let a := ea % 2097152
    if ea < 536870912 ∧ ((upTo 8).any fun i =>
        let e := k.peers.getD i 0
        peerValid e && decide (peerCore e = c ∧ peerFirst e ≤ a ∧ a + n ≤ peerLimit e))
    then some (.scratch c, a) else none
  | 3 =>
    let a := ea % 67108864
    if ea < 268435456 ∧ a + n ≤ 67108864 then some (.pool (ea / 67108864), a) else none
  | _ =>
    if canonical ea then
      match k.extentHit (ea % 2 ^ 57) n with
      | some (_, e) =>
        if (reads && !e.r) || (writes && !e.w) then none else some (.dev, e.pbase + (ea % 2 ^ 57 - e.vbase))
      | none => none
    else none

/-- A LOCAL run lies in the window (R142). -/
def Machine.Ctx.inWindow (k : Ctx) (a n : Nat) : Bool := decide (k.scrbase.toNat ≤ a ∧ a + n ≤ k.scrlim.toNat)

/-- An ACC run lies in the window (R142). -/
def Machine.Ctx.inAcc (k : Ctx) (a n : Nat) : Bool := decide (k.accbase.toNat ≤ a ∧ a + n ≤ k.acclim.toNat)

/-- The lowest address of a run outside a window (R210, R254). -/
def Machine.lowestOutside (lo hi a n : Nat) : Nat := if a < lo then a else if a + n ≤ hi then a else max a hi

/-! ### Banks (R147, R149, R191) -/

/-- The banks that a LOCAL run touches. -/
def Machine.banksOfRun (a n : Nat) : W32 :=
  if n = 0 then 0#32
  else if 2048 ≤ n then BitVec.allOnes 32
  else (upTo ((a + n - 1) / 64 - a / 64 + 1)).foldl (fun m i => m ||| BitVec.ofNat 32 (2 ^ ((a / 64 + i) % 32))) 0#32

def Machine.banksOfRuns (l : List (Nat × Nat)) : W32 := l.foldl (fun m r => m ||| banksOfRun r.1 r.2) 0#32

/-- The banks that engine commands of either context hold (R148). -/
def Machine.Core.heldBanks (c : Core) : W32 :=
  c.queues.toList.flatten.foldl (fun m q => if q.banksHeld then m ||| q.banks else m) 0#32

/-! ### Vector footprints -/

/-- Memory width of an element type (R190): T2 and T5 pack elements and have none. -/
def Machine.mwidth (mtype : Nat) : Nat :=
  match mtype with
  | 0 => 4
  | 1 => 2
  | 2 => 4
  | 3 => 2
  | 4 => 1
  | 5 => 1
  | _ => 0

/-- The fields of a pattern image (R194): P8, w, s, n, o, SG. -/
def Machine.patField (p : BitVec 128) (i : Nat) : Nat := (field p (8 * i) 8).toNat

/-- The image is legal (R194). -/
def Machine.patLegal (p : BitVec 128) : Bool :=
  let p8 := patField p 0
  let w := patField p 1
  let st := patField p 2
  let n := patField p 3
  let o := patField p 4
  decide (1 ≤ p8 ∧ p8 ≤ 16 ∧ 1 ≤ w ∧ w ≤ 16 ∧ w ≤ st ∧ st ≤ 8 * p8 ∧ 1 ≤ n ∧ n ≤ 64 ∧ patField p 5 ≤ 1
    ∧ p.toNat / 2 ^ 48 = 0 ∧ o + (n - 1) * st + w ≤ 8 * p8)

/-- The contiguous runs of a vector access, in element order (R190, R196, R197); addresses are mod 2^64. -/
def VM.runs (f : VM) (ea pitch : W64) (pat : BitVec 128) : List (Nat × Nat) :=
  let w := mwidth f.mtype.toNat
  if f.pat ≠ 0#3 then
    let n := patField pat 3
    let p8 := patField pat 0
    if f.layout = 0#2 then [(ea.toNat, ceilDiv 1024 n * p8)]
    else (upTo 16).map fun i => ((ea + BitVec.ofNat 64 i * pitch).toNat, 64 / n * p8)
  else if f.mtype = 6#3 then [(ea.toNat, 256)]
  else if f.mtype = 7#3 then [(ea.toNat, 205)]
  else if f.layout = 1#2 then (upTo 16).map fun i => ((ea + BitVec.ofNat 64 i * pitch).toNat, 64 * w)
  else [(ea.toNat, 1024 * w)]

/-- The address of element e in a gather or scatter (R198). -/
def VM.elemAddr (f : VM) (ea : W64) (idx : VReg) (e : Nat) : W64 :=
  ea + (idx.getD e 0).signExtend 64 * BitVec.ofNat 64 (mwidth f.mtype.toNat)

/-- The runs of a gather or scatter: one per element, in lane order (R198). -/
def VM.gatherRuns (f : VM) (ea : W64) (idx : VReg) : List (Nat × Nat) :=
  (upTo 1024).map fun e => ((f.elemAddr ea idx e).toNat, mwidth f.mtype.toNat)

/-- The container written for the memory bits of an element (R85, R190). -/
def Machine.containerOf (mtype bits : Nat) : W32 :=
  match mtype with
  | 1 => BitVec.ofNat 32 (bits * 65536)
  | 3 => (BitVec.ofNat 16 bits).signExtend 32
  | 4 => (BitVec.ofNat 8 bits).signExtend 32
  | _ => BitVec.ofNat 32 bits

/-- The memory bits of a container (R190). -/
def Machine.memBitsOf (mtype : Nat) (w : W32) : Nat :=
  match mtype with
  | 1 => w.toNat / 65536
  | 3 => w.toNat % 65536
  | 4 => w.toNat % 256
  | 5 => w.toNat % 256
  | _ => w.toNat

/-- Byte offset of element e from the first byte of its run list: run number and offset in the run (R190). -/
def VM.elemPos (f : VM) (e : Nat) : Nat × Nat :=
  let w := mwidth f.mtype.toNat
  if f.layout = 1#2 then (e / 64, e % 64 * w)
  else if f.layout = 2#2 then (0, (16 * (e % 64) + e / 64) * w)
  else (0, e * w)

/-- Elements of a register from the bytes of the runs of a load (R190, R196, R197), with the flags of the load path. -/
def VM.fill (f : VM) (pat : BitVec 128) (data : List (List Byte)) : VReg × BitVec 7 :=
  let runs : List (Array Byte) := data.map List.toArray
  let at' (r o : Nat) : Nat := ((runs.getD r #[]).getD o 0#8).toNat
  if f.pat ≠ 0#3 then
    let n := patField pat 3
    let P := 8 * patField pat 0
    let w := patField pat 1
    let elem (e : Nat) : W32 :=
      let (r, q, i) := if f.layout = 0#2 then (0, e / n, e % n) else (e / 64, e % 64 / n, e % 64 % n)
      let bit := q * P + patField pat 4 + i * patField pat 2
      let x := (at' r (bit / 8) + 256 * at' r (bit / 8 + 1) + 65536 * at' r (bit / 8 + 2)) / 2 ^ (bit % 8) % 2 ^ w
      if patField pat 5 = 1 then BitVec.ofInt 32 (sextInt x w) else BitVec.ofNat 32 x
    (Vector.ofFn fun i : Fin 1024 => elem i.val, 0)
  else if f.mtype = 6#3 then
    let code (e : Nat) : Nat := at' 0 (e / 4) / 4 ^ (e % 4) % 4
    (Vector.ofFn fun i : Fin 1024 => BitVec.ofInt 32 (t2Dec (code i.val)).1,
      flagIf ((upTo 1024).any fun e => decide (code e = 2)) flagTCODE)
  else if f.mtype = 7#3 then
    (Vector.ofFn fun i : Fin 1024 => BitVec.ofInt 32 (t5Trit (at' 0 (i.val / 5)) (i.val % 5)),
      flagIf ((upTo 205).any fun e => decide (243 ≤ at' 0 e)) flagTCODE)
  else
    let w := mwidth f.mtype.toNat
    let elem (e : Nat) : W32 :=
      let (r, o) := f.elemPos e
      containerOf f.mtype.toNat ((upTo w).foldr (fun i v => at' r (o + i) + 256 * v) 0)
    (Vector.ofFn fun i : Fin 1024 => elem i.val, 0)

/-- The bytes that a vector store writes, at their addresses in element order (R190, R197), with the flags of the store
path. -/
def VM.spill (f : VM) (ea pitch : W64) (v : VReg) : List (Nat × Byte) × BitVec 7 :=
  let trit (e : Nat) : Int × BitVec 7 := satI (sextInt (v.getD e 0).toNat 8) (-1) 1
  let sat := flagIf ((upTo 1024).any fun e => decide ((trit e).2 ≠ 0#7)) flagSAT
  if f.mtype = 6#3 then
    ((upTo 256).map fun b => (ea.toNat + b, BitVec.ofNat 8
      ((upTo 4).foldl (fun a i => a + t2Enc (trit (4 * b + i)).1 * 4 ^ i) 0)), sat)
  else if f.mtype = 7#3 then
    ((upTo 205).map fun b => (ea.toNat + b, BitVec.ofNat 8
      ((upTo 5).foldl (fun a i => a + (if 1024 ≤ 5 * b + i then 0
        else match (trit (5 * b + i)).1 with | 0 => 0 | 1 => 1 | _ => 2) * 3 ^ i) 0)), sat)
  else
    let w := mwidth f.mtype.toNat
    ((upTo 1024).flatMap fun e =>
      let (r, o) := f.elemPos e
      let a := (ea + BitVec.ofNat 64 r * (if f.layout = 1#2 then pitch else 0)).toNat + o
      (upTo w).map fun i => (a + i, BitVec.ofNat 8 (memBitsOf f.mtype.toNat (v.getD e 0) / 256 ^ i)), 0)

/-- The bytes that a scatter writes, lowest lane first, so that the highest lane stands (R198). -/
def VM.scatterBytes (f : VM) (ea : W64) (idx v : VReg) : List (Nat × Byte) :=
  let w := mwidth f.mtype.toNat
  (upTo 1024).flatMap fun e =>
    (upTo w).map fun i => ((f.elemAddr ea idx e).toNat + i, BitVec.ofNat 8 (memBitsOf f.mtype.toNat (v.getD e 0) / 256 ^ i))

/-- The accumulator byte address of element (i, j) in VLDA and VSTA (R199). -/
def VM.accAddr (f : VM) (ea e : Nat) : Nat :=
  let row0 := ea / 512
  let col0 := ea % 512 / 4
  let i := e / 64
  let j := e % 64
  if f.layout = 0#2 then (row0 + i) * 512 + (col0 + j) * 4 else (row0 + j) * 512 + (col0 + i) * 4

/-- A row of VLDA or VSTA stays in its columns and lies in the window (R199). -/
def VM.accRowLegal (f : VM) (k : Ctx) (ea row : Nat) : Bool :=
  decide (ea % 512 / 4 ≤ (if f.layout = 0#2 then 64 else 112) ∧ k.accbase.toNat ≤ row * 512 ∧ (row + 1) * 512 ≤ k.acclim.toNat)

/-- The first byte of the lowest row of VLDA or VSTA that R199 refuses. -/
def VM.accBad (f : VM) (k : Ctx) (ea : Nat) : Option Nat :=
  ((upTo (if f.layout = 0#2 then 16 else 64)).find? fun i => !f.accRowLegal k ea (ea / 512 + i)).map fun i => ea + 512 * i

/-! ### Vector elements (R85, R169, R170) -/

/-- The width of an integer type. -/
def Machine.typeBits (t : Nat) : Nat :=
  match t with
  | 2 => 32
  | 3 => 16
  | 6 => 2
  | _ => 8

/-- A floating-point element of type F32 or BF16. -/
def Machine.elemF (t : Nat) (w : W32) : FVal := if t = 0 then vF32 w else vBF16 (field w 16 16)

/-- The format of a floating-point type. -/
def Machine.fmtOf (t : Nat) : Fmt := if t = 0 then f32 else bf16

/-- The container of a result of a floating-point type. -/
def Machine.putF (t bits : Nat) : W32 := if t = 0 then BitVec.ofNat 32 bits else BitVec.ofNat 32 (bits * 65536)

/-- An integer element: its value, signed for the I types, and its n-bit pattern (R85). -/
def Machine.elemI (t : Nat) (w : W32) : Int × Nat :=
  let u := w.toNat % 2 ^ typeBits t
  (if t = 5 then (u : Int) else sextInt u (typeBits t), u)

/-- The range of an integer type (R84). -/
def Machine.typeRange (t : Nat) : Int × Int :=
  if t = 5 then (0, 255) else (-(2 : Int) ^ (typeBits t - 1), 2 ^ (typeBits t - 1) - 1)

/-- The container of an integer result, wrapped or saturated (R93, R170). -/
def Machine.putI (t : Nat) (sat : Bool) (r : Int) : W32 × BitVec 7 :=
  let n := typeBits t
  let (lo, hi) := typeRange t
  let (v, fl) := if sat then satI r lo hi else (r, 0)
  (if t = 5 then BitVec.ofNat 32 (wrapNat v n) else BitVec.ofInt 32 (sextInt (wrapNat v n) n), fl)

/-- A floating-point source after FI, absolute value and negation (R58, R91). -/
def Machine.srcF (t : Nat) (fi absF negF : BitVec 1) (w : W32) : FVal :=
  let v := elemF t w
  let v := if fi = 1#1 then flushV v else v
  let v := if absF = 1#1 then v.abs else v
  if negF = 1#1 then v.negate else v

def VR.srcA (f : VR) (w : W32) : FVal := srcF f.type.toNat f.fi f.aa f.na w
def VR.srcB (f : VR) (w : W32) : FVal := srcF f.type.toNat f.fi f.ab f.nb w
def VR.srcC (f : VR) (w : W32) : FVal := srcF f.type.toNat f.fi f.ac f.nc w

/-- A floating-point result through fp_dest (R92). -/
def VR.dest (f : VR) (r : FVal × BitVec 7) : W32 × BitVec 7 :=
  let z := fpDest r (fmtOf f.type.toNat) (Rnd.ofCode f.rnd) f.scale f.clamp (decide (f.fo = 1#1))
  (putF f.type.toNat z.1, z.2)

/-- A lane-by-lane operation: each lane's result, and the union of the active lanes' flags (R94, R166). -/
def Machine.perLane (lanes : LaneMask) (g : Nat → W32 × BitVec 7) : VReg × BitVec 7 :=
  (Vector.ofFn fun i : Fin 1024 => if lanes.getLsbD i.val then (g i.val).1 else 0#32,
    (upTo 1024).foldl (fun a i => if lanes.getLsbD i then a ||| (g i).2 else a) 0#7)

/-! ### Copy commands (R254 to R258) -/

/-- L of a copy command (R254). -/
def Machine.copyLen (v : W64) : Nat := (field v 0 32).toNat
/-- Row count, source pitch and destination pitch of CP2D (R256). -/
def Machine.rowCount (v : W64) : Nat := (field v 0 16).toNat
def Machine.srcPitch (v : W64) : Nat := (field v 16 24).toNat
def Machine.dstPitch (v : W64) : Nat := (field v 40 24).toNat
/-- Entry mask and offset of CPMC and CPRS (R257, R258). -/
def Machine.peerSet (v : W64) : List Nat := bitsOf (field v 56 8) 8
def Machine.peerOffset (v : W64) : Nat := (field v 0 21).toNat

end Sys2Proof
end

