-- ==== Sys2Proof/Machine/Engine.lean ====
section
/-!
DEFINITION. What the engines share (spec/03 R25, R42 to R44; spec/11 R148; spec/19 R241 to R249; spec/25 R317): the engine
queues, the token ring, bank reservation, the sharing of the matrix array, translation through the device page table, posted
faults, and the completion of a command.
-/

namespace Sys2Proof.Machine

/-! ### Queues (R25, R248) -/

/-- The next and the previous queue of the ring (R248). -/
def nextQ (q : Nat) : Nat := (q + 1) % 4
def prevQ (q : Nat) : Nat := (q + 3) % 4

def Core.queue (k : Core) (q : Nat) : List Cmd := k.queues.getD q []

def Core.setQueue (k : Core) (q : Nat) (l : List Cmd) : Core := { k with queues := k.queues.setIfInBounds q l }

/-- All commands of a core, queue by queue. -/
def Core.cmds (k : Core) : List Cmd := k.queues.toList.flatten

def Core.cmd? (k : Core) (id : Nat) : Option Cmd := k.cmds.find? fun c => decide (c.id = id)

/-- The queue that holds a command. -/
def Core.queueOf (k : Core) (id : Nat) : Nat :=
  (((upTo 4).find? fun q => (k.queue q).any fun c => decide (c.id = id)).getD 0)

def State.modCmd (s : State) (core id : Nat) (f : Cmd → Cmd) : State :=
  s.modCore core fun k => { k with queues := k.queues.map fun l => l.map fun c => if c.id = id then f c else c }

def State.dropCmd (s : State) (core id : Nat) : State :=
  s.modCore core fun k => { k with queues := k.queues.map fun l => l.filter fun c => decide (c.id ≠ id) }

/-- The queue that an operation pushes into (R210, R253, R229). -/
def queueOfOp : Instr → Option Nat
  | .mxgo _ => some 1
  | .mxzero _ => some 1
  | .mxdrain _ => some 1
  | .mxnorm _ => some 1
  | .msbuild _ => some 1
  | .mxsmp _ => some 1
  | .mxwld _ => some 3
  | .mxwstrm _ => some 3
  | .cpin _ => some 0
  | .cpout _ => some 2
  | .cp2d f => some (if bitAt f.flags 2 then 2 else 0)
  | .cpmc _ => some 0
  | .cprs _ => some 0
  | _ => none

/-- The command is a copy (R253). -/
def Cmd.isCopy (c : Cmd) : Bool :=
  match c.op with
  | .cpin _ => true
  | .cpout _ => true
  | .cp2d _ => true
  | .cpmc _ => true
  | .cprs _ => true
  | _ => false

/-- The copy fields of a command (R62). -/
def Cmd.cc (c : Cmd) : CC :=
  match c.op with
  | .cpin f => f
  | .cpout f => f
  | .cp2d f => f
  | .cpmc f => f
  | .cprs f => f
  | _ => ⟨0, 0, 0, 0, 0, 0, 0, 0, 0, 0, 0, 0, 0⟩

/-- The matrix fields of a command (R61). -/
def Cmd.mc (c : Cmd) : MC :=
  match c.op with
  | .mxgo f => f
  | .mxzero f => f
  | .mxdrain f => f
  | .mxnorm f => f
  | .msbuild f => f
  | .mxsmp f => f
  | .mxwld f => f
  | .mxwstrm f => f
  | _ => ⟨0, 0, 0, 0, 0, 0, 0, 0, 0⟩

/-- A value read at issue (R210, R253). -/
def Cmd.val (c : Cmd) (i : Nat) : W64 := c.vals.getD i 0

/-- The head of a context's part of a queue: parked commands step aside (R244). -/
def Core.head? (k : Core) (q x : Nat) : Option Cmd :=
  (k.queue q).find? fun c => decide (c.x = x) && decide (c.state ≠ .parked)

/-- A queue is full for a push of context x, with `more` pushes into it accepted before this one (R25). -/
def Core.queueFull (k : Core) (q x more mine : Nat) : Bool :=
  decide (32 ≤ (k.queue q).length + more)
    || (decide (x = 1) && decide (8 ≤ ((k.queue q).filter fun c => decide (c.x = 1)).length + mine))

/-- No command of a context is in any queue (R38, R118). -/
def State.idleQueues (s : State) (core x : Nat) : Bool := (s.core core).cmds.all fun c => decide (c.x ≠ x)

/-- A command of the context whose guard is unresolved (R38). -/
def State.unresolvedGuard (s : State) (core x : Nat) (from' : Nat) : Bool :=
  (s.core core).cmds.any fun c => decide (c.x = x ∧ from' ≤ c.seq ∧ c.guard ≠ 0 ∧ c.sampled = none) && !c.cancelled
    && decide ((s.ctx core x).guard c.guard = .unresolved)

/-! ### Guards, tokens and banks (R116, R148, R248) -/

/-- What the guard of a command at its queue head says now: none while it is unresolved; false for DISCARD. -/
def Cmd.resolved (c : Cmd) (k : Ctx) : Option Bool :=
  if c.cancelled then some false
  else match c.sampled with
    | some b => some b
    | none =>
      if c.guard = 0 then some true
      else match k.guard c.guard with
        | .unresolved => none
        | .run => some true
        | .discard => some false

/-- The token waits of a command are met (R248). -/
def Cmd.tokensReady (c : Cmd) (k : Ctx) (q : Nat) : Bool :=
  (!c.wp || decide (k.inP.getD q 0 ≠ 0)) && (!c.wn || decide (k.inN.getD q 0 ≠ 0))

/-- The tokens that a command waits for are taken in one cycle (R248). -/
def Ctx.takeTokens (k : Ctx) (c : Cmd) (q : Nat) : Ctx :=
  { k with
    inP := if c.wp then k.inP.setIfInBounds q (k.inP.getD q 0 - 1) else k.inP
    inN := if c.wn then k.inN.setIfInBounds q (k.inN.getD q 0 - 1) else k.inN }

/-- A counter has room for one more signal, those of this cycle counted (R248). -/
def State.signalFits (s : State) (core x q : Nat) (fromPrev : Bool) : Bool :=
  let k := s.ctx core x
  let now := (if fromPrev then k.inP else k.inN).getD q 0
  decide (now.toNat + ((s.core core).signals.filter fun t => decide (t = (x, q, fromPrev))).length < 255)

def State.signal (s : State) (core x q : Nat) (fromPrev : Bool) : State :=
  s.modCore core fun k => { k with signals := k.signals ++ [(x, q, fromPrev)] }

/-- The signals of a cycle land at its end (R248). -/
def State.landSignals (s : State) (core : Nat) : State :=
  let l := (s.core core).signals
  let s1 := s.modCore core fun k => { k with signals := [] }
  l.foldl (fun s t => s.modCtx core t.1 fun k =>
    if t.2.2 then { k with inP := k.inP.setIfInBounds t.2.1 (k.inP.getD t.2.1 0 + 1) }
    else { k with inN := k.inN.setIfInBounds t.2.1 (k.inN.getD t.2.1 0 + 1) }) s1

/-! ### Posted faults (R317) -/

/-- The order of posted faults that arrive in one cycle: matrix, copy, cluster. -/
def Posted.rank (p : Posted) : Nat := if p.slot = 6 then 0 else if p.code = 13 then 2 else 1

/-- A posted fault put in its place in the arrival order. -/
def insertPosted (p : Posted) : List Posted → List Posted
  | [] => [p]
  | h :: r => if h.cycle = p.cycle ∧ p.rank < h.rank then p :: h :: r else h :: insertPosted p r

/-- An engine posts a fault to a context. -/
def State.postFault (s : State) (core x code slot : Nat) (tval : W64) : State :=
  s.modCtx core x fun k => { k with posted := insertPosted ⟨code, tval, slot, s.now⟩ k.posted }

/-! ### Completion of a command (R206, R248, R249, R252) -/

/-- The report of a command that ends in error: of a matrix command, ENGINE with its reason (R206, R229); of a copy, the
barrier's error or COPY (R252), and ENGINE for a rejection (R243). -/
def State.reportError (s : State) (core : Nat) (c : Cmd) : State :=
  if c.err = 0 then s
  else if c.isCopy then
    let nobar := bitAt c.cc.flags 0
    let tag := c.tok.toNat * 2 ^ 48
    let s1 := if c.err = 5 then s.postFault core c.x 0x0A 7 (BitVec.ofNat 64 (tag + 7)) else s
    if nobar then
      if c.err ≤ 3 then s1.postFault core c.x 0x0C 7 (BitVec.ofNat 64 (tag + c.err)) else s1
    else s1.barEvent core c.x (.error c.cc.bar.toNat c.err)
  else s.postFault core c.x 0x0A 6 (BitVec.ofNat 64 (c.errTag.toNat * 2 ^ 32 + c.err))

/-- A finished command signals what it still owes, as far as the counters have room; when nothing is left it reports its
error, releases its banks and leaves its queue (R248). -/
def State.complete (s : State) (core id : Nat) : State :=
  match (s.core core).cmd? id with
  | none => s
  | some c =>
    let q := (s.core core).queueOf id
    let okN := s.signalFits core c.x (nextQ q) true
    let s1 := if c.sn && okN then (s.signal core c.x (nextQ q) true).modCmd core id fun c => { c with sn := false } else s
    let okP := s1.signalFits core c.x (prevQ q) false
    let s2 := if c.sp && okP && (!c.sn || okN)
      then (s1.signal core c.x (prevQ q) false).modCmd core id fun c => { c with sp := false } else s1
    if (!c.sn || okN) && (!c.sp || okP) then
      let s3 := (s2.dropCmd core id).reportError core c
      if q = 1 then s3.modCore core fun k => { k with mxshareNow := k.mxshare } else s3
    else s2

/-- The work of a command is done; its signals may still wait (R248). -/
def State.finish (s : State) (core id : Nat) : State :=
  (s.modCmd core id fun c => { c with state := .finishing }).complete core id

/-! ### Clocks of the engines (R353, R357, R361) -/

/-- A cycle of an engine domain of a core begins now. -/
def State.engineTick (s : State) (core domain : Nat) : Bool := s.domainTick core domain && s.clusterOn core

/-- A cycle of an engine domain of a core ends with this reference cycle. -/
def State.engineLast (s : State) (core domain : Nat) : Bool := s.domainLast core domain && s.clusterOn core

/-! ### When the commands of a context are under way (R123, R324, R326) -/

/-- The contexts of a core take work: its cluster is on (R361, R362), and no reset is under way. -/
def State.takesWork (s : State) (core : Nat) : Bool := decide (s.powerOf (clusterOf core) = .on) && !s.resetting

/-- The matrix clock stands in the phase in which a unit stopped at that CYCLE, where its control cycles can meet it at all, so that what
the unit's commands still wait for comes at the same issue cycle as it would have come (R326, R356). -/
def State.inPhase (s : State) (core : Nat) : Option Nat → Bool
  | none => true
  | some c =>
    let d := (s.core core).divisor 2
    decide (s.cycleOf core % d = c % d) || !(upTo 64).any fun i => decide (i % (s.core core).divisor 0 = 0 ∧ i % d = c % d)

/-- A dispatched or restored unit begins to issue in this cycle (R300, R334). -/
def State.begins (s : State) (core x : Nat) : Bool :=
  let k := s.ctx core x
  match k.state with
  | .starting due => decide (due ≤ s.now ∧ (k.unit.map fun u => u.saved.isNone) = some true) && s.engineTick core 0 && s.takesWork core
      && s.inPhase core k.resume
  | _ => false

/-- The commands of the context make progress: its unit is resident (R324), halted or not (R123), from its first issue cycle on (R326). -/
def State.engineOn (s : State) (core x : Nat) : Bool :=
  let k := s.ctx core x
  k.unit.isSome && (decide (k.state = .running ∨ k.state = .halted) || s.begins core x)

/-! ### Sharing of the matrix array (R42 to R44) -/

/-- The sharing mode in effect: a new value counts from the next command boundary. The start of a command while one of the other context
runs or is stopped for it is none: the old mode lasts until Q1 runs nothing, or a command of it completes (log entry 36). -/
def Core.share (k : Core) : BitVec 1 :=
  if (k.queue 1).any fun c => decide (c.state = .running) then k.mxshareNow else k.mxshare

/-- A command of Q1 stands inside an iteration of its innermost loop, between an injected pass or sample and the end of
its interval. A reload belongs to no iteration: it stands still where the array changes hands (log entry 36). -/
def Cmd.midIteration (c : Cmd) : Bool :=
  decide (c.state = .running ∧ 0 < c.wait) && (match c.op with
    | .mxgo _ => decide (c.reload = 0 ∧ 0 < c.pos)
    | .mxsmp _ => decide (c.pos = 0 ∧ 0 < c.arrived ∧ (!c.checking ∨ 16 < c.wait))
    | _ => false)

/-- The array may serve context x now (R43, R44). -/
def State.mayRun (s : State) (core x : Nat) : Bool :=
  let k := s.core core
  let q := k.queue 1
  if k.share = 1#1 then decide (s.cycleOf core % 128 / 64 = x)
  else if x = 0 then !(q.any fun c => decide (c.x = 1) && c.midIteration)
  else (q.all fun c => decide (c.x = 1)) || (q.any fun c => decide (c.x = 1) && c.midIteration)

/-! ### Translation through the device page table (R242) -/

/-- The size of a page by its code (R82). -/
def pageSize (code : Nat) : Nat :=
  match code with
  | 0 => 4096
  | 1 => 65536
  | 2 => 2097152
  | _ => 67108864

/-- A table entry's reading at a level: the next table, or a page. -/
inductive WalkEntry where
  | bad
  | table (base : Nat)
  | page (m : PageMap)
  deriving DecidableEq, Repr

/-- An entry of the page table read at a level for va (R242); a non-leaf entry with another field set is bad, and ADDR of a leaf that is no
multiple of its page size is rounded down to one (log entry 36). -/
def readEntry (e level va : Nat) : WalkEntry :=
  let leaf := e / 2 ^ 62 % 2
  let pgsz := e / 2 ^ 60 % 4
  let home := e / 2 ^ 58 % 4
  let addr := e / 2 ^ 12 % 2 ^ 44 * 4096
  let peer := e / 16 % 256
  let comp := e / 4 % 2
  if e / 2 ^ 63 = 0 ∨ e / 2 ^ 56 % 4 ≠ 0 then .bad
  else if leaf = 0 then
    if level = 0 ∨ pgsz ≠ 0 ∨ home ≠ 0 ∨ e % 4096 ≠ 0 then .bad else .table addr
  else if 2 ≤ level ∨ (level = 1 ∧ pgsz < 2) ∨ (level = 0 ∧ 2 ≤ pgsz) ∨ (peer ≠ 0 ∧ home ≠ 3) ∨ (comp = 1 ∧ home ≠ 0) then
    .bad
  else
    let size := pageSize pgsz
    .page { vbase := va / size * size, size := size, home := home, pbase := addr / size * size, peer := peer,
            r := decide (e % 2 = 1), w := decide (e / 2 % 2 = 1), comp := decide (comp = 1) }

/-- The walk from a table at a level down (R242): entries are read as strong loads. -/
def State.walkFrom (s : State) (va : Nat) : (level : Nat) → (table : Nat) → Option PageMap
  | 0, table =>
    match readEntry (s.word .dev (table + va / 2 ^ 12 % 512 * 8) 8) 0 va with
    | .page m => some m
    | _ => none
  | l + 1, table =>
    match readEntry (s.word .dev (table + va / 2 ^ (12 + 9 * (l + 1)) % 512 * 8) 8) (l + 1) va with
    | .page m => some m
    | .table t => s.walkFrom va l t
    | .bad => none

/-- An entry that the walk reads lies in a pseudo-channel that is quiesced: the walk is held (R240). -/
def State.walkHeld (s : State) (va : Nat) : (level : Nat) → (table : Nat) → Bool
  | 0, table => s.quiesced (table + va / 2 ^ 12 % 512 * 8) 8
  | l + 1, table =>
    let a := table + va / 2 ^ (12 + 9 * (l + 1)) % 512 * 8
    s.quiesced a 8 || (match readEntry (s.word .dev a 8) (l + 1) va with
      | .table t => s.walkHeld va l t
      | _ => false)

/-- A page of device memory backs an entry of a live extent table: of a bound unit, or of a saved one (R293). -/
def State.pins (s : State) (m : PageMap) : Bool :=
  let hit (e : Extent) : Bool := decide (e.len ≠ 0 ∧ e.pbase < m.pbase + m.size ∧ m.pbase < e.pbase + e.len)
  decide (m.home = 0)
    && ((s.ctxs.any fun k => k.2.unit.isSome && k.2.extents.toList.any hit)
      || s.saves.any fun v => !v.final && v.ctx.extents.toList.any hit)

/-- The page that a virtual address lies in: as its pinned translation has it while one holds (R293), else as the tables name it; none
where it is not present (R242). -/
def State.pageOf (s : State) (va : Nat) : Option PageMap :=
  let v := va % 2 ^ 57
  match s.pages.find? fun m => decide (m.vbase ≤ v ∧ v < m.vbase + m.size) && s.pins m with
  | some m => some m
  | none =>
    match s.launch with
    | none => none
    | some c => if c.asroot = 0 then none else s.walkFrom v 4 c.asroot

/-- The translation of a virtual address needs a walk that is held (R240). -/
def State.pageHeld (s : State) (va : Nat) : Bool :=
  let v := va % 2 ^ 57
  !s.retiring.isEmpty && !(s.pages.any fun m => decide (m.vbase ≤ v ∧ v < m.vbase + m.size) && s.pins m)
    && (match s.launch with
      | none => false
      | some c => decide (c.asroot ≠ 0) && s.walkHeld v 4 c.asroot)

/-- The page as copies find it: one that migrates is not present to them once the wait of its migration has ended (R370). -/
def State.walk (s : State) (va : Nat) : Option PageMap :=
  match s.pageOf va with
  | none => none
  | some m => if s.migrating.any fun p => decide (p.1 = m.vbase) && p.2.2.isSome then none else some m

/-- Where a byte of a page lies (R241). -/
def PageMap.place (m : PageMap) (va : Nat) : Region × Nat :=
  let o := m.pbase + (va % 2 ^ 57 - m.vbase)
  match m.home with
  | 0 => (.dev, o)
  | 1 => (.host, o)
  | 2 => (.cxl, o)
  | _ => (.peer m.peer, o)

/-! ### Racing granules (R216, R255) -/

/-- Cells written one after another. -/
def Memory.putCells (m : Memory) (cells : List (Nat × Byte)) : Memory := cells.foldl (fun m c => Memory.put m c.1 c.2) m

/-- Cells become part of what some commands of a core take for settled: a change of them is no race for those (R147, R216, R255). -/
def State.overlay (s : State) (core : Nat) (p : Cmd → Bool) (cells : List (Nat × Byte)) : State :=
  let settle (c : Cmd) : Cmd := if p c then { c with old := Memory.putCells c.old cells } else c
  if (s.core core).cmds.any p then s.modCore core fun k => { k with queues := k.queues.map fun l => l.map settle } else s

/-- LOCAL bytes written by a command: a copy, which races with the stores of contexts alone, takes them as they are (R255). -/
def State.engineWrite (s : State) (core a : Nat) (bs : List Byte) : State :=
  (s.putBytes (.scratch core) a bs).overlay core Cmd.isCopy (cellRun (cellKey (.scratch core) a) bs)

/-- Bytes that reach a scratchpad through its network port: no command of the core races with them (R147, R216, R255). -/
def State.networkWrite (s : State) (r : Region) (a : Nat) (bs : List Byte) : State :=
  match r with
  | .scratch c => (s.putBytes r a bs).overlay c (fun _ => true) (cellRun (cellKey r a) bs)
  | _ => s.putBytes r a bs

/-- A run of LOCAL bytes as an engine reads it: a granule in a bank outside the mask that a racing access has changed since `old`
gives its old bytes or its new ones, by a free choice. -/
def State.raceRead (s : State) (core a n : Nat) (old : Memory) (mask : W32) (always : Bool) : List Byte :=
  (upTo n).map fun i =>
    let k := cellKey (.scratch core) (a + i)
    let g := (a + i) / 16
    let free := always || !mask.getLsbD ((a + i) / 64 % 32)
    if free && decide (s.mem.get k ≠ old.get k) && !Config.raceNew (s.freeN + g) then old.get k else s.mem.get k

/-- LOCAL bytes written by an engine command: a granule in a bank outside the mask that a store has changed since `old` ends
with one of the two values, by a free choice. What the command writes becomes part of its `old`: a later row of its own
stands (R225). -/
def State.raceWrite (s : State) (core id a : Nat) (bs : List Byte) (old : Memory) (mask : W32) : State :=
  let cells : List (Nat × Byte) := (upTo bs.length).filterMap fun i =>
    let g := (a + i) / 16
    let changed := (upTo 16).any fun j =>
      let c := cellKey (.scratch core) (16 * g + j)
      decide (s.mem.get c ≠ old.get c)
    if !mask.getLsbD ((a + i) / 64 % 32) && changed && !Config.raceNew (s.freeN + g) then none
    else some (cellKey (.scratch core) (a + i), bs.getD i 0#8)
  { s with
    mem := Memory.putCells s.mem cells
    freeN := s.freeN + a / 16 + bs.length / 16 + 2 }.overlay core (fun c => c.isCopy || decide (c.id = id)) cells

end Sys2Proof.Machine
end

