-- ==== Sys2Proof/Machine/MatrixCore.lean ====
section
/-!
DEFINITION. What the matrix engine computes and how its commands advance (spec/15 R201 to R217, spec/17 R226 to R236): the
loop nest, the passes of the three modes, reloads, rows of MXZERO, MXDRAIN and MXNORM, the alias table, samples and checks.
-/

namespace Sys2Proof.Machine

/-! ### The loop nest (R207, R208) -/

def Shadow.level (h : Shadow) (l : Nat) : Level := h.levels.getD l ⟨0, 1, 0, 0, 0⟩

/-- The number of passes. -/
def Shadow.total (h : Shadow) : Nat := (upTo 6).foldl (fun a l => a * (h.level l).count.toNat) 1

/-- Index i_l of pass p, level 0 innermost. -/
def Shadow.index (h : Shadow) (p l : Nat) : Nat :=
  p / ((upTo l).foldl (fun a j => a * (h.level j).count.toNat) 1) % (h.level l).count.toNat

/-- The exact sum of the indices times a signed stride, from level `from'` up. -/
def Shadow.strideSum (h : Shadow) (p from' : Nat) (f : Level → W32) : Int :=
  ((upTo 6).filter fun l => decide (from' ≤ l)).foldl (fun a l => a + (h.index p l : Int) * (f (h.level l)).toInt) 0

/-- The index vector's entry. -/
def Shadow.idxAt (h : Shadow) (i : Nat) : W32 := h.idx.getD i 0

/-- The operand address of pass p; none for the zero row of a negative index (R208). -/
def Shadow.operand (h : Shadow) (p : Nat) : Option Int :=
  if h.gather then
    let x := (h.idxAt (h.index p 0)).toInt
    if x < 0 then none
    else some ((h.abase.toNat : Int) + x * h.gpitch.toNat + h.strideSum p 1 Level.astr)
  else some ((h.abase.toNat : Int) + h.strideSum p 0 Level.astr)

/-- The weight address of pass p (R207). -/
def Shadow.weight (h : Shadow) (p : Nat) : W32 := BitVec.ofInt 32 ((h.wbase.toNat : Int) + h.strideSum p 0 Level.wstr)

/-- The accumulator row of pass p (R207). -/
def Shadow.accRow (h : Shadow) (p : Nat) : Nat := (((h.cbase.toNat : Int) + h.strideSum p 0 Level.cstr) / 512).toNat

/-- Bytes of an operand row (R202). -/
def Shadow.rowBytes (h : Shadow) : Nat := if h.act = 0#2 then 128 else if h.tern then 256 else 64

/-- A weight format pairs legally with AT and TERN (R202). -/
def Shadow.pairs (h : Shadow) (fmt : Nat) : Bool :=
  match h.act.toNat, h.tern with
  | 0, false => decide (fmt = 0)
  | 1, false => decide (fmt = 1)
  | 1, true => decide (fmt = 2 ∨ fmt = 3)
  | 2, true => decide (fmt = 2 ∨ fmt = 3)
  | _, _ => false

/-- Bytes of a tile (R203). -/
def tileBytes (fmt : Nat) : Nat :=
  match fmt with
  | 0 => 16384
  | 1 => 8192
  | 2 => 8192
  | _ => 6656

/-! ### Passes (R98 to R100, R201) -/

/-- INV and OVF, the flags that the matrix engine records of floating-point work (R95). -/
def engineFlags (f : BitVec 7) : BitVec 7 := f &&& (flagINV ||| flagOVF)

/-- Element i of a BF16 run, subnormals as zeros (R91). -/
def bf16At (bs : Array Byte) (o : Nat) : FVal :=
  flushV (vBF16 (BitVec.ofNat 16 ((bs.getD o 0#8).toNat + 256 * (bs.getD (o + 1) 0#8).toNat)))

/-- The chain of R98 for one column: an F32 encoding and flags. -/
def chainBF16 (row tile : Array Byte) (n : Nat) : Int × BitVec 7 :=
  let term (k : Nat) : FVal × BitVec 7 := mulV (bf16At row (2 * k)) (bf16At tile (256 * k + 2 * n))
  let first := rndF32 .rne (term 0)
  let r := (upTo 63).foldl (fun (a : W32 × BitVec 7) i =>
    let p := term (i + 1)
    let z := rndF32 .rne (addV .rne (vF32 a.1) p.1)
    (z.1, a.2 ||| p.2 ||| z.2)) first
  ((r.1.toNat : Int), engineFlags r.2)

/-- The exact sum of R99 for one column. -/
def sumI8 (row tile : Array Byte) (n : Nat) : Int × BitVec 7 :=
  ((upTo 64).foldl (fun a k => a + (row.getD k 0#8).toInt * (tile.getD (128 * k + n) 0#8).toInt) 0, 0)

/-- Trit (j, n) of a T2 or T5 tile (R203), with TCODE for an illegal T2 code. -/
def tileTrit (fmt : Nat) (tile : Array Byte) (j n : Nat) : Int × BitVec 7 :=
  if fmt = 2 then t2Dec ((tile.getD (128 * (j / 4) + n) 0#8).toNat / 4 ^ (j % 4) % 4)
  else (t5Trit (tile.getD (128 * (j / 5) + n) 0#8).toNat (j % 5), 0)

/-- The exact sum of R100 for one column. -/
def sumTern (fmt : Nat) (act : BitVec 2) (row tile : Array Byte) (n : Nat) : Int × BitVec 7 :=
  (upTo 256).foldl (fun (a : Int × BitVec 7) j =>
    let t := tileTrit fmt tile j n
    let x : Int := if act = 2#2 then ((row.getD j 0#8).toNat : Int) else (row.getD j 0#8).toInt
    (a.1 + t.1 * x, a.2 ||| t.2)) (0, 0)

/-- The sums of a pass over its NC columns, and its flags. -/
def passSums (h : Shadow) (t : Tile) (row : List Byte) : List Int × BitVec 7 :=
  let r := row.toArray
  let w := t.bytes.toArray
  let cols := (upTo (h.nc.toNat + 1)).map fun n =>
    if h.act = 0#2 then chainBF16 r w n
    else if h.tern then sumTern t.fmt h.act r w n
    else sumI8 r w n
  (cols.map (·.1), cols.foldl (fun a c => a ||| c.2) 0)

/-- One accumulator entry with a sum added (R98 to R100). -/
def accumulate (float : Bool) (old : Nat) (sum : Int) : Nat × BitVec 7 :=
  if float then
    let r := addF32 (BitVec.ofNat 32 old) (BitVec.ofNat 32 sum.toNat)
    (r.1.toNat, engineFlags r.2)
  else
    let r := satI32 (sextInt old 32 + sum)
    (wrapNat r.1 32, r.2)

/-- The bytes of a pass's accumulator row: as they stood at the start of its landing cycle, where it has begun (R213). -/
def State.landingRow (s : State) (core : Nat) (f : Flight) : List Byte := f.base.getD (s.bytes (.acc core) (512 * f.row) 512)

/-- A pass lands: each entry of its row takes its sum (R213), or a drained row is written in LOCAL (R214). The flags of a command that
still runs enter FPF6 with each of its landings, rows, samples, checks and output rows (log entry 36). -/
def State.landFlight (s : State) (core : Nat) (f : Flight) (old : Memory) (mask : W32) : State :=
  match f.store with
  | some (a, bs) =>
    let s1 := s.raceWrite core f.cmd a bs old mask
    s1.modCtx core f.x fun k => k.raise 6 f.flags f.ba
  | none =>
    let row := s.landingRow core f
    let outs := (upTo f.sums.length).map fun n => accumulate f.float (ofBytes ((row.drop (4 * n)).take 4)) (f.sums.getD n 0)
    let fl := outs.foldl (fun a o => a ||| o.2) f.flags
    let s1 := s.putBytes (.acc core) (512 * f.row) (outs.flatMap fun o => toBytes 4 o.1)
    s1.modCtx core f.x fun k => k.raise 6 fl f.ba

/-! ### Starting a command of Q1 or Q3 (R204, R205, R211, R217, R229) -/

/-- The cadence in matrix cycles (R212). -/
def State.interval (s : State) (core : Nat) (c : Cmd) : Nat := ceilDiv c.cad ((s.core core).divisor 2)

/-- Rows of MXZERO and MXDRAIN (R224, R225). -/
def Cmd.matrixRows (c : Cmd) : Nat :=
  match c.op with
  | .mxzero _ => (c.val 1).toNat
  | .mxdrain _ => (field (c.val 2) 32 13).toNat
  | _ => 0

/-- The number of 256-byte reads of a weight load (R214). -/
def Cmd.weightReads (c : Cmd) : Nat := ceilDiv (tileBytes (field c.mc.aux 0 3).toNat) 256

def Cmd.slotNumber (c : Cmd) : Nat := (c.val 0).toNat % 8

/-- The command has nothing more to inject, read or write. -/
def State.workDone (s : State) (core : Nat) (c : Cmd) : Bool :=
  match c.op with
  | .mxgo _ => decide (c.err ≠ 0 ∨ ((c.shadow.getD Shadow.reset).total ≤ c.pos))
  | .mxzero _ => decide (c.matrixRows ≤ c.pos)
  | .mxdrain _ => decide (c.matrixRows ≤ c.pos)
  | .mxwld _ => decide (c.weightReads ≤ c.pos)
  | .mxwstrm _ => decide (c.weightReads ≤ c.pos)
  | .mxnorm _ => decide (2 * ((s.ctx core c.x).sampler.sk.toNat) ≤ c.pos)
  | .msbuild _ => true
  | .mxsmp _ => decide (c.err ≠ 0 ∨ (s.ctx core c.x).sampler.sm.toNat < c.pos)
  | _ => true

/-- First actions of a command in its start cycle: counters, the cadence it latches, what it records, and the matrix errors
found at the start. -/
def State.startMatrix (s : State) (core : Nat) (c : Cmd) : State :=
  let cad := (s.core core).mxcad.toNat
  let run (w : Nat) : State := s.modCmd core c.id fun c =>
    { c with state := .running, wait := if c.cad = 0 then w else c.wait, cad := if c.cad = 0 then cad else c.cad, old := s.mem }
  let fail (r : Nat) : State := s.modCmd core c.id fun c => { c with state := .running, err := r, wait := 0 }
  match c.op with
  | .mxgo _ => run (if (c.shadow.getD Shadow.reset).total = 0 then 0 else 8)
  | .mxzero _ => run 0
  | .mxdrain _ => run (if c.matrixRows = 0 then 4 else 0)
  | .mxwld _ => run 0
  | .mxwstrm _ => run 0
  | .mxnorm _ =>
    (run 8).modCtx core c.x fun k => { k with sampler := { k.sampler with
      sk := field (c.val 2) 0 13, sm := field (c.val 2) 16 7, sn := field (c.val 2) 32 8,
      apb := field (c.val 0) 0 21, bpb := field (c.val 1) 0 21, built := false } }
  | .msbuild _ =>
    let n := (s.ctx core c.x).sampler.sk.toNat
    let s1 := s.modCtx core c.x fun k => { k with sampler := { k.sampler with built := false } }
    if n = 0 then s1.modCmd core c.id fun c => { c with state := .running, err := 8, wait := 0 }
    else s1.modCmd core c.id fun c => { c with state := .running, wait := 3 * n + 8 }
  | .mxsmp _ =>
    let k := s.ctx core c.x
    let sp := k.sampler
    if 0 < c.cad then run 8
    else if !sp.built then fail 6
    else if !k.inAcc ((c.val 0).toNat) (512 * sp.sm.toNat) then fail 5
    else
      let zero := decide (k.msz = 0#32)
      (s.modCmd core c.id fun c =>
        { c with state := .running, wait := 8, cad := cad, old := s.mem, pos := if zero then 1 else 0 }).modCtx core c.x fun k =>
          { k with
            tile := none
            sampler := { k.sampler with
              tile := List.replicate 8192 0#32, t := 0, x := field (c.val 1) 0 32,
              reason := if zero then 3 else 0, f := 0, v := 0 } }
  | _ => s

/-! ### Reloads (R203, R205) -/

/-- TCODE of a T5 tile's bytes, raised by a reload (R203). -/
def Tile.reloadFlags (t : Tile) : BitVec 7 :=
  if t.fmt = 3 then flagIf (t.bytes.any fun b => decide (243 ≤ b.toNat)) flagTCODE else 0

/-- The end of a reload: the slot's tile becomes resident and the slot empty (R205). -/
def State.installTile (s : State) (core x slot : Nat) (ba : W64) : State :=
  match (s.ctx core x).wslots.getD slot .empty with
  | .full t =>
    s.modCtx core x fun k => { (k.raise 6 t.reloadFlags ba) with
      tile := some t, wslots := k.wslots.setIfInBounds slot .empty }
  | _ => s

/-- The pass that a running MXGO is to inject next, and what stands in its way. -/
inductive PassStep where
  /-- the slot is empty: wait -/
  | wait
  /-- a reload begins -/
  | reload
  /-- a matrix error of R205 -/
  | error (reason : Nat)
  | inject
  deriving DecidableEq, Repr

/-- The decision of R205 for the next pass. -/
def Ctx.passStep (k : Ctx) (h : Shadow) (w : W32) : PassStep :=
  match k.tile with
  | some t => if t.tag = w then (if h.pairs t.fmt then .inject else .error 1) else slotStep
  | none => slotStep
where
  slotStep : PassStep :=
    match k.wslots.getD (w.toNat % 8) .empty with
    | .empty => .wait
    | .failed _ => .error 3
    | .full t => if t.tag ≠ w then .error 2 else if h.pairs t.fmt then .reload else .error 1

/-- A pass is injected: its operand row is read and its sums go on their way (R207, R212). -/
def State.injectPass (s : State) (core : Nat) (c : Cmd) (h : Shadow) (t : Tile) : State :=
  let row := match h.operand c.pos with
    | none => List.replicate h.rowBytes 0#8
    | some a => s.raceRead core a.toNat h.rowBytes c.old h.mask false
  let (sums, fl) := passSums h t row
  let fly : Flight := {
    x := c.x, cmd := c.id, ba := c.ba, left := 71, row := h.accRow c.pos, float := decide (h.act = 0#2), sums := sums,
    flags := fl, base := none, store := none }
  let s1 := { s with freeN := s.freeN + (match h.operand c.pos with | some a => a.toNat / 16 + 20 | none => 0) }
  (s1.modCore core fun k => { k with flights := k.flights ++ [fly] }).modCmd core c.id fun c =>
    { c with pos := c.pos + 1, wait := if c.pos + 1 = h.total then 0 else s.interval core c }

/-! ### Rows of MXDRAIN and MXNORM (R225, R230) -/

/-- A converted accumulator entry: its bytes and flags (R225). -/
def drainEntry (conv sh : Nat) (x : Nat) : List Byte × BitVec 7 :=
  match conv with
  | 1 =>
    let r := cvtF32BF16 .rne (BitVec.ofNat 32 x)
    (toBytes 2 r.1.toNat, engineFlags r.2)
  | 3 =>
    let v := sextInt x 32
    let q := rintFin .rne (decide (v < 0)) v.natAbs 1 (-(sh : Int))
    let r := satI q.1 (-128) 127
    (toBytes 1 (wrapNat r.1 8), r.2)
  | _ => (toBytes 4 x, 0)

/-- A row of MXDRAIN read, converted and put on its way. -/
def State.drainRow (s : State) (core : Nat) (c : Cmd) : State :=
  let nc := (field c.mc.aux 7 7).toNat + 1
  let conv := (field c.mc.aux 0 2).toNat
  let sh := (field c.mc.aux 2 5).toNat
  let base := cellKey (.acc core) ((c.val 0).toNat / 512 * 512 + 512 * c.pos)
  let es := (upTo nc).map fun n => drainEntry conv sh (ofBytes (s.memStart.run (base + 4 * n) 4))
  let pitch := (field (c.val 2) 45 19).toNat
  let fly : Flight := {
    x := c.x, cmd := c.id, ba := c.ba, left := 3, row := 0, float := false, sums := [],
    flags := es.foldl (fun a e => a ||| e.2) 0, base := none, store := some ((c.val 1).toNat + 16 * pitch * c.pos, es.flatMap (·.1)) }
  (s.modCore core fun k => { k with flights := k.flights ++ [fly] }).modCmd core c.id fun c =>
    { c with pos := c.pos + 1, wait := if c.pos + 1 = c.matrixRows then 5 else 1 }

/-- The norm of n BF16 elements: rne_f32(sqrt(s)) with s the chain of rounded squares (R230). -/
def normOf (bs : List Byte) (n : Nat) : W32 × BitVec 7 :=
  let a := bs.toArray
  let sq := (upTo n).foldl (fun (z : W32 × BitVec 7) i =>
    let e := bf16At a (2 * i)
    let p := mulV e e
    let r := rndF32 .rne (addV .rne (vF32 z.1) p.1)
    (r.1, z.2 ||| p.2 ||| r.2)) (0, 0)
  let r := rndF32 .rne (sqrtV (vF32 sq.1))
  (r.1, engineFlags (sq.2 ||| r.2))

/-- Entry k of a list whose missing entries read as zero, written; the others keep their values. -/
def setEntry (l : List W32) (k : Nat) (v : W32) : List W32 :=
  if k < l.length then l.set k v else l ++ List.replicate (k - l.length) 0 ++ [v]

/-- The next panel row of MXNORM: its first byte and its elements (R230). -/
def State.normPlace (s : State) (core : Nat) (c : Cmd) : Nat × Nat :=
  let sp := (s.ctx core c.x).sampler
  if c.pos % 2 = 0 then (sp.apb.toNat + 128 * (c.pos / 2), sp.sm.toNat) else (sp.bpb.toNat + 256 * (c.pos / 2), sp.sn.toNat)

/-- One panel row of MXNORM (R230). -/
def State.normRow (s : State) (core : Nat) (c : Cmd) : State :=
  let sp := (s.ctx core c.x).sampler
  let isA := decide (c.pos % 2 = 0)
  let (a, n) := s.normPlace core c
  let r := normOf (s.raceRead core a (2 * n) c.old c.banks false) n
  let last := decide (c.pos + 1 = 2 * sp.sk.toNat)
  (({ s with freeN := s.freeN + a / 16 + 20 }).modCtx core c.x fun k =>
    { (k.raise 6 r.2 c.ba) with sampler :=
        if isA then { k.sampler with na := setEntry k.sampler.na (c.pos / 2) r.1 }
        else { k.sampler with nb := setEntry k.sampler.nb (c.pos / 2) r.1 } }).modCmd
    core c.id fun c => { c with pos := c.pos + 1, wait := if last then 17 else 1 }

/-! ### The alias table (R231) -/

/-- The work of MSBUILD on its two lists: Q and ALIAS by entry. -/
def aliasLoop (fuel : Nat) (u : Array Nat) (q al : Array Nat) (small large : List Nat) : Array Nat × Array Nat :=
  match fuel with
  | 0 => (q, al)
  | n + 1 =>
    match small, large with
    | sm :: ss, lg :: ls =>
      let us := u.getD sm 0
      let ul := u.getD lg 0 - (2 ^ 24 - us)
      let u' := u.setIfInBounds lg ul
      let q' := q.setIfInBounds sm us
      let al' := al.setIfInBounds sm lg
      if ul < 2 ^ 24 then aliasLoop n u' q' al' (ss ++ [lg]) ls else aliasLoop n u' q' al' ss (ls ++ [lg])
    | rs, rl =>
      (rs ++ rl).foldl (fun (z : Array Nat × Array Nat) k => (z.1.setIfInBounds k 0xFFFFFF, z.2.setIfInBounds k k)) (q, al)

/-- Entry i of a sampler list; what was never written reads as zero. -/
def w32At (l : Array W32) (i : Nat) : W32 := l.getD i 0

/-- The first entries of a list replaced; the others keep their values. -/
def keepRest {α : Type} (new old : List α) : List α := new ++ old.drop new.length

/-- MSBUILD: the sampler state and MSZ that it leaves, its flags, and its error (R231). -/
def buildTable (sp : Sampler) (msz : W32) : Sampler × W32 × BitVec 7 × Nat :=
  let n := sp.sk.toNat
  let na := sp.na.toArray
  let nb := sp.nb.toArray
  let gs := (upTo n).map fun k => mulF32 (w32At na k) (w32At nb k)
  let g := (gs.map (·.1)).toArray
  let zf := (upTo (n - 1)).foldl (fun (a : W32 × BitVec 7) i =>
    let r := addF32 a.1 (w32At g (i + 1))
    (r.1, a.2 ||| r.2)) (w32At g 0, 0)
  let fl := engineFlags (gs.foldl (fun a e => a ||| e.2) zf.2)
  let sp1 := { sp with g := g.toList }
  match vF32 zf.1 with
  | .fin _ zn zd ze =>
    if zn = 0 then
      ({ sp1 with
        q := keepRest (List.replicate n 0xFFFFFF#24) sp.q, other := keepRest ((upTo n).map (BitVec.ofNat 12)) sp.other,
        built := true }, zf.1, fl, 0)
    else
      let u := ((upTo n).map fun k =>
        match vF32 (w32At g k) with
        | .fin _ gn gd ge => (rintFin .rne false (gn * n * 2 ^ 24 * zd) (gd * zn) (ge - ze)).1.toNat
        | _ => 0).toArray
      let small := (upTo n).filter fun k => decide (u.getD k 0 < 2 ^ 24)
      let large := (upTo n).filter fun k => decide (2 ^ 24 ≤ u.getD k 0)
      let r := aliasLoop (2 * n + 1) u (Array.replicate n 0) (Array.replicate n 0) small large
      ({ sp1 with
        q := keepRest (r.1.toList.map (BitVec.ofNat 24)) sp.q, other := keepRest (r.2.toList.map (BitVec.ofNat 12)) sp.other,
        built := true }, zf.1, fl, 0)
  | _ => (sp1, msz, fl, 4)

/-! ### Samples and checks (R233, R234) -/

/-- The generator xs of R233. -/
def xorshift (x : W32) : W32 :=
  let a := x ^^^ (x <<< 13)
  let b := a ^^^ (a >>> 17)
  b ^^^ (b <<< 5)

/-- The term that two generator outputs draw (R233). -/
def Sampler.draw (sp : Sampler) (x1 x2 : W32) : Nat :=
  let d := x1.toNat * sp.sk.toNat / 2 ^ 32
  if x2.toNat / 256 < (sp.q.getD d 0).toNat then d else (sp.other.getD d 0).toNat

/-- F32 value above zero. -/
def posF32 (w : W32) : Bool :=
  match vF32 w with
  | .inf n => !n
  | .fin n a _ _ => !n && decide (a ≠ 0)
  | .nan _ _ => false

/-- The partial tile with one reweighted outer product added (R233). -/
def Sampler.addTerm (sp : Sampler) (msz : W32) (k : Nat) (rowA rowB : List Byte) : Sampler × BitVec 7 :=
  let gk := sp.g.getD k 0
  if !posF32 gk then (sp, 0) else
  let wt := divF32 msz gk
  let a := rowA.toArray
  let b := rowB.toArray
  let old := sp.tile.toArray
  let cells := (upTo 8192).map fun q =>
    let i := q / 128
    let j := q % 128
    if i < sp.sm.toNat ∧ j < sp.sn.toNat then
      let p := mulV (bf16At a (2 * i)) (bf16At b (2 * j))
      let m := mulV (vF32 wt.1) p.1
      let t := rndF32 .rne m
      let r := addF32 (w32At old q) t.1
      (r.1, p.2 ||| t.2 ||| r.2)
    else (w32At old q, 0#7)
  ({ sp with tile := cells.map (·.1) }, engineFlags (cells.foldl (fun f c => f ||| c.2) wt.2))

/-- The pairwise tree of R184 with rne_f32 additions over a list whose length is a power of two. -/
def pairTree : (levels : Nat) → List (W32 × BitVec 7) → W32 × BitVec 7
  | 0, l => l.headD (0, 0)
  | n + 1, l => pairTree n (pairUp l)
where
  pairUp : List (W32 × BitVec 7) → List (W32 × BitVec 7)
    | a :: b :: r =>
      let z := addF32 a.1 b.1
      (z.1, a.2 ||| b.2 ||| z.2) :: pairUp r
    | l => l

/-- The count of samples as an F32 value's exact operand. -/
def divByCount (w : W32) (t : Nat) : W32 × BitVec 7 := rndF32 .rne (divV (vF32 w) (.fin false t 1 0))

/-- The check of R234: F, V and flags. -/
def Sampler.check (sp : Sampler) (msz : W32) : W32 × W32 × BitVec 7 :=
  let tile := sp.tile.toArray
  let xs := (upTo 8192).map fun q =>
    if q / 128 < sp.sm.toNat ∧ q % 128 < sp.sn.toNat then
      let c := divByCount (w32At tile q) sp.t
      let r := mulF32 c.1 c.1
      (r.1, c.2 ||| r.2)
    else (0#32, 0#7)
  let f := pairTree 13 xs
  let z2 := mulF32 msz msz
  let d := rndF32 .rne (subV .rne (vF32 z2.1) (vF32 f.1))
  let v := divByCount d.1 sp.t
  let neg := match vF32 v.1 with
    | .inf n => n
    | .fin n a _ _ => n && decide (a ≠ 0)
    | .nan _ _ => false
  (f.1, if neg then 0#32 else v.1, engineFlags (f.2 ||| z2.2 ||| d.2 ||| v.2))

/-- V ≤ rne_f32(τ² · F), false for a NaN, with the flags of the product; the comparison raises none (R233, R234). -/
def varianceMet (tau2 f v : W32) : Bool × BitVec 7 :=
  let r := mulF32 tau2 f
  let a := vF32 v
  let b := vF32 r.1
  (!a.isNan && !b.isNan && decide (cmpV a b ≠ .gt), engineFlags r.2)

/-- One output row of MXSMP (R233). -/
def State.sampleRow (s : State) (core : Nat) (c : Cmd) : State :=
  let sp := (s.ctx core c.x).sampler
  let i := c.pos - 1
  let tile := sp.tile.toArray
  let es := (upTo sp.sn.toNat).map fun j => if sp.reason = 3 then (0#32, 0#7) else divByCount (w32At tile (128 * i + j)) sp.t
  let a := ((c.val 0).toNat / 512 + i) * 512
  ((s.putBytes (.acc core) a (es.flatMap fun e => toBytes 4 e.1.toNat)).modCtx core c.x fun k =>
    k.raise 6 (engineFlags (es.foldl (fun f e => f ||| e.2) 0)) c.ba).modCmd core c.id fun c =>
      { c with pos := c.pos + 1, wait := 1 }

end Sys2Proof.Machine
end

