-- ==== Sys2Proof/Machine/CopyCore.lean ====
section
/-!
DEFINITION. What the copy engine moves (spec/19 R243, R244, R249, R252, R255 to R258): the blocks of a command, their
translation, their arrival with full bits and barrier credits, and the package fault queue (R245).
-/

namespace Sys2Proof.Machine

/-! ### The shape of a copy -/

/-- CPIN, CP2D in, CPMC and CPRS read the far side. -/
def Cmd.inward (c : Cmd) : Bool :=
  match c.op with
  | .cpout _ => false
  | .cp2d f => !bitAt f.flags 2
  | _ => true

/-- Row bytes, rows, far pitch and near pitch (R254, R256, R258): CPRS has one row per peer. -/
def Cmd.shape (c : Cmd) : Nat × Nat × Nat × Nat :=
  let l := copyLen (c.val 2)
  match c.op with
  | .cp2d _ =>
    let v := c.val 3
    if c.inward then (l, rowCount v, srcPitch v, dstPitch v) else (l, rowCount v, dstPitch v, srcPitch v)
  | .cprs _ => (l, (peerSet (c.val 1)).length, 0, l)
  | _ => (l, 1, 0, 0)

/-- Bytes that the command moves in all. -/
def Cmd.totalBytes (c : Cmd) : Nat := c.shape.1 * c.shape.2.1

/-- The far address of byte p of the sequence, and how far its row still runs. -/
def Cmd.farAt (c : Cmd) (p : Nat) : Nat × Nat :=
  let (l, _, fp, _) := c.shape
  let base := if c.inward then (c.val 1).toNat else (c.val 0).toNat
  (base + p / l * fp + p % l, l - p % l)

/-- The near LOCAL address of byte p. -/
def Cmd.nearAt (c : Cmd) (p : Nat) : Nat :=
  let (l, _, _, np) := c.shape
  let base := if c.inward then (c.val 0).toNat else (c.val 1).toNat
  base + p / l * np + p % l

/-- The far address is a POOL address (R254). -/
def Cmd.farPool (c : Cmd) : Bool := bitAt c.cc.flags 1

/-- The far side is translated: neither POOL nor a peer scratchpad. -/
def Cmd.translated (c : Cmd) : Bool := !c.farPool && (match c.op with | .cprs _ => false | _ => true)

/-- Bytes of the far span (R243, R256); a CP2D of no row, whose span the manual does not define, is checked as one of a row (log entry
36). -/
def Cmd.farSpan (c : Cmd) : Nat :=
  let (l, n, fp, _) := c.shape
  match c.op with
  | .cp2d _ => (n - 1) * fp + l
  | _ => l

/-- The length of the block that begins at byte p: up to the next 64-byte boundary of the far address (R249). -/
def Cmd.blockLen (c : Cmd) (far p : Nat) : Nat := min (64 - far % 64) (min (c.farAt p).2 (c.totalBytes - p))

/-- The peer and scratchpad address that byte p of a CPRS comes from (R258). -/
def Ctx.peerAt (k : Ctx) (c : Cmd) (p : Nat) : Nat × Nat :=
  let l := c.shape.1
  let e := k.peers.getD ((peerSet (c.val 1)).getD (p / l) 0) 0
  (peerCore e, peerFirst e + peerOffset (c.val 1) + p % l)

/-! ### Faults (R243 to R245) -/

/-- The right that the transfer needs (R244). -/
def PageMap.allows (m : PageMap) (inward : Bool) : Bool := if inward then m.r else m.w

/-- Bytes 8 to 15 of a fault-queue entry, less the NR bit: the tag of R245. -/
def faultTag (gen : W32) (core x : Nat) (src wr nr : Bool) (tok : BitVec 16) : W64 :=
  BitVec.ofNat 64 (gen.toNat * 2 ^ 32 + core * 2 ^ 24 + x * 2 ^ 23 + (if src then 2 ^ 22 else 0) + (if wr then 2 ^ 21 else 0)
    + (if nr then 2 ^ 20 else 0) + tok.toNat)

/-- The place of the next entry of the fault queue (R245). -/
def State.faultPlace (s : State) : Nat := (s.launch.map Launch.fqbase).getD 0 + s.fqprod.toNat % 4096 * 32

/-- The fault queue has room (R245), and no retirement holds the entry's write (R240). -/
def State.faultRoom (s : State) : Bool := decide (s.fqprod - s.fqcons ≠ 4096#32) && !s.quiesced s.faultPlace 32

/-- An entry of the fault queue written, FQPROD advanced and the management core told (R245). -/
def State.pushFault (s : State) (va : Nat) (tag taskid : W64) (f : OpenFault) : State :=
  let s1 := s.devPut s.faultPlace (toBytes 8 va ++ toBytes 8 tag.toNat ++ toBytes 8 taskid.toNat ++ toBytes 8 0)
  { s1 with fqprod := s1.fqprod + 1, openFaults := s1.openFaults ++ [f] }.notify (.fault s.fqprod.toNat)

/-- What a copy finds at its next byte: its page, a page fault (true: a right is missing), or neither where a retirement holds the walk
(R240). -/
def State.copyPage (s : State) (c : Cmd) : Option PageMap × Option Bool :=
  let far := (c.farAt c.pos).1
  let kept := match c.page with
    | some m => if m.vbase ≤ far % 2 ^ 57 ∧ far % 2 ^ 57 < m.vbase + m.size then some m else none
    | none => none
  match kept with
  | some m => (some m, none)
  | none =>
    if s.pageHeld far then (none, none)
    else match s.walk far with
    | none => (none, some false)
    | some m => if m.allows c.inward then (some m, none) else (none, some true)

/-- The far span is longer than the first byte's page (R243). -/
def Cmd.rejected (c : Cmd) (m : PageMap) : Bool := !c.spanTested && decide (m.size < c.farSpan)

/-- What a parked copy is once it waits to go on: stopped where it has moved bytes, and else not started. -/
def Cmd.unparked (c : Cmd) : CmdState := if c.pos = 0 then .waiting else .stopped

/-- Copies parked on a core: those of a context that is being saved have lost their slots (R244, R324). -/
def State.parked (s : State) (core : Nat) : Nat :=
  ((s.core core).cmds.filter fun c => decide (c.state = .parked) && (match (s.ctx core c.x).state with
    | .stopping _ _ _ => false
    | _ => true)).length

/-! ### Issue of blocks (R249) -/

/-- The next block of a running copy: its places, its length and the page it keeps; none where the copy has issued
everything or stands at a page fault. -/
def State.nextBlock (s : State) (core : Nat) (c : Cmd) : Option ((Region × Nat) × List (Region × Nat) × Nat × Option PageMap) :=
  if c.totalBytes ≤ c.pos then none else
  let far := (c.farAt c.pos).1
  let near : Region × Nat := (.scratch core, c.nearAt c.pos)
  let k := s.ctx core c.x
  match c.op with
  | .cprs _ =>
    let (pc, pa) := k.peerAt c c.pos
    some ((.scratch pc, pa), [near], c.blockLen pa c.pos, none)
  | _ =>
    let place : Option ((Region × Nat) × Option PageMap) :=
      if c.farPool then some ((.pool (far / 67108864), far % 67108864), none)
      else match s.copyPage c with
        | (some m, none) => some (m.place far, some m)
        | _ => none
    match place with
    | none => none
    | some (p, m) =>
      let n := c.blockLen far c.pos
      match c.op with
      | .cpmc _ =>
        let l := (peerSet (c.val 0)).map fun e =>
          let w := k.peers.getD e 0
          ((Region.scratch (peerCore w), peerFirst w + peerOffset (c.val 0) + c.pos) : Region × Nat)
        some (p, l, n, m)
      | _ => if c.inward then some (p, [near], n, m) else some (near, [p], n, m)

/-- A device whose link has failed, or that has no route (R369). -/
def State.linkDown (s : State) (r : Region) : Bool :=
  match r with
  | .peer n => match s.route n with
    | none => true
    | some p => s.failedLinks.contains p
  | _ => false

/-- A read of n bytes meets an uncorrectable memory error (R204, R252). -/
def State.badRun (s : State) (r : Region) (a n : Nat) : Bool := (upTo n).any fun i => Config.badRead s.now (cellKey r (a + i))

/-- The error that a block meets (R252): an uncorrectable read, or a link that is down. -/
def State.blockError (s : State) (b : CopyBlock) : Nat :=
  if s.badRun b.src.1 b.src.2 b.len then 1
  else if s.linkDown b.src.1 || b.dsts.any (fun d => s.linkDown d.1) then 3 else 0

/-- The blocks of the command land in their order (R257). -/
def Cmd.ordered (c : Cmd) : Bool :=
  match c.op with
  | .cpmc _ => true
  | _ => false

/-- The bytes of a block at its source: the far side by strong loads that see what its push released (R277, R278); LOCAL
granules old or new where a store of a context races (R255). -/
def State.blockBytes (s : State) (core : Nat) (c : Cmd) (b : CopyBlock) : List Byte :=
  match b.src.1 with
  | .scratch n => if n = core ∧ !c.inward then s.raceRead core b.src.2 b.len c.old c.banks true else s.bytes b.src.1 b.src.2 b.len
  | r => s.engineBytes core c r b.src.2 b.len

/-- A block whose source has been read sets out for its destinations once an open access time is over (R11, R12). -/
def State.readBlock (s : State) (core : Nat) (c : Cmd) (b : CopyBlock) : CopyBlock × State :=
  let from' := s.tileOf core b.src.1 b.src.2
  let (due, t) := s.carry (b.dsts.map fun d => (from', s.tileOf from' d.1 d.2)) (s.now + 1 + Config.delay (s.freeN + 1))
  ({ b with data := some (s.blockBytes core c b), err := s.blockError b, due := due },
    { t with freeN := s.freeN + b.src.2 / 16 + 20 })

/-- One block of a running copy issued: a LOCAL source is read at once, and another when the request has reached it; times are what
the manual leaves open beside the transits (R11, R12). -/
def State.issueBlock (s : State) (core id : Nat) : State :=
  match (s.core core).cmd? id with
  | none => s
  | some c =>
    if c.state ≠ .running ∨ c.err ≠ 0 ∨ c.cancelled then s else
    match s.nextBlock core c with
    | none => s
    | some (src, dsts, n, m) =>
      if !c.inward && !s.localArrived core c src.2 n then s else
      let b : CopyBlock := {
        id := s.seqN, cmd := id, x := c.x, src := src, dsts := dsts, len := n, due := s.now, data := none, err := 0 }
      let s1 := { s with seqN := s.seqN + 1 }
      let (blk, s2) := if c.inward then
          let (due, t) := s1.carry [(core, s1.tileOf core src.1 src.2)] s.now
          ({ b with due := due + 1 + Config.delay t.freeN }, { t with freeN := t.freeN + 1 })
        else s1.readBlock core c b
      (s2.modCore core fun k => { k with blocks := k.blocks ++ [blk] }).modCmd
        core id fun c => { c with pos := c.pos + n, page := m, spanTested := true }

/-- Each channel issues up to 128 bytes of its running command in a copy cycle (R249). -/
def State.issueBlocks (s : State) (core : Nat) : State :=
  if !s.engineTick core 3 then s else
  [0, 2].foldl (fun s q =>
    match ((s.core core).queue q).find? fun c => decide (c.state = .running) with
    | some c => (s.issueBlock core c.id).issueBlock core c.id
    | none => s) s

/-! ### Arrival of a block (R150, R252) -/

/-- Two blocks of one command write a byte in common: the later one is to stand (R256). -/
def CopyBlock.meets (b d : CopyBlock) : Bool :=
  b.dsts.any fun p => d.dsts.any fun q => runsMeet (p.1, p.2, b.len) (q.1, q.2, d.len)

/-- The port of a peer device's place (R369). -/
def State.portOf (s : State) (r : Region) : Option Nat :=
  match r with
  | .peer n => s.route n
  | _ => none

/-- Blocks of one device pair over one port: requests, and bytes that travel the same way (R369). -/
def State.samePath (s : State) (b d : CopyBlock) : Bool :=
  let far (z : CopyBlock) : List Region := (z.src :: z.dsts).map fun p => p.1
  (far b).any fun r => (far d).any fun q => decide (r = q) && (s.portOf r).isSome

/-- An earlier block goes before this one: of an ordered command, of one that writes the same bytes, or of the same path to a peer
device (R256, R257, R369). -/
def State.blockBehind (s : State) (core : Nat) (b : CopyBlock) : Bool :=
  let ordered := (((s.core core).cmd? b.cmd).map Cmd.ordered).getD false
  ((s.core core).blocks.any fun d => decide (d.cmd = b.cmd ∧ d.id < b.id) && decide (b.data.isSome ∨ d.data.isNone)
      && (ordered || d.meets b))
    || s.cores.any fun k => k.2.blocks.any fun d => decide (d.id < b.id) && s.samePath b d

/-- The places of a block's next action can take it now: its source, or with its bytes read its destinations. -/
def State.blockServed (s : State) (core : Nat) (b : CopyBlock) : Bool :=
  (match b.data with
    | none => s.servesRun core (b.src.1, b.src.2, b.len)
    | some _ => b.dsts.all fun d => s.servesRun core (d.1, d.2, b.len)) && !s.blockBehind core b

/-- The context of a core that is bound to a unit and whose window holds a scratchpad byte (R252). -/
def State.windowOwner (s : State) (core a : Nat) : Option Nat :=
  [0, 1].find? fun x =>
    let k := s.ctx core x
    k.unit.isSome && k.inWindow a 1

/-- Bytes credited to a barrier number, per context whose window holds them (R252). -/
def State.creditPeers (s : State) (core a n bar : Nat) : State :=
  [0, 1].foldl (fun s x =>
    let m := ((upTo n).filter fun i => decide (s.windowOwner core (a + i) = some x)).length
    if m = 0 then s else s.barEvent core x (.arrive bar m)) s

/-- A block's bytes written at one destination, with the full/empty update of R150: by the local port, or of CPMC by the network
port (R147). -/
def State.deliver (s : State) (core : Nat) (c : Cmd) (d : Region × Nat) (bs : List Byte) : State :=
  match d.1 with
  | .scratch n =>
    let g := granules d.2 bs.length
    (if c.ordered then s.networkWrite d.1 d.2 bs else s.engineWrite n d.2 bs).fillFull n g.1 g.2
  | r => (s.engineSettle core c r d.2 bs.length).write r d.2 bs

/-- The credit of a block's bytes (R252). -/
def State.credit (s : State) (core : Nat) (c : Cmd) (b : CopyBlock) : State :=
  if bitAt c.cc.flags 0 then s
  else match c.op with
    | .cpmc _ => b.dsts.foldl (fun s d => match d.1 with
      | .scratch n => s.creditPeers n d.2 b.len c.cc.bar.toNat
      | _ => s) s
    | _ => s.barEvent core c.x (.arrive c.cc.bar.toNat b.len)

/-- What the block wrote in POOL or DEVICE memory, kept for the acquiring wait (R279). -/
def State.noteCopied (s : State) (core : Nat) (c : Cmd) (b : CopyBlock) : State :=
  b.dsts.foldl (fun s d => if decide (d.1 = .dev) || (match d.1 with | .pool _ => true | _ => false)
    then s.modCtx core c.x fun k => { k with copied := k.copied ++ [{
      tok := c.tok, bar := if bitAt c.cc.flags 0 then none else some c.cc.bar.toNat, key := cellKey d.1 d.2, len := b.len,
      seq := c.seq, strand := c.strand, phased := false }] }
    else s) s

/-- The fault of a copy is withdrawn: a reply for it is dropped (R245, R264). -/
def State.withdrawFault (s : State) (core : Nat) (c : Cmd) : State :=
  { s with openFaults := s.openFaults.filter fun o => !decide (o.core = core ∧ o.x = c.x ∧ o.gen = c.gen ∧ o.token = some c.tok) }

/-- A copy in progress meets an error and is to complete with it; the first error stands (R252). -/
def State.failCopy (s : State) (core id code : Nat) : State :=
  match (s.core core).cmd? id with
  | none => s
  | some c =>
    (if c.state = .parked then s.withdrawFault core c else s).modCmd core id fun c =>
      { c with err := if c.err = 0 then code else c.err, state := if c.state = .parked then .running else c.state, faultTag := none }

/-- A block leaves the list. -/
def State.dropBlock (s : State) (core id : Nat) : State :=
  s.modCore core fun k => { k with blocks := k.blocks.filter fun d => decide (d.id ≠ id) }

/-- The bytes of a block arrive: they are written at every destination and credited, or their error ends the command (R252). -/
def State.landBlock (s : State) (core : Nat) (c : Cmd) (b : CopyBlock) (bs : List Byte) : State :=
  if b.err ≠ 0 then s.failCopy core c.id b.err
  else
    let s1 := b.dsts.foldl (fun s d => s.deliver core c d bs) s
    ((s1.credit core c b).noteCopied core c b).modCmd core c.id fun c => { c with arrived := c.arrived + b.len }

/-- The next action of a block whose time has come: its source is read, or its bytes arrive; the blocks of a command that has met an
error or is gone do neither. -/
def State.arriveBlock (s : State) (core : Nat) (b : CopyBlock) : State :=
  match (s.core core).cmd? b.cmd with
  | none => s.dropBlock core b.id
  | some c =>
    if c.err ≠ 0 then s.dropBlock core b.id
    else match b.data with
      | none =>
        let (d, s1) := s.readBlock core c b
        { s1.modCore core fun k => { k with blocks := k.blocks.map fun e => if e.id = b.id then d else e } with freeN := s1.freeN + 1 }
      | some bs => (s.dropBlock core b.id).landBlock core c b bs

/-- A running copy has nothing more to do: all its bytes have arrived, it has met an error, or its cancellation has let the last block
arrive that it had issued (R264). -/
def Core.copyDone (k : Core) (c : Cmd) : Bool :=
  decide (c.state = .running) && (decide (c.err ≠ 0) || c.cancelled || decide (c.totalBytes ≤ c.arrived))
    && !(k.blocks.any fun b => decide (b.cmd = c.id ∧ c.err = 0))

/-! ### Stopping (R217, R236, R259, R319) -/

/-- Matrix cycles that a stopped MXGO or MXSMP still waits, from the next one on that begins: a cycle of its own that has begun counts as
past, since the unit goes on in the same phase of the clock (R326). -/
def State.waitLeft (s : State) (core : Nat) (c : Cmd) (n : Nat) : Nat :=
  if c.turn ∧ (s.domainTime core 2 % (s.core core).divisor 2 ≠ 0 ∨ (s.core core).stretched.getLsbD 2) then n - 1 else n

/-- A command stopped for a save or a retention: it keeps its place, its tokens and its progress, and gives up its banks; a copy that
CPCAN has reached ends with its error all the same (R264). -/
def State.stopCmd (s : State) (core : Nat) (c : Cmd) : State :=
  let s0 := s.modCmd core c.id fun c => { c with banksHeld := false, turn := false }
  let again (s : State) : State := s.modCmd core c.id fun c => { c with state := .stopped, pos := 0, buf := [], badRead := false, cad := 0, wait := 0 }
  let unbuilt (s : State) : State := s.modCtx core c.x fun k => { k with sampler := { k.sampler with built := false } }
  if c.state ≠ .running then s0
  else match c.op with
    | .mxwld _ => again s0
    | .mxwstrm _ => again s0
    | .mxnorm _ => again (unbuilt s0)
    | .msbuild _ => again (unbuilt s0)
    | .mxgo _ =>
      let w := ((c.shadow.getD Shadow.reset).weight c.pos).toNat % 8
      let s1 := if c.reload = 0 then s0 else s0.installTile core c.x w c.ba
      let left := s.waitLeft core c (if c.reload = 0 then c.wait else c.reload)
      s1.modCmd core c.id fun c => { c with state := .stopped, wait := left, reload := 0 }
    | .mxsmp _ => s0.modCmd core c.id fun d => { d with state := .stopped, wait := s.waitLeft core c c.wait }
    | _ => s0.modCmd core c.id fun c => { c with state := .stopped, err := if c.isCopy ∧ c.cancelled ∧ c.err = 0 then 4 else c.err }

/-- Every command of a context stopped. -/
def State.stopCommands (s : State) (core x : Nat) : State :=
  ((s.core core).cmds.filter fun c => decide (c.x = x)).foldl (fun s c => s.stopCmd core c) s

/-- The commands of a context dropped, their faults withdrawn (R319). -/
def State.discardCommands (s : State) (core x : Nat) (gen : W32) : State :=
  { s.modCore core fun k => { k with queues := k.queues.map fun l => l.filter fun c => decide (c.x ≠ x) } with
    openFaults := s.openFaults.filter fun f => !decide (f.core = core ∧ f.x = x ∧ f.gen = gen) }

/-- A context that nothing of the engines still serves: no pass, row or block on its way (R324). -/
def Core.enginesQuiet (k : Core) (x : Nat) : Bool :=
  (k.flights.all fun f => decide (f.x ≠ x)) && k.blocks.all fun b => decide (b.x ≠ x)

end Sys2Proof.Machine
end

