-- ==== Sys2Proof/Machine/Save.lean ====
section
/-!
DEFINITION. The save area (spec/25 R323 to R334): the bytes of its sections, its place in the save region of the die, and
what a save holds. Parts that R328 and R331 name without a layout are laid out as log entry 22 says, or are an open function of what they
hold.
-/

namespace Sys2Proof.Machine

/-! ### Bytes of the sections -/

/-- A list cut or filled with zeros to n bytes. -/
def padTo (n : Nat) (bs : List Byte) : List Byte := bs.take n ++ List.replicate (n - bs.length) 0#8

/-- n bytes of a part of a save area, in a form that the manual leaves open, for what the part holds. -/
def openBytes (part n : Nat) (content : List Byte) : List Byte := (upTo n).map (Config.saveByte part content)

def word8 (v : W64) : List Byte := toBytes 8 v.toNat

/-- The smallest multiple of m at or above n. -/
def roundUp (n m : Nat) : Nat := ceilDiv n m * m

/-- The mark of a wait in a strand's record, a bit for each kind (log entry 22). -/
def Wait.code : Wait → Nat
  | .join _ => 1
  | .cb _ _ => 2
  | .count _ _ _ _ => 4
  | .all _ => 8
  | .bar _ _ _ _ => 16
  | .tok _ => 32
  | .block _ _ _ _ => 64
  | .store _ _ _ _ _ => 8
  | .tend _ => 128

def Wait.remainder : Wait → Nat
  | .bar _ _ _ (some t) => t
  | _ => 0

/-- The CSR image (R328). -/
def Ctx.csrImage (k : Ctx) : List Byte :=
  (k.fpf.toList.flatMap fun f => toBytes 8 f.toNat) ++ word8 k.ferec ++ word8 k.tvec ++ word8 k.tepc ++ word8 k.tcause
    ++ word8 k.tval ++ word8 k.issue ++ word8 k.taskid ++ toBytes 8 (if k.clkReq then 1 else 0)
    ++ toBytes 8 (if k.inhdl then 1 else 0) ++ toBytes 8 (if k.brcol then 1 else 0)
    ++ toBytes 8 k.mscnt.toNat ++ toBytes 8 k.msfro.toNat ++ toBytes 8 k.msvar.toNat ++ toBytes 8 k.msz.toNat

/-- The address at which a strand resumes: that of its completion wait, or its next bundle (R375). -/
def Strand.resumePc (t : Strand) : W64 := if t.waits = [] then t.pc else t.waitBa

/-- The 128 bytes of a strand (R328). -/
def Strand.image (t : Strand) : List Byte :=
  toBytes 1 t.slots.toNat ++ word8 t.resumePc ++ toBytes 1 (if t.kind = some true then 1 else 0) ++ toBytes 1 (t.waits.foldl (fun a w => a + w.code) 0)
    ++ toBytes 1 (t.joinMask.getD 0).toNat ++ toBytes 8 (t.waits.foldl (fun a w => a + w.remainder) 0)
    ++ t.loops.toList.flatMap fun l => word8 l.st ++ word8 l.ex ++ toBytes 4 l.lc.toNat ++ toBytes 4 l.pval.toNat
      ++ toBytes 1 (if l.active then 1 else 0) ++ toBytes 1 (if l.pend then 1 else 0) ++ toBytes 1 l.age

/-- The owner group of register i among the strands in slot order, for the partition bytes of R26. -/
def ownerOf (ts : List Strand) (own : Strand → Nat → Bool) (i : Nat) : Nat :=
  ((upTo ts.length).find? fun g => match ts[g]? with | some t => own t i | none => false).getD 0

/-- Bytes 32 to 63 of R26 for a partition among strands. -/
def partitionImage (strands : List Strand) : List Byte :=
  let ts := sortStrands strands
  let s := (upTo 63).foldl (fun a i => a + ownerOf ts (fun t j => t.sOwn.getLsbD j) (i + 1) * 4 ^ (i + 1)) 0
  let v := (upTo 32).foldl (fun a i => a + ownerOf ts (fun t j => t.vOwn.getLsbD j) i * 4 ^ i) 0
  let m := (upTo 7).foldl (fun a i => a + ownerOf ts (fun t j => t.mOwn.getLsbD j) (i + 1) * 4 ^ (i + 1)) 0
  let p := (upTo 7).foldl (fun a i => a + ownerOf ts (fun t j => t.pOwn.getLsbD j) (i + 1) * 4 ^ (i + 1)) 0
  toBytes 16 s ++ toBytes 8 v ++ toBytes 2 m ++ toBytes 2 p ++ toBytes 4 0

/-- The strands' 512 bytes (R328): with a handler running the stopped strands have no place of their own, and both are held in an open
form. -/
def Ctx.strandImage (k : Ctx) : List Byte :=
  let image (l : List Strand) : List Byte := (sortStrands l).flatMap Strand.image
  if k.stopped = [] then padTo 512 (image k.strands) else openBytes 0 512 (image k.strands ++ image k.stopped)

def boolByte (b : Bool) : Byte := if b then 1#8 else 0#8

def Repeat.image (r : Option Repeat) : List Byte :=
  match r with
  | none => [0#8]
  | some r => [1#8] ++ toBytes 4 r.strand ++ toBytes 4 r.count ++ toBytes 1 r.step.toNat ++ toBytes 4 r.index
      ++ (match r.target with
        | some (w, a, n) => [1#8] ++ word8 w ++ word8 a ++ toBytes 1 n
        | none => [0#8])

def Guard.code : Guard → Nat
  | .unresolved => 0
  | .run => 1
  | .discard => 2

def Posted.image (p : Posted) : List Byte := toBytes 1 p.code ++ word8 p.tval ++ toBytes 1 p.slot

/-- What the 256 bytes at 0x600 hold beside the partition (R328). -/
def Ctx.controlContent (k : Ctx) : List Byte :=
  partitionImage k.stopped ++ k.repeats.toList.flatMap Repeat.image ++ k.stoppedReps.toList.flatMap Repeat.image
    ++ (k.cqs.toList.flatMap fun q => toBytes 2 q.length ++ q.map boolByte)
    ++ toBytes 2 k.cb.toNat ++ (k.guards.toList.flatMap fun g => toBytes 1 g.code)
    ++ k.inP.toList ++ k.inN.toList ++ toBytes 2 k.newest.toNat ++ toBytes 2 k.posted.length ++ k.posted.flatMap Posted.image

/-- The 256 bytes at 0x600 (R328): the partition, and then the rest, which R317's 65 posted faults do not let stand byte for byte. -/
def Ctx.controlImage (k : Ctx) : List Byte := partitionImage k.strands ++ openBytes 1 224 k.controlContent

/-! ### The matrix section (R207, R209, R328) -/

/-- A level entry in the layout of R207. -/
def Level.image (v : Level) : List Byte :=
  toBytes 16 (v.astr.toNat + v.wstr.toNat * 2 ^ 32 + v.cstr.toNat * 2 ^ 64 + v.count.toNat * 2 ^ 96 + v.mark.toNat * 2 ^ 120)

/-- The 256 bytes of a shadow with a micro-PC and a latched cadence (log entry 22). -/
def Shadow.image (h : Shadow) (micro : List Nat) (cad : Nat) : List Byte :=
  padTo 256 ((h.levels.toList.flatMap Level.image) ++ word8 h.abase ++ word8 (zext64 h.wbase) ++ word8 h.cbase ++ word8 (zext64 h.mask)
    ++ word8 h.gpitch
    ++ toBytes 8 (h.act.toNat + (if h.tern then 4 else 0) + (if h.gather then 8 else 0) + h.nc.toNat * 2 ^ 8 + h.idx.length * 2 ^ 16)
    ++ (micro.flatMap fun i => toBytes 4 i) ++ toBytes 8 cad)

/-- The index vector. -/
def Shadow.idxImage (h : Shadow) : List Byte := h.idx.flatMap fun w => toBytes 4 w.toNat

/-- A tile or slot with its state, format and tag (log entry 22). -/
def tileImage (state fmt : Nat) (tag : W32) (bytes : List Byte) : List Byte :=
  padTo 256 (toBytes 4 tag.toNat ++ toBytes 1 fmt ++ toBytes 1 state) ++ padTo 16384 bytes

def Tile.image (t : Option Tile) : List Byte :=
  match t with
  | none => tileImage 0 0 0 []
  | some t => tileImage 1 t.fmt t.tag t.bytes

def WSlot.image : WSlot → List Byte
  | .empty => tileImage 0 0 0 []
  | .full t => tileImage 1 t.fmt t.tag t.bytes
  | .failed tag => tileImage 2 0 tag []

/-- The matrix section: the shadow and IDX, the resident tile and the eight slots, 154,112 bytes. -/
def Ctx.matrixImage (k : Ctx) : List Byte :=
  k.shadow.image [] 0 ++ padTo 4096 k.shadow.idxImage ++ Tile.image k.tile ++ k.wslots.toList.flatMap WSlot.image

/-- An extent entry in the layout of R145. -/
def Extent.image (e : Extent) : List Byte :=
  toBytes 32 ((if e.r then 1 else 0) + (if e.w then 2 else 0) + e.pbase * 2 ^ 64 + e.len * 2 ^ 128 + e.vbase * 2 ^ 192)

/-- The sampler section (R329). -/
def Ctx.samplerImage (k : Ctx) (check : Nat) : List Byte :=
  let s := k.sampler
  let words (n : Nat) (l : List W32) : List Byte := padTo (4 * n) (l.flatMap fun w => toBytes 4 w.toNat)
  let table := toBytes 18432 ((upTo 4096).foldr (fun i a =>
    (s.q.getD i 0).toNat + (s.other.getD i 0).toNat * 2 ^ 24 + a * 2 ^ 36) 0)
  words 4096 s.na ++ words 4096 s.nb ++ padTo 18432 table ++ List.replicate (0xC800 - 0x8000 - 18432) 0#8 ++ words 8192 s.tile
    ++ padTo 256 (toBytes 8 s.sk.toNat ++ toBytes 8 s.sm.toNat ++ toBytes 8 s.sn.toNat ++ toBytes 8 s.apb.toNat
      ++ toBytes 8 s.bpb.toNat ++ toBytes 8 (if s.built then 1 else 0) ++ toBytes 8 k.msz.toNat ++ toBytes 8 s.x.toNat
      ++ toBytes 8 s.t ++ toBytes 8 s.reason ++ toBytes 8 s.f.toNat ++ toBytes 8 s.v.toNat ++ toBytes 8 check)

/-- A pending-writeback entry (R330): its issue-order index is its place in the queue. -/
def Pending.image (p : Pending) (index : Nat) : List Byte :=
  let head (kind dest : Nat) : List Byte :=
    toBytes 16 (p.left + dest * 2 ^ 26 + kind * 2 ^ 32 + p.slot * 2 ^ 37 + index * 2 ^ 40 + p.flags.toNat * 2 ^ 57)
  match p.res with
  | .scalar n v => head 0 n ++ word8 v
  | .vector n l v => head 1 n ++ toBytes 128 l.toNat ++ v.toList.flatMap fun w => toBytes 4 w.toNat
  | .mask n l v => head 2 n ++ toBytes 128 l.toNat ++ toBytes 128 v.toNat
  | .queue n b => head 3 n ++ toBytes 8 (if b then 1 else 0)
  | .pattern n v => head 4 n ++ toBytes 16 v.toNat
  | .flagsOnly => []

def Ctx.pendImage (k : Ctx) : List Byte :=
  let l := k.pend.filter fun p => decide (p.res ≠ .flagsOnly)
  toBytes 8 l.length ++ (upTo l.length).flatMap fun i => match l[i]? with
    | some p => p.image i
    | none => []

/-- The state code of a queue entry (R331): a command whose work is done and whose tokens wait has stopped too. -/
def Cmd.stateCode (c : Cmd) (logged : Bool) : Nat :=
  match c.state with
  | .parked => if logged then 3 else 2
  | .waiting => 0
  | _ => 1

/-- Bits [63:24] of an entry's sixth word: CPL of a copy (R331), or the next row of an MXZERO or MXDRAIN (R217, R323; log entry 22). -/
def Cmd.progress (c : Cmd) : Nat :=
  match c.op with
  | .mxzero _ => c.pos
  | .mxdrain _ => c.pos
  | _ => if c.isCopy then c.arrived else 0

/-- An entry of the engine queue section (R331). -/
def Cmd.image (c : Cmd) (logged : Bool) : List Byte :=
  word8 c.word ++ ((upTo 4).flatMap fun i => word8 (c.val i))
    ++ toBytes 8 (c.progress * 2 ^ 24 + (if c.tokensTaken then 32 else 0) + (if c.sampled = some true then 16 else 0)
      + (if c.sampled.isSome then 8 else 0) + c.stateCode logged)
    ++ toBytes 8 (c.tok.toNat + ((c.faultTag.getD 0).toNat / 2 ^ 32) * 2 ^ 32) ++ toBytes 8 0
    ++ match c.shadow with
      | some h => h.image ((upTo 6).map (h.index c.pos)) c.cad ++ padTo (roundUp (4 * h.idx.length) 64) h.idxImage
      | none => []

def logged (k : Ctx) (c : Cmd) : Bool := k.replyLog.any fun r => decide (r.1 = c.tok)

def queueImage (k : Ctx) (qs : Vector (List Cmd) 4) : List Byte :=
  qs.toList.flatMap fun l => toBytes 8 l.length ++ l.flatMap fun c => c.image (logged k c)

/-- The fault-reply log (R333): 64 entries of 8 bytes. -/
def Ctx.logImage (k : Ctx) : List Byte :=
  padTo 512 (k.replyLog.flatMap fun r => toBytes 8 (r.1.toNat + if r.2 then 65536 else 0))

/-! ### What a save holds -/

/-- A byte of the window is covered by a discard entry (R126). -/
def Ctx.discarded (k : Ctx) (a : Nat) : Bool :=
  k.discards.toList.any fun d => decide (d.1.toNat ≤ a ∧ a < d.1.toNat + d.2.toNat)

/-- An accumulator row, counted from the window's first, is covered by a live entry (R126). -/
def Ctx.liveRow (k : Ctx) (row : Nat) : Bool :=
  k.lives.toList.any fun d => decide (d.1.toNat ≤ row ∧ row < d.1.toNat + d.2.toNat)

/-- The cells that the area of a context keeps: its window less the discarded bytes, the full/empty bit of every granule of the window,
and the live accumulator rows (R328). -/
def State.savedCells (s : State) (core : Nat) (k : Ctx) : Memory :=
  let sc := cellKey (.scratch core) 0
  let ac := cellKey (.acc core) 0
  let fe := cellKey (.fe core) 0
  s.mem.filter fun c =>
    (decide (sc + k.scrbase.toNat ≤ c.1 ∧ c.1 < sc + k.scrlim.toNat) && !k.discarded (c.1 - sc))
      || (decide (ac + k.accbase.toNat ≤ c.1 ∧ c.1 < ac + k.acclim.toNat) && k.liveRow ((c.1 - ac - k.accbase.toNat) / 512))
      || decide (fe + k.scrbase.toNat / 16 ≤ c.1 ∧ c.1 < fe + k.scrlim.toNat / 16)

/-- The lengths of the variable sections, in the order of SECT. -/
def sectionSizes (k : Ctx) (qs : Vector (List Cmd) 4) : List Nat :=
  let win := k.scrlim.toNat - k.scrbase.toNat
  [k.pendImage.length, (queueImage k qs).length, 512, win, ceilDiv (win / 16) 8, k.acclim.toNat - k.accbase.toNat]

/-- The (offset, length) pairs of SECT, from 0x5_F000 at 64-byte-aligned offsets. -/
def sectionOffsets : (at' : Nat) → List Nat → List (Nat × Nat)
  | _, [] => []
  | a, n :: r => (a, n) :: sectionOffsets (roundUp (a + n) 64) r

/-- The fixed sections of a save area (R328). -/
def fixedImage (final : Bool) (stop : Nat) (k : Ctx) (qs : Vector (List Cmd) 4) : List Byte :=
  let exposed := (k.strands ++ k.stopped).any fun t => decide (t.kind = some true)
  let flags := (if final then 1 else 0) + (if exposed then 2 else 0) + (if k.inhdl then 4 else 0)
  let check := ((qs.getD 1 []).find? fun c => match c.op with | .mxsmp _ => true | _ => false).map Cmd.wait
  padTo 256 (toBytes 4 0x5A534156 ++ toBytes 2 1 ++ toBytes 2 flags ++ toBytes 4 k.gen.toNat ++ toBytes 4 0
      ++ word8 k.taskid ++ toBytes 8 stop
      ++ (sectionOffsets 0x5F000 (sectionSizes k qs)).flatMap fun o => toBytes 4 o.1 ++ toBytes 4 o.2)
    ++ k.sregs.toList.flatMap word8
    ++ padTo 256 k.csrImage
    ++ k.strandImage
    ++ k.controlImage
    ++ (k.bars.toList.flatMap fun b => word8 b.word)
    ++ (k.extents.toList.flatMap Extent.image)
    ++ padTo 512 (k.peers.toList.flatMap word8 ++ (k.discards.toList.flatMap fun d => word8 d.1 ++ word8 d.2)
      ++ k.lives.toList.flatMap fun d => word8 d.1 ++ word8 d.2)
    ++ ((upTo 8).flatMap fun i => toBytes 128 (k.m i).toNat)
    ++ (k.pats.toList.flatMap fun p => toBytes 16 p.toNat)
    ++ padTo (0x4000 - 0x1080) (k.tables.toList.flatMap fun t => t.toList.flatMap fun w => toBytes 4 w.toNat)
    ++ (k.vregs.toList.flatMap fun v => v.toList.flatMap fun w => toBytes 4 w.toNat)
    ++ padTo (0x4A000 - 0x24000) k.matrixImage
    ++ padTo (0x5F000 - 0x4A000) (k.samplerImage (check.getD 0))

/-- A run of bytes as cells from key a. -/
def bytesAt : (a : Nat) → List Byte → List Host.Cell
  | _, [] => []
  | a, b :: r => if b = unlistedByte then bytesAt (a + 1) r else (a, b) :: bytesAt (a + 1) r

/-- The cells of a window moved to an offset. -/
def shiftCells (cells : List Host.Cell) (lo hi to' : Nat) : List Host.Cell :=
  (cells.filter fun c => decide (lo ≤ c.1 ∧ c.1 < hi)).map fun c => (c.1 - lo + to', c.2)

/-- The full/empty bits of a window, one bit per granule. -/
def fullImage (core : Nat) (k : Ctx) (cells : Memory) : List Byte :=
  let first := cellKey (.fe core) (k.scrbase.toNat / 16)
  let bits := cells.filter fun c => decide (first ≤ c.1)
  (upTo (ceilDiv ((k.scrlim.toNat - k.scrbase.toNat) / 16) 8)).map fun b =>
    BitVec.ofNat 8 ((upTo 8).foldl (fun a i => a + (if Memory.get bits (first + 8 * b + i) = 0#8 then 0 else 2 ^ i)) 0)

/-- The cells of a save area's image by offset: what is not listed is zero, or is not written (R328). -/
def areaCells (core : Nat) (final : Bool) (stop : Nat) (k : Ctx) (qs : Vector (List Cmd) 4) (cells : Memory) : List Host.Cell :=
  let offs := sectionOffsets 0x5F000 (sectionSizes k qs)
  let o (i : Nat) : Nat := (offs.getD i (0, 0)).1
  let window (r : Region) (lo hi : Nat) : List Host.Cell := shiftCells cells (cellKey r lo) (cellKey r hi) (o (if r = .scratch core then 3 else 5))
  bytesAt 0 (fixedImage final stop k qs) ++ bytesAt (o 0) k.pendImage ++ bytesAt (o 1) (queueImage k qs) ++ bytesAt (o 2) k.logImage
    ++ window (.scratch core) k.scrbase.toNat k.scrlim.toNat ++ bytesAt (o 4) (fullImage core k cells)
    ++ window (.acc core) k.accbase.toNat k.acclim.toNat

/-- A byte of the area that is not written: of the scratchpad section where it is discarded, of the accumulator section where its
row is not live (R126, R328). -/
def notWritten (k : Ctx) (qs : Vector (List Cmd) 4) (offset : Nat) : Bool :=
  let offs := sectionOffsets 0x5F000 (sectionSizes k qs)
  let sp := offs.getD 3 (0, 0)
  let ac := offs.getD 5 (0, 0)
  (decide (sp.1 ≤ offset ∧ offset < sp.1 + sp.2) && k.discarded (k.scrbase.toNat + (offset - sp.1)))
    || (decide (ac.1 ≤ offset ∧ offset < ac.1 + ac.2) && !k.liveRow ((offset - ac.1) / 512))

/-! ### Places in the save region (R327) -/

/-- The blocks of an area that hold anything have their flags evaluated again; the others fit (R247). -/
def State.recodeArea (s : State) (a n : Nat) : State :=
  let lo := cellKey .dev a
  let blocks := (s.mem.filter fun c => decide (lo ≤ c.1 ∧ c.1 < lo + n)).map fun c => (a + (c.1 - lo)) / 64
  let first := cellKey .bxr (a / 64)
  let s1 := { s with mem := s.mem.filter fun c => !decide (first ≤ c.1 ∧ c.1 < first + n / 64) }
  (blocks.foldr (fun b r => if r.head? = some b then r else b :: r) []).foldl (fun s b => s.recode (64 * b) 1) s1

/-- The image of an area of n bytes written into device memory at a. -/
def State.putArea (s : State) (a n core : Nat) (final : Bool) (stop : Nat) (k : Ctx) (qs : Vector (List Cmd) 4) (cells : Memory) :
    State :=
  let lo := cellKey .dev a
  let kept := s.mem.filter fun c => !decide (lo ≤ c.1 ∧ c.1 < lo + n) || notWritten k qs (c.1 - lo)
  let image := areaCells core final stop k qs cells
  { s with mem := image.foldl (fun (m : Memory) (c : Host.Cell) => m.put (lo + c.1) c.2) kept }.recodeArea a n

/-- The bytes that the area of a context takes. -/
def State.areaSize (s : State) (core x : Nat) : Nat :=
  let k := s.ctx core x
  let qs := (s.core core).queues.map fun l => l.filter fun c => decide (c.x = x)
  let last := (sectionOffsets 0x5F000 (sectionSizes k qs)).getLast?
  roundUp (match last with | some o => o.1 + o.2 | none => 0x5F000) 4096

/-- Places for an area of n bytes in the save region of a die: the region's base, or the end of an area (R327). -/
def State.savePlaces (s : State) (die n : Nat) : List Nat :=
  match s.launch.bind fun c => c.dies[die]? with
  | none => []
  | some d =>
    let taken := s.saves.map fun v => (v.addr, v.size)
    (d.svbase :: taken.map fun t => t.1 + t.2).filter fun a =>
      decide (d.svbase ≤ a ∧ a % 4096 = 0 ∧ a + n ≤ d.svbase + d.svsize)
        && taken.all fun t => decide (a + n ≤ t.1 ∨ t.1 + t.2 ≤ a)

/-- The save region has room for a context's area. -/
def State.saveRoom (s : State) (core x : Nat) : Bool := !(s.savePlaces (dieOf core) (s.areaSize core x)).isEmpty

/-- The place that the area of a context takes now, which the manual leaves to the scheduler (R327). -/
def State.savePlace (s : State) (core x : Nat) : Option Nat :=
  let places := s.savePlaces (dieOf core) (s.areaSize core x)
  places[Config.order s.freeN % places.length]?

/-- No retirement holds the writes of the area of a context (R240). -/
def State.areaServed (s : State) (core x : Nat) : Bool :=
  s.retiring.isEmpty || !((s.savePlace core x).any fun a => s.quiesced a (s.areaSize core x))

/-- A save area written for a context; its address, or 0 where there is no room (R319, R327). -/
def State.writeArea (s : State) (core x : Nat) (final : Bool) (stop : Nat) : State × Nat :=
  let k := s.ctx core x
  let qs := (s.core core).queues.map fun l => l.filter fun c => decide (c.x = x)
  let n := s.areaSize core x
  match s.savePlace core x with
  | none => (s, 0)
  | some a =>
    let cells := s.savedCells core k
    let v : Saved := { addr := a, size := n, core := core, x := x, final := final, stop := stop, ctx := k, cmds := qs, waiting := [], cells := cells }
    ({ s.putArea a n core final stop k qs cells with saves := s.saves ++ [v], freeN := s.freeN + 1 }, a)

end Sys2Proof.Machine
end

