-- ==== Sys2Proof/Machine/Writes.lean ====
section
/-!
DEFINITION. How loads, stores, atomics and fences in flight are performed at their place (spec/11 R150, R156, R158, R159; spec/13
R189, R200; spec/21 R266 to R272; spec/24 R314), and the writes of a unit that ends (R268, R319).
-/

namespace Sys2Proof.Machine

/-! ### The access and its unit -/

/-- The unit that issued the access is still bound. -/
def State.alive (s : State) (a : Access) : Bool :=
  let k := s.ctx a.core a.x
  decide (k.gen = a.gen ∧ k.state ≠ .held) && k.unit.isSome

/-- An access has its results; those of a unit that has ended are dropped. -/
def State.answer (s : State) (a : Access) (rs : List Result) (fl : BitVec 7) : State :=
  if s.alive a then s.performed a.id rs fl else s.dropAccess a.id

/-- The access lies in the scratchpad of a core, where nothing is held (R270). -/
def Region.isScratch : Region → Bool
  | .scratch _ => true
  | _ => false

/-- The granules of a run set full by an arrival through a network port (R150). -/
def State.arriveFull (s : State) (r : Region) (a n : Nat) : State :=
  match r with
  | .scratch c => s.fillFull c (granules a n).1 (granules a n).2
  | _ => s

/-! ### Loads (R155, R269, R271) -/

/-- The bytes that a scalar load or an atomic reads: of a scratchpad as they stand, of shared memory by the snapshot or by a
strong read. -/
def State.loadBytes (s : State) (a : Access) (r : Region) (n : Nat) (strong : Bool) : List Byte :=
  if r.isScratch then s.bytes r a.addr n
  else if strong then s.strongBytes a.core a.x a.cls (cellKey r a.addr) n
  else s.plainBytes a.core a.x a.ac (cellKey r a.addr) n

/-- A strong read replaces the snapshot's bytes; an acquire takes a full snapshot first (R269). -/
def State.afterRead (s : State) (a : Access) (r : Region) (bs : List Byte) (strong acq : Bool) : State :=
  let s1 := s.asked bs.length
  let s2 := if acq && s1.alive a then s1.snapshot a.core a.x else s1
  if strong && !r.isScratch then s2.note a.core a.x a.gen (cellKey r a.addr) bs else s2

/-- A scalar load (R156). -/
def State.performLoad (s : State) (a : Access) (r : Region) (n d : Nat) : State :=
  let strong := decide (a.ord ≠ 0)
  let bs := s.loadBytes a r n strong
  (s.afterRead a r bs strong (decide (a.ord = 1))).answer a [.scalar d (BitVec.ofNat 64 (ofBytes bs))] 0

/-! ### Stores (R267, R271) -/

/-- A plain store is accepted: its bytes are held for its unit, or visible at once where the unit has ended (R267, R268). -/
def State.hold (s : State) (a : Access) (cells : List (Nat × Byte)) : State :=
  if s.alive a then
    { s with held := s.held ++ cells.map fun c =>
        { core := a.core, x := a.x, gen := a.gen, seq := a.seq, strand := a.strand, ac := a.ac, key := c.1, byte := c.2 } }
  else cells.foldl (fun s c => s.write (keyPlace c.1).1 (keyPlace c.1).2 [c.2]) s

/-- A strong write: the unit's own earlier held bytes take their place before it, then it is performed (R271, R272). -/
def State.strongWrite (s : State) (a : Access) (r : Region) (bs : List Byte) : State :=
  if r.isScratch then (s.networkWrite r a.addr bs).arriveFull r a.addr bs.length
  else ((s.settle a.core a.x a.gen a.seq a.cls r a.addr bs.length).write r a.addr bs).note a.core a.x a.gen (cellKey r a.addr) bs

/-- A release publishes every earlier held store of its unit (R268, R272). -/
def State.releaseBefore (s : State) (a : Access) (rel : Bool) : State :=
  if rel then s.publish a.core a.x a.gen a.seq else s

/-- A scalar store (R156). -/
def State.performStore (s : State) (a : Access) (r : Region) (bs : List Byte) : State :=
  let s1 := s.releaseBefore a (decide (a.ord = 2))
  let s2 := if a.ord = 0 && !r.isScratch then s1.hold a (cellRun (cellKey r a.addr) bs) else s1.strongWrite a r bs
  s2.dropAccess a.id

/-! ### Atomics (R158, R159) -/

/-- The new value of an atomic of function fn on n bytes: what it writes, none for a failed AMOCAS, and its flags (R158). -/
def amoValue (fn n old x w : Nat) : Option Nat × BitVec 7 :=
  let b := 8 * n
  let m := 2 ^ b
  let o := old % m
  let v := x % m
  match fn with
  | 0 => (some ((o + v) % m), 0)
  | 1 => (some (o &&& v), 0)
  | 2 => (some (o ||| v), 0)
  | 3 => (some (o ^^^ v), 0)
  | 4 => (some (if sextInt v b < sextInt o b then v else o), 0)
  | 5 => (some (if sextInt o b < sextInt v b then v else o), 0)
  | 6 => (some (min o v), 0)
  | 7 => (some (max o v), 0)
  | 8 => (some v, 0)
  | 9 => (if o = v then some (w % m) else none, 0)
  | _ =>
    let r := addF32 (BitVec.ofNat 32 o) (BitVec.ofNat 32 v)
    (some r.1.toNat, r.2)

/-- An atomic outside LOCAL and ACC; the flags of one to s0 are raised here. -/
def State.performAmo (s : State) (a : Access) (r : Region) (fn n : Nat) (v w : W64) (d : Nat) : State :=
  let bs := s.loadBytes a r n true
  let old := ofBytes bs
  let z := amoValue fn n old v.toNat w.toNat
  let s1 := s.afterRead a r bs true (decide (a.ord = 1 ∨ a.ord = 4))
  let s2 := match z.1 with
    | some y => (s1.releaseBefore a (decide (a.ord = 2 ∨ a.ord = 4))).strongWrite a r (toBytes n y)
    | none => s1
  if d = 0 then
    ((if s2.alive a then s2.modCtx a.core a.x fun k => k.raise a.slot z.2 a.ba else s2)).answer a [.scalar 0 0] 0
  else s2.answer a [.scalar d (BitVec.ofNat 64 old)] z.2

/-! ### Vector stores (R190, R200) -/

/-- Cells written one after another. -/
def State.putCells (s : State) (l : List (Nat × Byte)) : State :=
  { s with mem := Memory.putCells s.mem l }

/-- A cell of a scratchpad as its core and its byte. -/
def scratchOf (key : Nat) : Nat × Nat := (key / 18446744073709551616 - 256, key % 18446744073709551616)

/-- The cells of vector stores in the scratchpads of the cores that they name, each granule set full (R150, R200). -/
def State.landCells (s : State) (cells : List (Nat × Byte)) : State :=
  cells.foldl (fun s c =>
    let p := scratchOf c.1
    (s.networkWrite (.scratch p.1) p.2 [c.2]).fillFull p.1 (p.2 / 16) 1) s

/-- A vector store: into scratchpads with their full bits, or held (R150, R200, R267). -/
def State.performVstore (s : State) (a : Access) (r : Region) (cells : List (Nat × Byte)) : State :=
  (if r.isScratch then s.landCells cells else s.hold a cells).dropAccess a.id

/-! ### Fences (R118, R268, R272) -/

def State.performFence (s : State) (a : Access) (acq rel : Bool) : State :=
  let s1 := s.releaseBefore a rel
  let s2 := if acq && s1.alive a then s1.snapshot a.core a.x else s1
  s2.dropAccess a.id

/-! ### JCADD (R314) -/

/-- JCADD: an acquire-release on the word; it leaves the word where DONE is set or the sum would not fit (R314). -/
def State.performJcadd (s : State) (a : Access) (r : Region) (n d : Nat) : State :=
  let bs := s.loadBytes a r 8 true
  let w := ofBytes bs
  let sum := w % 2 ^ 32 + n
  let s1 := s.afterRead a r bs true true
  let s2 := if w / 2 ^ 34 % 2 = 1 ∨ 2 ^ 32 ≤ sum ∨ n = 0 then s1
    else (s1.releaseBefore a true).strongWrite a r (toBytes 8 (w / 2 ^ 32 * 2 ^ 32 + sum))
  s2.answer a [.scalar d (BitVec.ofNat 64 w)] 0

/-! ### The writes of a unit that ends (R268, R319) -/

/-- A write of a unit performed at its place. -/
def State.performWrite (s : State) (a : Access) : State :=
  match a.kind, a.place with
  | .store bs, some r => s.performStore a r bs
  | .amo fn n v w d, some r => s.performAmo a r fn n v w d
  | .vstore cells _, some r => s.performVstore a r cells
  | .jcadd _ n d, some r => s.performJcadd a r n d
  | _, _ => s

/-- A unit ends: its writes on their way are performed, in context order, where their places serve them; its other accesses are
dropped, and of its writes only those stay under way that no place serves or that take several steps. -/
def State.endAccesses (s : State) (core x : Nat) (gen : W32) : State :=
  let mine (a : Access) : Bool := decide (a.core = core ∧ a.x = x ∧ a.gen = gen)
  let served (a : Access) : Bool := !a.runs.isEmpty && a.runs.all (s.servesRun a.core)
  let writing (a : Access) : Bool := mine a && a.writes && !a.done && (match a.kind with
    | .mbrecv _ _ _ _ _ => false
    | _ => true)
  let s1 := (s.accs.filter fun a => writing a && served a).foldl State.performWrite s
  { s1 with accs := s1.accs.filter fun a => !mine a || writing a }

end Sys2Proof.Machine
end

