-- ==== Sys2Proof/Machine/Sched.lean ====
section
/-!
DEFINITION. Work units and the scheduler's own operations (spec/23 R283 to R305, spec/25 R319 to R322): records, ready queues,
join-counter decrements, block ends, fault records, clock-mode requests, and the end of a unit under KILL.
-/

namespace Sys2Proof.Machine

/-! ### Fields of a unit (R284, R288) -/

def WorkUnit.prio (u : WorkUnit) : Nat := (field u.ctl 32 2).toNat
def WorkUnit.aff (u : WorkUnit) : Bool := bitAt u.ctl 34
def WorkUnit.handler (u : WorkUnit) : Bool := bitAt u.ctl 35
def WorkUnit.pwsel (u : WorkUnit) : Nat := (field u.ctl 36 4).toNat
def WorkUnit.jv (u : WorkUnit) : Bool := bitAt u.ctl 30
def WorkUnit.jaddr (u : WorkUnit) : Nat := (field u.ctl 0 28).toNat
/-- SCALAR units run in either context; TENSOR units and steps in context 0 alone (R299). -/
def WorkUnit.scalar (u : WorkUnit) : Bool := bitAt u.ctl 31 && !u.isStep

/-- The effective priority e (R298). -/
def WorkUnit.eff (u : WorkUnit) (now : Nat) : Nat := u.prio - (now - u.wSince) / 65536

/-- A unit built from the 64 bytes of a record, not yet given its TASKID (R283). -/
def unitOfRecord (bs : List Byte) : WorkUnit :=
  let w (i : Nat) : W64 := BitVec.ofNat 64 (ofBytes ((bs.drop (8 * i)).take 8))
  { taskid := 0, isStep := false, first := false, code := w 0, frame := w 1, ctl := w 2, arg := w 3,
    rngs := [w 4, w 5, w 6, w 7], block := 0, stepNo := 0, levels := [], tiles := [], blockVa := 0, saved := none,
    home := (0, 0), ahead := false, hasRun := false, wSince := 0, stamp := 0, relWord := 0 }

/-- A range word is well formed (R285). -/
def rangeOk (r : W64) : Bool :=
  let npg := (field r 49 15).toNat
  let vpn := (field r 0 45).toNat
  if npg = 0 then decide (r = 0#64) else decide (vpn * 4096 % pageSize (field r 45 2).toNat = 0)

/-- A record is well formed (R285). -/
def recordOk (bs : List Byte) : Bool :=
  let u := unitOfRecord bs
  decide (u.code.toNat % 8 = 0 ∧ field u.ctl 40 24 = 0#24 ∧ field u.ctl 28 2 = 0#2 ∧ u.jaddr % 8 = 0 ∧ (u.jv ∨ u.jaddr = 0))
    && u.rngs.all rangeOk

/-- The next TASKID of a record created on a die (R286). -/
def State.newTaskid (s : State) (die : Nat) : W64 × State :=
  let q := s.recSeq.getD die 0
  (BitVec.ofNat 64 (die * 2 ^ 48 + q.toNat), { s with recSeq := s.recSeq.setIfInBounds die (q + 1) })

/-! ### Ready queues (R297) -/

/-- The die's record of the launch configuration. -/
def State.dieConfig? (s : State) (die : Nat) : Option DieConfig := s.launch.bind fun c => c.dies[die]?

/-- A push to the core finds a place, on chip or in the spill ring of its die (R297). -/
def State.pushRoom (s : State) (core : Nat) : Bool :=
  decide ((s.core core).ready.length < 64)
    || decide ((s.spills.filter fun e => decide (e.1 = dieOf core)).length < ((s.dieConfig? (dieOf core)).map DieConfig.spcap).getD 0)

/-- A unit enters a core's queue: on chip, or spilled where 64 stand there already (R297). -/
def State.pushUnit (s : State) (core : Nat) (u : WorkUnit) : State :=
  let u := { u with stamp := s.now }
  if (s.core core).ready.length < 64 then s.modCore core fun k => { k with ready := k.ready ++ [u] }
  else { s with spills := s.spills ++ [(dieOf core, core, u)] }

/-- A unit sets out over the mesh for the queue of a core (R11, R302, R305, R307). -/
def State.sendUnit (s : State) (src target : Nat) (u : WorkUnit) : State :=
  let (due, t) := s.carry [(src, target)] s.now
  { t with transits := t.transits ++ [{ id := s.seqN, unit := u, core := target, due := due }], seqN := s.seqN + 1 }

/-! ### Join counters (R303 to R305) -/

/-- The place of a POOL address (R140). -/
def poolPlace (a : Nat) : Region × Nat := (.pool (a / 67108864), a % 67108864)

/-- A decrement of a counter sets out from a core, or from a walker, whose place the manual leaves open (R304, R11, R12). -/
def State.sendDecrement (s : State) (src : Option Nat) (addr : Nat) (f k : Bool) : State :=
  let (due, t) := s.carry (src.toList.map fun c => (c, s.tileOf c (poolPlace addr).1 (poolPlace addr).2)) s.now
  { t with
    decs := t.decs ++ [{ id := s.seqN, addr := addr, f := f, k := k, due := due + 1 + Config.delay t.freeN }]
    seqN := s.seqN + 1
    freeN := t.freeN + 1 }

/-- A continuation of a die's store is released to its core (R305), from the corner by which the core reaches the die's units (R12); the
word is what TSTAT returns there. -/
def State.release (s : State) (die index : Nat) (word : W64) : State :=
  match s.conts.find? fun c => decide (c.die = die ∧ c.index = index) with
  | none => s
  | some c =>
    let s1 := { s with conts := s.conts.filter fun d => !decide (d.die = die ∧ d.index = index) }
    s1.sendUnit (nearestCorner c.core die) c.core { c.unit with relWord := word, wSince := s.now }

/-- The decrement performed by the bank unit (R304). -/
def State.decrement (s : State) (addr : Nat) (f k : Bool) : State :=
  let (r, a) := poolPlace addr
  let w := s.word r a 8
  let count := w % 2 ^ 32
  if w / 2 ^ 34 % 2 = 1 ∨ count = 0 then s.notify (.joinDone addr (BitVec.ofNat 64 w))
  else
    let fl := (if f ∨ w / 2 ^ 32 % 2 = 1 then 2 ^ 32 else 0) + (if k ∨ w / 2 ^ 33 % 2 = 1 then 2 ^ 33 else 0)
    let done := if count = 1 then 2 ^ 34 else 0
    let w' := w / 2 ^ 35 * 2 ^ 35 + done + fl + (count - 1)
    let s1 := s.putBytes r a (toBytes 8 w')
    if count = 1 then s1.release (addr / 67108864) (w / 2 ^ 40) (BitVec.ofNat 64 w') else s1

/-! ### Blocks (R288, R292) -/

def Block.word (b : Block) (o : Nat) : W64 := BitVec.ofNat 64 (ofBytes ((b.bytes.drop o).take 8))

def Block.bctl (b : Block) : W64 := b.word 104

/-- Every step of a block has ended: its counter is decremented once and its slots are freed (R292). -/
def State.closeBlock (s : State) (id : Nat) : State :=
  match s.blocks.find? fun b => decide (b.id = id) with
  | none => s
  | some b =>
    if b.left ≠ 0 then s else
    let s1 := { s with blocks := s.blocks.filter fun d => decide (d.id ≠ id) }
    if bitAt b.bctl 30 then s1.sendDecrement none (field b.bctl 0 28).toNat b.faulted b.killed else s1

/-- A step of a block has ended (R292). -/
def State.stepEnded (s : State) (u : WorkUnit) (f k : Bool) : State :=
  let one (b : Block) : Block :=
    if b.id = u.block then { b with left := b.left - 1, faulted := b.faulted || f, killed := b.killed || k } else b
  { s with blocks := s.blocks.map one }.closeBlock u.block

/-- The completed-step map's bit is set by an atomic OR (R292). A map that runs past a die's pool goes on in the next one (log entry 36). -/
def State.markStep (s : State) (u : WorkUnit) : State :=
  match s.blocks.find? fun b => decide (b.id = u.block) with
  | none => s
  | some b =>
    let map := b.word 112
    if !bitAt map 28 then s else
    let (r, a) := poolPlace ((field map 0 28).toNat + 8 * (u.stepNo / 64))
    let w := BitVec.ofNat 64 (s.word r a 8)
    s.putBytes r a (toBytes 8 (w ||| BitVec.ofNat 64 (2 ^ (u.stepNo % 64))).toNat)

/-- The end of a unit at a core reaches its counter (R304). -/
def State.unitDecrement (s : State) (core : Nat) (u : WorkUnit) (f k : Bool) : State :=
  if u.isStep then s.stepEnded u f k else if u.jv then s.sendDecrement (some core) u.jaddr f k else s

/-! ### Clock-mode requests (R125, R357) -/

/-- The mode that the two requests of a core ask for. -/
def State.wantsPinned (s : State) (core : Nat) : Bool := (s.ctx core 0).clkReq || (s.ctx core 1).clkReq

/-- A change of the running mode begins in a cycle where the requests ask for another mode (R357). -/
def State.checkMode (s : State) (core first : Nat) : State :=
  let k := s.core core
  if k.switchEnd = none ∧ s.wantsPinned core ≠ k.pinned then
    s.setCore core { k with switchEnd := some (first + Config.switchCycles) }
  else s

/-- A request set; a switch that it asks for begins in the cycle given. -/
def State.setReq (s : State) (core x : Nat) (b : Bool) (first : Nat) : State :=
  (s.modCtx core x fun k => { k with clkReq := b }).checkMode core first

/-! ### Fault records (R321, R322) -/

/-- TCAUSE of a fault (R120). -/
def causeWord (slot : Nat) (mask : BitVec 8) (code : Nat) : W64 := BitVec.ofNat 64 (slot * 2 ^ 16 + mask.toNat * 2 ^ 8 + code)

/-- The 64 bytes of a fault record (R321). -/
def recordBytes (taskid : W64) (e : Ending) (cycle save : Nat) (gen : W32) (posted : Nat) (pol : Bool) (core x : Nat) : List Byte :=
  word8 taskid ++ word8 e.tcause ++ word8 e.tval ++ word8 e.tepc ++ toBytes 8 cycle ++ toBytes 8 save
    ++ toBytes 8 (core + x * 2 ^ 8 + (if pol then 2 ^ 9 else 0) + e.out * 2 ^ 10 + (if e.dbl then 2 ^ 12 else 0)
      + (min posted 64) * 2 ^ 16 + gen.toNat * 2 ^ 32) ++ toBytes 8 0

/-- Where the next fault record stands (R322). -/
def State.recordPlace (s : State) : Nat :=
  match s.launch with
  | none => 0
  | some c => c.frbase + s.frprod.toNat % c.frcap * 64

/-- The fault-record ring has a place (R322), and no retirement holds its write (R240). -/
def State.recordRoom (s : State) : Bool :=
  decide ((s.frprod - s.frcons).toNat ≠ (s.launch.map Launch.frcap).getD 0) && !s.quiesced s.recordPlace 64

/-- A record written, FRPROD advanced and the management core told (R322). -/
def State.writeRecord (s : State) (bs : List Byte) : State :=
  match s.launch with
  | none => s.notify (.record s.frprod.toNat)
  | some _ =>
    { s.devPut s.recordPlace bs with frprod := s.frprod + 1 }.notify (.record s.frprod.toNat)

/-- A context is freed: it holds no unit, issues nothing and asks for no clock mode. -/
def State.freeContext (s : State) (core x : Nat) : State :=
  (s.modCtx core x fun k => { k with state := .free, unit := none, ranSince := s.now, drain := .none, leaving := false, posted := [] }).setReq core x false
    (s.now + 1)

/-- The record of a context's end is written and the context freed; where the ring is full the context stays bound until a
place frees (R322). -/
def State.recordAndFree (s : State) (core x : Nat) (bs : List Byte) (requeue : Bool) : State :=
  if (s.launch.isNone || s.recordRoom) && (!requeue || s.pushRoom core) then
    let s1 := (s.writeRecord bs).freeContext core x
    match requeue, (s.ctx core x).unit with
    | true, some u => s1.pushUnit core { u with ahead := true, wSince := s.now }
    | _, _ => s1
  else s.modCtx core x fun k => { k with state := .recording bs requeue }

/-- A step that takes RETENTION_LOSS: its context is freed with no publication, no decrement and no map bit, its commands and
stores are dropped, and the step is queued again (R336). -/
def State.requeueStep (s : State) (core x : Nat) (e : Ending) : State :=
  let k := s.ctx core x
  let mine (c y : Nat) (g : W32) : Bool := decide (c = core ∧ y = x ∧ g = k.gen)
  let s1 := s.modCore core fun c => { c with
    flights := c.flights.filter fun f => decide (f.x ≠ x)
    blocks := c.blocks.filter fun b => decide (b.x ≠ x) }
  let s2 := s1.discardCommands core x k.gen
  let s3 := { s2 with
    accs := s2.accs.filter fun a => !mine a.core a.x a.gen
    held := s2.held.filter fun h => !mine h.core h.x h.gen }
  s3.recordAndFree core x (recordBytes k.taskid e (s.cycleOf core) 0 k.gen k.posted.length ((k.unit.map WorkUnit.handler).getD false) core x) true

/-! ### The end of a unit under KILL (R319, R320) -/

/-- The end of a unit whose strands and commands have stopped, once nothing of its engines is on its way and no retirement holds the
area: its state is saved in a FINAL area where there is room, its stores are published, its counter is decremented and its record written
(R319, R240). -/
def State.finishEnd (s : State) (core x : Nat) : State :=
  let k := s.ctx core x
  match k.state, k.unit with
  | .ending e f kl stop, some u =>
    if !(s.core core).enginesQuiet x || (s.saveRoom core x && !s.areaServed core x) then s
    else
      let (s1, save) := if s.saveRoom core x then s.writeArea core x true stop else (s, 0)
      let s2 := (s1.discardCommands core x k.gen).publishWhere fun h => h.ofUnit core x k.gen
      (s2.unitDecrement core u f kl).recordAndFree core x (recordBytes k.taskid e stop save k.gen k.posted.length u.handler core x) false
  | _, _ => s

/-- A running unit ends: its strands stop, its commands are discarded or stopped, its results are dropped (R319); the rest follows when
its engines have let go. -/
def State.killUnit (s : State) (core x : Nat) (e : Ending) (f kl : Bool) : State :=
  let k := s.ctx core x
  match k.unit with
  | none => s
  | some _ =>
    let s1 := s.modCtx core x fun k => { k with tcause := e.tcause, tval := e.tval, tepc := e.tepc, pend := [], tableLoads := [] }
    let s2 := (s1.stopCommands core x).modCore core fun c =>
      { c with queues := c.queues.map fun l => l.filter fun d => !decide (d.x = x ∧ d.state = .waiting) }
    let s3 := s2.endAccesses core x k.gen
    (s3.modCtx core x fun k => { k with state := .ending e f kl (s.cycleOf core) }).finishEnd core x

/-- TCAUSE of a kill: its slot and slot mask are open (R315, R320). -/
def State.killCause (s : State) : W64 :=
  let w := Config.openWord s.freeN
  causeWord (field w 0 3).toNat (field w 3 8) 0x0F

/-- A record of a unit that is not bound: it waits where the ring is full (R322). -/
def State.writeOrWait (s : State) (bs : List Byte) : State :=
  if s.recordRoom then s.writeRecord bs else { s with records := s.records ++ [bs] }

/-- A unit that has no running context ends by a kill: its held stores are published and its counter decremented with k = 1
(R268, R320). -/
def State.endKilled (s : State) (core x : Nat) (gen : W32) (u : WorkUnit) : State :=
  (if u.hasRun then s.publishWhere fun h => h.ofUnit core x gen else s).unitDecrement core u false true

end Sys2Proof.Machine
end

