-- ==== Sys2Proof/Machine/Ops.lean ====
section
/-!
DEFINITION. The shared operations of every meaning: taking a fault and returning from it (spec/25 R315 to R319, spec/03 R35),
the checks and holds of an operation in their order (R36, R66, R375), and how exec runs one.
-/

namespace Sys2Proof.Machine

/-! ### Cause codes (R315) -/

def causeILLEGAL : Nat := 0x01
def causeSLOT : Nat := 0x02
def causePARTITION : Nat := 0x03
def causeEXTENT : Nat := 0x04
def causeALIGN : Nat := 0x05
def causeTIMING : Nat := 0x06
def causeINTERVAL : Nat := 0x07
def causeOVERFLOW : Nat := 0x08
def causeJOIN : Nat := 0x09
def causeENGINE : Nat := 0x0A
def causeBARRIER : Nat := 0x0B
def causeCOPY : Nat := 0x0C
def causeRETENTION : Nat := 0x0D
def causeTRAP : Nat := 0x0E
def causeKILL : Nat := 0x0F
def causeMAILBOX : Nat := 0x11

/-! ### Taking a fault (R35, R316, R318) -/

/-- A CLKDIV whose drain a handler interrupts drains again after TRET (R124); another drain begins anew with its bundle. -/
def Drain.kept : Drain → Drain
  | .clkdiv d => .clkdiv d
  | _ => .none

/-- A context enters its handler: the fault registers are written, INHDL is set, every strand is stored away, its
pending-writeback entries are frozen, and one strand of all eight slots that owns every register starts at TVEC (R35, R318). -/
def Ctx.enterHandler (k : Ctx) (strand : Nat) (cause tval tepc : W64) : Ctx :=
  { k with
    tepc := tepc &&& ~~~7#64
    tcause := cause
    tval := tval
    inhdl := true
    stopped := k.strands
    faulted := strand
    faultPc := tepc &&& ~~~7#64
    stoppedReps := k.repeats
    repeats := Vector.replicate 8 none
    pend := k.pend.map fun p => { p with frozen := !p.inter }
    strands := [Strand.lockstep k.nextStrand k.tvec none]
    nextStrand := k.nextStrand + 1
    drain := .none
    stoppedDrain := k.drain.kept }

/-- The unit's policy hands the fault to its handler: HANDLER, TVEC not 0, not a double fault, and no RETENTION_LOSS that
names the control state (R318). -/
def Ctx.handles (k : Ctx) (sync : Bool) (code : Nat) (tval : W64) : Bool :=
  ((k.unit.map WorkUnit.handler).getD false) && decide (k.tvec ≠ 0#64) && !(sync && k.inhdl)
    && !(decide (code = causeRETENTION) && bitAt tval 5)

/-- A fault is taken by a strand of a context (R316 to R319): the handler is entered, or the unit ends under KILL; a step that
takes RETENTION_LOSS is queued again (R336). -/
def State.takeFault (s : State) (core x strand code slot : Nat) (tval tepc : W64) (sync : Bool) : State :=
  let k := s.ctx core x
  let cause := causeWord slot (k.strandD strand).slots code
  if code = causeRETENTION ∧ (k.unit.map WorkUnit.isStep) = some true then s.requeueStep core x ⟨cause, tval, tepc, 2, false⟩
  else if k.handles sync code tval then s.modCtx core x fun k => k.enterHandler strand cause tval tepc
  else s.killUnit core x ⟨cause, tval, tepc, 1, sync && k.inhdl⟩ true false

/-- A context returns from its handler: the stopped strands run on. Where TEPC is as the fault left it, the faulting strand
resumes as it stood, its waits and its repeats with it; another TEPC is where it goes on instead, and they are abandoned (R35,
R110, R375). -/
def Ctx.leaveHandler (k : Ctx) : Ctx :=
  let moved := decide (k.tepc ≠ k.faultPc)
  let back (t : Strand) : Strand := if t.id = k.faulted ∧ moved then { t with pc := k.tepc, waits := [] } else t
  let keepRep (r : Repeat) : Bool := !(r.target.isSome && decide (r.strand = k.faulted) && moved)
  { k with
    inhdl := false
    strands := k.stopped.map back
    stopped := []
    repeats := k.stoppedReps.map fun r => r.bind fun q => if keepRep q then some q else none
    stoppedReps := Vector.replicate 8 none
    pend := k.pend.map fun p => { p with frozen := false }
    drain := k.stoppedDrain
    stoppedDrain := .none }

/-- The issuing operation faults: the fault is taken at its bundle, and the cursor records it. -/
def State.faultHere (s : State) (e : Exn) : State :=
  let t := s.takeFault s.cur.core s.cur.x s.cur.strand e.code e.slot e.tval s.cur.ba true
  { t with cur := { t.cur with verdict := .faulted e }, freeN := t.freeN + 1 }

/-! ### Operations -/

/-- The parts of an operation's meaning: the registers it reads and writes, as class (0 scalar, 1 vector, 2 mask, 4 pattern)
and number; its checks before and after the partition check, each a cause and a TVAL; what holds it at issue once the
checks pass; and its effect. -/
structure OpSem where
  reads : List (Nat × Nat) := []
  writes : List (Nat × Nat) := []
  before : Option (Nat × W64) := none
  after : Option (Nat × W64) := none
  hold : Verdict := .ok
  eff : State → State

/-- Registers that no result is ever outstanding for: s0 and m0. -/
def neverBusy (r : Nat × Nat) : Bool := decide (r = (0, 0) ∨ r = (2, 0))

/-- A variable-latency result of the issuing strand is still to land in one of the registers: a stall (R36, R71). -/
def State.variableBusy (s : State) (regs : List (Nat × Nat)) : Bool :=
  (s.accs.any fun a => decide (a.core = s.cur.core ∧ a.x = s.cur.x ∧ a.gen = s.me.gen ∧ a.strand = s.cur.strand)
    && a.dests.any fun d => regs.contains d)
    || s.me.pend.any fun p => p.inter && decide (p.strand = s.cur.strand) && regs.contains p.res.dest

/-- A fixed-latency result of the issuing strand in a scoreboard region is still to land in one of the registers: the strand
waits (R36, R39). -/
def State.fixedBusy (s : State) (regs : List (Nat × Nat)) : Bool :=
  s.me.pend.any fun p => !p.inter && !p.exposed && !p.frozen && decide (p.strand = s.cur.strand) && regs.contains p.res.dest

/-- A strand owns a register (R30); a write to s0 is never a violation. -/
def Strand.owns (t : Strand) (r : Nat × Nat) : Bool :=
  match r.1 with
  | 0 => decide (r.2 = 0) || t.sOwn.getLsbD r.2
  | 1 => t.vOwn.getLsbD r.2
  | 2 => t.mOwn.getLsbD r.2
  | 4 => t.pOwn.getLsbD r.2
  | _ => true

/-- TVAL of a partition fault (R315). -/
def partitionValue (r : Nat × Nat) : W64 := BitVec.ofNat 64 ((if r.1 = 4 then 3 else r.1) * 256 + r.2)

/-- What the checks and holds of an operation say (R36, R66): interlocks on its registers, its own checks with the
partition check between them, then what holds it. -/
def OpSem.verdict (o : OpSem) (s : State) : Verdict :=
  let regs := (o.reads ++ o.writes).filter fun r => !neverBusy r
  if s.variableBusy regs then .held true
  else if s.fixedBusy regs then .held false
  else match o.before with
    | some e => .faulted ⟨e.1, e.2, s.cur.slot⟩
    | none =>
      match o.writes.find? fun r => !s.myStrand.owns r with
      | some r => .faulted ⟨causePARTITION, partitionValue r, s.cur.slot⟩
      | none =>
        match o.after with
        | some e => .faulted ⟨e.1, e.2, s.cur.slot⟩
        | none => o.hold

/-- The entries of the pending-writeback queue (R40). -/
def Ctx.pendingCount (k : Ctx) : Nat := (k.pend.filter fun p => p.exposed && decide (p.res ≠ .flagsOnly)).length

/-- A CALL's link enters the queue with its branch at the end of the bundle (R40, R41, R104). -/
def SeqAct.isCall : SeqAct → Bool
  | .call _ _ _ _ => true
  | _ => false

/-- An exposed issue has raised the pending-writeback queue above its 64 entries (R40). -/
def State.pendOverflow (s : State) : Bool :=
  s.cur.exposed && decide (64 < s.me.pendingCount + (s.cur.acts.filter SeqAct.isCall).length)

/-- Run one operation: its checks alone, its effect alone, or both. -/
def runOp (o : OpSem) (s : State) : Host.Outcome State Fault Refusal :=
  match s.cur.mode with
  | .commit => .next (o.eff s)
  | .probe => .next { s with cur := { s.cur with verdict := o.verdict s } }
  | .whole =>
    match o.verdict s with
    | .ok =>
      let t := o.eff s
      if t.pendOverflow then .next (s.faultHere ⟨causeOVERFLOW, 0xFF#64, s.cur.slot⟩)
      else .next { t with cur := { t.cur with verdict := .ok } }
    | .faulted e => .next (s.faultHere e)
    | v => .next { s with cur := { s.cur with verdict := v } }

/-! ### Holds -/

/-- The first of several holds: a fault, then a stall, then a wait. -/
def firstHold (l : List Verdict) : Verdict :=
  match l.find? fun v => match v with | .faulted _ => true | _ => false with
  | some v => v
  | none =>
    match l.find? fun v => decide (v = .held true) with
    | some v => v
    | none => (l.find? fun v => decide (v ≠ .ok)).getD .ok

/-- The condition queue that an operation pops (R105, R114, R115). -/
def popOf : Instr → Option Nat
  | .brcT f => some f.cq.toNat
  | .brcF f => some f.cq.toNat
  | .cqpop f => some (field f.imm 0 2).toNat
  | .gsetQ f => some (field f.imm 3 2).toNat
  | _ => none

/-- The condition queue that an operation pushes into (R114, R133, R137, R174). -/
def pushOf : Instr → Option Nat
  | .cqpush f => some (field f.imm 0 2).toNat
  | .cmpq f => some (field f.d 0 2).toNat
  | .fcmpq f => some (field f.d 0 2).toNat
  | .vcmpqAny f => some (field f.vd 0 2).toNat
  | .vcmpqAll f => some (field f.vd 0 2).toNat
  | _ => none

/-- Operations of this cycle in lower slots that satisfy p, of this bundle and of other strands. -/
def State.countEarlier (s : State) (p : Instr → Bool) : Nat :=
  ((s.cur.others ++ s.cur.bundle).filter fun o => decide (o.1 < s.cur.slot) && p o.2).length

/-- Every pop of queue q in this cycle (R32). -/
def State.popsNow (s : State) (q : Nat) : Nat :=
  ((s.cur.others ++ s.cur.bundle).filter fun o => decide (popOf o.2 = some q)).length

/-- A pop from an empty condition queue waits (R36). -/
def State.popHold (s : State) (q : Nat) : Verdict :=
  if (s.me.cq q).length ≤ s.countEarlier (fun i => decide (popOf i = some q)) then .held false else .ok

/-- Entries of a queue that have landed or are in flight (R32). -/
def Ctx.cqLoad (k : Ctx) (q : Nat) : Nat :=
  (k.cq q).length + (k.pend.filter fun p => decide (p.res.dest = (3, q))).length

/-- A push into a full queue waits in a scoreboard region and overflows in an exposed one (R32, R36). -/
def State.pushHold (s : State) (q : Nat) : Verdict :=
  if 16 ≤ s.me.cqLoad q + s.countEarlier (fun i => decide (pushOf i = some q)) - s.popsNow q then
    if s.cur.exposed then .faulted ⟨causeOVERFLOW, BitVec.ofNat 64 q, s.cur.slot⟩ else .held false
  else .ok

/-- A push into a full engine queue stalls (R25, R36). -/
def State.engineHold (s : State) (q : Nat) : Verdict :=
  if s.myCore.queueFull q s.cur.x 0 0 then .held true else .ok

/-- A bank that a command holds stalls the bundle (R149). -/
def State.bankHold (s : State) (banks : W32) : Verdict :=
  if s.myCore.heldBanks &&& banks ≠ 0#32 then .held true else .ok

/-- A busy vector slot holds an operation of interval above 1 in a scoreboard region or a repeat, and faults otherwise
(R23, R72, R109). -/
def State.intervalHold (s : State) : Verdict :=
  if s.myCore.busy.getD s.cur.slot 0 = 0 then .ok
  else if !s.cur.exposed || s.cur.isRepeat then .held false
  else .faulted ⟨causeINTERVAL, 0#64, s.cur.slot⟩

/-- An operation of interval n occupies its slot (R72). -/
def State.occupySlot (s : State) (n : Nat) : State :=
  s.modCore s.cur.core fun k => { k with busy := k.busy.setIfInBounds s.cur.slot (n * k.q) }

/-- A granule whose full bit is awaited: the state at the start of the cycle decides (R151). -/
def State.fullHold (s : State) (a n : Nat) : Verdict :=
  let g := granules a n
  if (upTo g.2).all fun i => s.fullAtStart s.cur.core (16 * (g.1 + i)) then .ok else .held true

/-! ### Results -/

/-- The issuing strand waits after its bundle (R33, R375). -/
def State.await (s : State) (w : Wait) : State := { s with cur := { s.cur with waits := s.cur.waits ++ [w] } }

/-- A scalar result of fixed latency. -/
def State.putScalar (s : State) (d : BitVec 6) (v : W64) (latency : Nat) (flags : BitVec 7) : State :=
  s.post (.scalar d.toNat v) latency flags

/-- A sequencer operation's act, applied at the end of its bundle (R41). -/
def State.act (s : State) (a : SeqAct) : State := { s with cur := { s.cur with acts := s.cur.acts ++ [a] } }

/-- Context s as the operands of the issuing operation are read. -/
def State.rs (s : State) (r : BitVec 6) : W64 := s.me.s r.toNat

/-- A scalar register as an entry of a register list. -/
def sreg (r : BitVec 6) : Nat × Nat := (0, r.toNat)
def vreg (r : BitVec 5) : Nat × Nat := (1, r.toNat)
def mreg (r : BitVec 3) : Nat × Nat := (2, r.toNat)
def preg (r : BitVec 3) : Nat × Nat := (4, r.toNat)

/-- A fault with the operation word as its TVAL (R67). -/
def State.illegal (s : State) : Nat × W64 := (causeILLEGAL, s.cur.word)

/-- The drain of R38 is over: nothing pending, nothing in flight, no command left; entries that a handler froze apart (R35). -/
def State.drained (s : State) (core x : Nat) : Bool :=
  let k := s.ctx core x
  (k.pend.all fun p => p.frozen) && (s.accs.all fun a => !(decide (a.core = core ∧ a.x = x ∧ a.gen = k.gen) && !a.dests.isEmpty))
    && s.idleQueues core x

end Sys2Proof.Machine
end

