-- ==== Sys2Proof/Machine/Scalar.lean ====
section
/-!
DEFINITION. Scalar integer operations (spec/09 R127 to R135).
-/

namespace Sys2Proof.Machine

/-! ### Register operations (R128) -/

/-- s[D] := g a b of latency n. -/
def scalar2 (f : SR) (g : W64 → W64 → W64) (n : Nat) (s : State) : OpSem where
  reads := [sreg f.a, sreg f.b]
  writes := [sreg f.d]
  eff := fun t => t.putScalar f.d (g (s.rs f.a) (s.rs f.b)) n 0

/-- A shift amount b[5:0]. -/
def shiftOf (b : W64) : Nat := b.toNat % 64

/-- The smaller and the larger of two signed or unsigned values. -/
def minS (a b : W64) : W64 := if b.toInt < a.toInt then b else a
def maxS (a b : W64) : W64 := if a.toInt < b.toInt then b else a
def minU (a b : W64) : W64 := if b.toNat < a.toNat then b else a
def maxU (a b : W64) : W64 := if a.toNat < b.toNat then b else a

/-- ADD (R128). -/
def execAdd (f : SR) (s : State) : Host.Outcome State Fault Refusal := runOp (scalar2 f (fun a b => a + b) 1 s) s
/-- SUB (R128). -/
def execSub (f : SR) (s : State) : Host.Outcome State Fault Refusal := runOp (scalar2 f (fun a b => a - b) 1 s) s
/-- AND (R128). -/
def execAnd (f : SR) (s : State) : Host.Outcome State Fault Refusal := runOp (scalar2 f (fun a b => a &&& b) 1 s) s
/-- OR (R128). -/
def execOr (f : SR) (s : State) : Host.Outcome State Fault Refusal := runOp (scalar2 f (fun a b => a ||| b) 1 s) s
/-- XOR (R128). -/
def execXor (f : SR) (s : State) : Host.Outcome State Fault Refusal := runOp (scalar2 f (fun a b => a ^^^ b) 1 s) s
/-- ANDN (R128). -/
def execAndn (f : SR) (s : State) : Host.Outcome State Fault Refusal := runOp (scalar2 f (fun a b => a &&& ~~~b) 1 s) s
/-- SHL (R128). -/
def execShl (f : SR) (s : State) : Host.Outcome State Fault Refusal := runOp (scalar2 f (fun a b => a <<< shiftOf b) 1 s) s
/-- SHR (R128). -/
def execShr (f : SR) (s : State) : Host.Outcome State Fault Refusal := runOp (scalar2 f (fun a b => a >>> shiftOf b) 1 s) s
/-- SAR (R128). -/
def execSar (f : SR) (s : State) : Host.Outcome State Fault Refusal := runOp (scalar2 f (fun a b => a.sshiftRight (shiftOf b)) 1 s) s
/-- MIN (R128). -/
def execMin (f : SR) (s : State) : Host.Outcome State Fault Refusal := runOp (scalar2 f minS 1 s) s
/-- MAX (R128). -/
def execMax (f : SR) (s : State) : Host.Outcome State Fault Refusal := runOp (scalar2 f maxS 1 s) s
/-- MINU (R128). -/
def execMinu (f : SR) (s : State) : Host.Outcome State Fault Refusal := runOp (scalar2 f minU 1 s) s
/-- MAXU (R128). -/
def execMaxu (f : SR) (s : State) : Host.Outcome State Fault Refusal := runOp (scalar2 f maxU 1 s) s

/-! ### Immediate operations (R129, R130) -/

/-- s[D] := g a imm, imm sign-extended from 36 bits. -/
def scalarImm (f : SI) (g : W64 → W64 → W64) (s : State) : OpSem where
  reads := [sreg f.a]
  writes := [sreg f.d]
  eff := fun t => t.putScalar f.d (g (s.rs f.a) (sext64 f.imm)) 1 0

/-- ADDI (R129). -/
def execAddi (f : SI) (s : State) : Host.Outcome State Fault Refusal := runOp (scalarImm f (fun a b => a + b) s) s
/-- ANDI (R129). -/
def execAndi (f : SI) (s : State) : Host.Outcome State Fault Refusal := runOp (scalarImm f (fun a b => a &&& b) s) s
/-- ORI (R129). -/
def execOri (f : SI) (s : State) : Host.Outcome State Fault Refusal := runOp (scalarImm f (fun a b => a ||| b) s) s
/-- XORI (R129). -/
def execXori (f : SI) (s : State) : Host.Outcome State Fault Refusal := runOp (scalarImm f (fun a b => a ^^^ b) s) s
/-- SHLI (R129); a shift outside 0 to 63 is a reserved code. -/
def execShli (f : SI) (s : State) : Host.Outcome State Fault Refusal := runOp (scalarImm f (fun a b => a <<< shiftOf b) s) s
/-- SHRI (R129). -/
def execShri (f : SI) (s : State) : Host.Outcome State Fault Refusal := runOp (scalarImm f (fun a b => a >>> shiftOf b) s) s
/-- SARI (R129). -/
def execSari (f : SI) (s : State) : Host.Outcome State Fault Refusal :=
  runOp (scalarImm f (fun a b => a.sshiftRight (shiftOf b)) s) s

/-- LI (R130). -/
def execLi (f : SI) (s : State) : Host.Outcome State Fault Refusal :=
  runOp { writes := [sreg f.d], eff := fun t => t.putScalar f.d (sext64 f.imm) 1 0 } s

/-- LIH (R130). -/
def execLih (f : SI) (s : State) : Host.Outcome State Fault Refusal :=
  runOp {
    reads := [sreg f.a]
    writes := [sreg f.d]
    eff := fun t => t.putScalar f.d ((field f.imm 0 28 : BitVec 28) ++ (field (s.rs f.a) 0 36 : BitVec 36)) 1 0 } s

/-! ### Multiplication and division (R131, R132) -/

/-- Bits [127:64] of an exact product. -/
def highHalf (p : Int) : W64 := BitVec.ofInt 64 (p / 2 ^ 64)

/-- MUL (R131). -/
def execMul (f : SR) (s : State) : Host.Outcome State Fault Refusal := runOp (scalar2 f (fun a b => a * b) 3 s) s
/-- MULH (R131). -/
def execMulh (f : SR) (s : State) : Host.Outcome State Fault Refusal :=
  runOp (scalar2 f (fun a b => highHalf (a.toInt * b.toInt)) 3 s) s
/-- MULHU (R131). -/
def execMulhu (f : SR) (s : State) : Host.Outcome State Fault Refusal :=
  runOp (scalar2 f (fun a b => highHalf ((a.toNat * b.toNat : Nat) : Int)) 3 s) s
/-- MAD (R131). -/
def execMad (f : SR) (s : State) : Host.Outcome State Fault Refusal :=
  runOp {
    reads := [sreg f.a, sreg f.b, sreg f.c]
    writes := [sreg f.d]
    eff := fun t => t.putScalar f.d (s.rs f.a * s.rs f.b + s.rs f.c) 3 0 } s

/-- A division: the quotient or the remainder, with DZ for a zero divisor (R132). -/
def scalarDiv (f : SR) (isSigned rem : Bool) (s : State) : OpSem :=
  let r := divide isSigned (s.rs f.a) (s.rs f.b)
  { reads := [sreg f.a, sreg f.b]
    writes := [sreg f.d]
    eff := fun t => t.putScalar f.d (if rem then r.2.1 else r.1) 20 r.2.2 }

/-- DIV (R132). -/
def execDiv (f : SR) (s : State) : Host.Outcome State Fault Refusal := runOp (scalarDiv f true false s) s
/-- DIVU (R132). -/
def execDivu (f : SR) (s : State) : Host.Outcome State Fault Refusal := runOp (scalarDiv f false false s) s
/-- REM (R132). -/
def execRem (f : SR) (s : State) : Host.Outcome State Fault Refusal := runOp (scalarDiv f true true s) s
/-- REMU (R132). -/
def execRemu (f : SR) (s : State) : Host.Outcome State Fault Refusal := runOp (scalarDiv f false true s) s

/-! ### Compares (R133) -/

/-- The relation of a compare code on 64-bit values (R53). -/
def relScalar (cc : BitVec 4) (a b : W64) : Bool := relInt cc.toNat a.toInt b.toInt a.toNat b.toNat

def bit64 (b : Bool) : W64 := if b then 1 else 0

/-- CMP (R133). -/
def execCmp (f : SR) (s : State) : Host.Outcome State Fault Refusal :=
  runOp (scalar2 f (fun a b => bit64 (relScalar f.cc a b)) 1 s) s

/-- CMPQ (R133): the entry lands 2 issue cycles after issue. -/
def execCmpq (f : SR) (s : State) : Host.Outcome State Fault Refusal :=
  let q := (field f.d 0 2).toNat
  runOp {
    reads := [sreg f.a, sreg f.b]
    hold := s.pushHold q
    eff := fun t => t.post (.queue q (relScalar f.cc (s.rs f.a) (s.rs f.b))) 2 0 } s

/-! ### Bit operations and SEL (R134, R135) -/

/-- Leading zero bits of the low n bits. -/
def leadingZeros (a : W64) : Nat → Nat
  | 0 => 0
  | n + 1 => if a.getLsbD n then 0 else leadingZeros a n + 1

/-- Trailing zero bits, 64 for zero. -/
def trailingZeros (a : W64) : Nat := leastOr 64 (bitsOf a 64)

/-- Bits 63 to 0 reversed. -/
def reverse64 (a : W64) : W64 := setOf ((bitsOf a 64).map fun i => 63 - i)

/-- pos and w of BFE and BFI (R134). -/
def bfPos (b : W64) : Nat := b.toNat % 64
def bfWidth (b : W64) : Nat := min (b.toNat / 256 % 128) 64

/-- BFE (R134). -/
def bitExtract (sign : Bool) (a b : W64) : W64 :=
  let w := bfWidth b
  if w = 0 then 0 else
  let f := a.toNat / 2 ^ bfPos b % 2 ^ w
  if sign then BitVec.ofInt 64 (sextInt f w) else BitVec.ofNat 64 f

/-- BFI (R134): bits pos to pos + w − 1, as far as bit 63, taken from the low bits of a. -/
def bitInsert (a b c : W64) : W64 :=
  let m : W64 := BitVec.ofNat 64 ((2 ^ bfWidth b - 1) * 2 ^ bfPos b)
  (c &&& ~~~m) ||| (a <<< bfPos b &&& m)

/-- s[D] := g a of latency 1. -/
def scalar1 (f : SR) (g : W64 → W64) (s : State) : OpSem where
  reads := [sreg f.a]
  writes := [sreg f.d]
  eff := fun t => t.putScalar f.d (g (s.rs f.a)) 1 0

/-- CLZ (R134). -/
def execClz (f : SR) (s : State) : Host.Outcome State Fault Refusal := runOp (scalar1 f (fun a => BitVec.ofNat 64 (leadingZeros a 64)) s) s
/-- CTZ (R134). -/
def execCtz (f : SR) (s : State) : Host.Outcome State Fault Refusal := runOp (scalar1 f (fun a => BitVec.ofNat 64 (trailingZeros a)) s) s
/-- POPC (R134). -/
def execPopc (f : SR) (s : State) : Host.Outcome State Fault Refusal := runOp (scalar1 f (fun a => BitVec.ofNat 64 (popCount a 64)) s) s
/-- BFE (R134). -/
def execBfe (f : SR) (s : State) : Host.Outcome State Fault Refusal := runOp (scalar2 f (bitExtract (bitAt f.cc 0)) 1 s) s
/-- BFI (R134). -/
def execBfi (f : SR) (s : State) : Host.Outcome State Fault Refusal :=
  runOp {
    reads := [sreg f.a, sreg f.b, sreg f.c]
    writes := [sreg f.d]
    eff := fun t => t.putScalar f.d (bitInsert (s.rs f.a) (s.rs f.b) (s.rs f.c)) 1 0 } s
/-- BREV (R134). -/
def execBrev (f : SR) (s : State) : Host.Outcome State Fault Refusal := runOp (scalar1 f reverse64 s) s

/-- SEL (R135). -/
def execSel (f : SR) (s : State) : Host.Outcome State Fault Refusal :=
  runOp {
    reads := [sreg f.a, sreg f.b, sreg f.c]
    writes := [sreg f.d]
    eff := fun t => t.putScalar f.d (if relScalar f.cc (s.rs f.c) 0 then s.rs f.a else s.rs f.b) 1 0 } s

end Sys2Proof.Machine
end

