-- ==== Sys2Proof/Machine/ScalarFloat.lean ====
section
/-!
DEFINITION. Scalar floating-point operations (spec/09 R136 to R139).
-/

namespace Sys2Proof.Machine

/-- The F32 encoding in bits [31:0] of a register (R85, R136). -/
def State.fs (s : State) (r : BitVec 6) : W32 := field (s.rs r) 0 32

/-- An F32 result of latency 4, bits [63:32] zero (R136). -/
def State.putFloat (s : State) (d : BitVec 6) (r : W32 × BitVec 7) : State := s.putScalar d (zext64 r.1) 4 r.2

/-- A two-source operation on exact values, rounded by CC[1:0] (R136). -/
def float2 (f : SR) (g : Rnd → FVal → FVal → FVal × BitVec 7) (s : State) : OpSem where
  reads := [sreg f.a, sreg f.b]
  writes := [sreg f.d]
  eff := fun t =>
    let m := Rnd.ofCode (field f.cc 0 2 : BitVec 2)
    t.putFloat f.d (rndF32 m (g m (vF32 (s.fs f.a)) (vF32 (s.fs f.b))))

/-- FADD (R136). -/
def execFadd (f : SR) (s : State) : Host.Outcome State Fault Refusal := runOp (float2 f addV s) s
/-- FSUB (R136): negation acts on the sign bit alone (R90), a NaN operand kept. -/
def execFsub (f : SR) (s : State) : Host.Outcome State Fault Refusal :=
  runOp (float2 f (fun m a b => addV m a (if b.isNan then b else b.negate)) s) s
/-- FMUL (R136). -/
def execFmul (f : SR) (s : State) : Host.Outcome State Fault Refusal := runOp (float2 f (fun _ => mulV) s) s
/-- FMIN (R136). -/
def execFmin (f : SR) (s : State) : Host.Outcome State Fault Refusal := runOp (float2 f (fun _ => minMaxV false) s) s
/-- FMAX (R136). -/
def execFmax (f : SR) (s : State) : Host.Outcome State Fault Refusal := runOp (float2 f (fun _ => minMaxV true) s) s

/-- FFMA (R136). -/
def execFfma (f : SR) (s : State) : Host.Outcome State Fault Refusal :=
  let m := Rnd.ofCode (field f.cc 0 2 : BitVec 2)
  runOp {
    reads := [sreg f.a, sreg f.b, sreg f.c]
    writes := [sreg f.d]
    eff := fun t => t.putFloat f.d (rndF32 m (fmaV m (vF32 (s.fs f.a)) (vF32 (s.fs f.b)) (vF32 (s.fs f.c)))) } s

/-- The relation of a compare code with its flags (R53, R90, R137). -/
def State.floatRel (s : State) (f : SR) : Bool × BitVec 7 := relFloat f.cc.toNat (vF32 (s.fs f.a)) (vF32 (s.fs f.b))

/-- FCMP (R137). -/
def execFcmp (f : SR) (s : State) : Host.Outcome State Fault Refusal :=
  runOp {
    reads := [sreg f.a, sreg f.b]
    writes := [sreg f.d]
    eff := fun t => t.putScalar f.d (bit64 (s.floatRel f).1) 4 (s.floatRel f).2 } s

/-- FCMPQ (R137): the entry lands 4 issue cycles after issue. -/
def execFcmpq (f : SR) (s : State) : Host.Outcome State Fault Refusal :=
  let q := (field f.d 0 2).toNat
  runOp {
    reads := [sreg f.a, sreg f.b]
    hold := s.pushHold q
    eff := fun t => t.post (.queue q (s.floatRel f).1) 4 (s.floatRel f).2 } s

/-- The conversions of FCVT: result and flags (R97, R138). -/
def convertScalar (code : Nat) (m : Rnd) (a : W64) : W64 × BitVec 7 :=
  let w : W32 := field a 0 32
  match code with
  | 0 => let r := cvtF32BF16 m w; (zext64 r.1, r.2)
  | 1 => let r := cvtBF16F32 (field a 0 16); (zext64 r.1, r.2)
  | 2 => let r := floatToInt m (-2147483648) 2147483647 (vF32 w); (BitVec.ofInt 64 r.1, r.2)
  | 3 => let r := floatToInt m 0 4294967295 (vF32 w); (BitVec.ofInt 64 r.1, r.2)
  | 4 => let r := rndF32 m (intV w.toInt, 0); (zext64 r.1, r.2)
  | _ => let r := rndF32 m (intV (w.toNat : Int), 0); (zext64 r.1, r.2)

/-- FCVT (R138): its mode is C[1:0]. -/
def execFcvt (f : SR) (s : State) : Host.Outcome State Fault Refusal :=
  let r := convertScalar f.cc.toNat (Rnd.ofCode (field f.c 0 2 : BitVec 2)) (s.rs f.a)
  runOp {
    reads := [sreg f.a]
    writes := [sreg f.d]
    eff := fun t => t.putScalar f.d r.1 4 r.2 } s

/-- The class bit of an F32 value (R139). -/
def classOf (w : W32) : Nat :=
  match vF32 w with
  | .inf n => if n then 0 else 7
  | .nan _ fr => if fr / 4194304 % 2 = 0 then 8 else 9
  | .fin n a _ _ =>
    if a = 0 then (if n then 3 else 4)
    else if w.toNat / 2 ^ 23 % 256 = 0 then (if n then 2 else 5)
    else if n then 1 else 6

/-- FCLASS (R139). -/
def execFclass (f : SR) (s : State) : Host.Outcome State Fault Refusal :=
  runOp {
    reads := [sreg f.a]
    writes := [sreg f.d]
    eff := fun t => t.putScalar f.d (BitVec.ofNat 64 (2 ^ classOf (s.fs f.a))) 4 0 } s

end Sys2Proof.Machine
end

