-- ==== Sys2Proof/Machine/LocalMemory.lean ====
section
/-!
DEFINITION. Scalar memory operations, atomics, full/empty control (spec/11 R140 to R160): what they check, what they do in
LOCAL and ACC at issue, and the accesses that they send to REMOTE, POOL and DEVICE memory.
-/

namespace Sys2Proof.Machine

/-! ### Checks (R141) -/

/-- The check of an access of a scalar memory operation: its place, or none for EXTENT. -/
def placeOf (f : SM) (s : State) (n : Nat) (rd wr : Bool) : Option (Region × Nat) :=
  s.me.place s.cur.core f.space.toNat (f.ea s.me).toNat n rd wr

/-- ALIGN with the effective address as its TVAL. -/
def alignCheck (ea : W64) (n : Nat) : Option (Nat × W64) := if ea.toNat % n = 0 then none else some (causeALIGN, ea)

/-- EXTENT with an address as its TVAL where there is no place. -/
def extentCheck {α : Type} (p : Option α) (ea : W64) : Option (Nat × W64) := if p.isSome then none else some (causeEXTENT, ea)

/-- The bank that a scalar LOCAL access names (R149). -/
def localBanks (space : Nat) (ea n : Nat) : W32 := if space = 0 then banksOfRun ea n else 0#32

/-- The result of a load with a full/empty wait: of variable latency, so that it is interlocked in every region, stands in no
pending-writeback queue and counts as an outstanding load until it lands (R40, R71, R117, R151). -/
def State.postInter (s : State) (r : Result) (latency : Nat) (flags : BitVec 7) : State :=
  { (s.modMe fun k => { k with pend := k.pend ++ [{
      res := r, left := latency, flags := flags, slot := s.cur.slot, strand := s.cur.strand, ba := s.cur.ba,
      exposed := false, inter := true, isLoad := true, frozen := false, seq := s.seqN }] })
    with seqN := s.seqN + 1 }

/-- An acquire in LOCAL orders the context's later accesses in the other spaces (R156). -/
def State.localAcquire (s : State) (ord scope : Nat) : State :=
  if ord = 1 then s.issueAccess (.fence true false) none 0 0 scope 0 false false else s

/-- The bytes of a store in LOCAL, with the granule that a .SF sets full (R156). -/
def State.localStore (s : State) (core a : Nat) (bs : List Byte) (full : Bool) : State :=
  let t := s.putBytes (.scratch core) a bs
  if full then t.setFull core (a / 16) 1 true else t

/-- A strong store in LOCAL waits until what a release before it publishes is visible: every earlier access, where it is a release
itself, and the release fences before it (R272, R273). -/
def releaseHold (f : SM) (s : State) : Verdict :=
  if f.space ≠ 0#3 ∨ f.ord.toNat < 2 then .ok
  else if f.ord = 2#3 then (if s.allPerformed s.cur.core s.cur.x s.seqN then .ok else .held false)
  else if s.allReleased s.cur.core s.cur.x s.seqN then .ok else .held false

/-! ### LD and ST (R155, R156) -/

/-- LD: its result, with the clear of a .WFC in the same step as the read. -/
def loadEffect (f : SM) (s t : State) : State :=
  let n := f.bytes
  let ea := (f.ea s.me).toNat
  let d := f.data.toNat
  match placeOf f s n true false with
  | none => t
  | some (r, a) =>
    match f.space.toNat with
    | 0 =>
      let v := BitVec.ofNat 64 (t.word r a n)
      let t1 := t.localAcquire f.ord.toNat f.scope.toNat
      let t2 := if f.fe = 2#2 then t1.setFull s.cur.core (ea / 16) 1 false else t1
      if f.fe = 0#2 then t2.post (.scalar d v) 5 0
      else (if t.filledAtStart s.cur.core ea then t2.snapshot s.cur.core s.cur.x else t2).postInter (.scalar d v) 5 0
    | 1 => t.post (.scalar d (BitVec.ofNat 64 (t.word r a n))) 6 0
    | _ => t.issueAccess (.load n d) (some r) a f.ord.toNat f.scope.toNat f.ac.toNat true false

/-- LD (R155, R156). -/
def execLd (f : SM) (s : State) : Host.Outcome State Fault Refusal :=
  let ea := f.ea s.me
  runOp {
    reads := [sreg f.base]
    writes := [sreg f.data]
    before := alignCheck ea f.bytes
    after := extentCheck (placeOf f s f.bytes true false) ea
    hold := firstHold [
      if f.fe = 0#2 then .ok else s.fullHold ea.toNat f.bytes,
      s.bankHold (localBanks f.space.toNat ea.toNat f.bytes)]
    eff := loadEffect f s } s

/-- A store in LOCAL is written in its issue cycle (R154), a release after what it publishes (R156, R268); a strong one beside earlier
accesses of its own cycle that it is to follow is written when they have been performed, and its strand waits for it (R272, R273; log
entry 21). -/
def localStoreEffect (ord : Nat) (a : Nat) (bs : List Byte) (full : Bool) (s t : State) : State :=
  let core := s.cur.core
  let x := s.cur.x
  if (ord = 2 ∧ t.allPerformed core x t.seqN = false) ∨ (ord = 3 ∧ t.allReleased core x t.seqN = false) then
    { t with cur := { t.cur with waits := t.cur.waits ++ [.store (decide (ord = 2)) a bs full t.seqN] }, seqN := t.seqN + 1 }
  else (if ord = 2 then t.publish core x s.me.gen t.seqN else t).localStore core a bs full

/-- ST: the bytes written at once in LOCAL and ACC, sent on their way otherwise. -/
def storeEffect (f : SM) (s t : State) : State :=
  let n := f.bytes
  let bs := toBytes n (s.rs f.data).toNat
  match placeOf f s n false true with
  | none => t
  | some (r, a) =>
    match f.space.toNat with
    | 0 => localStoreEffect f.ord.toNat a bs (decide (f.fe = 1#2)) s t
    | 1 => t.putBytes r a bs
    | _ => t.issueAccess (.store bs) (some r) a f.ord.toNat f.scope.toNat f.ac.toNat false true

/-- ST (R155, R156). -/
def execSt (f : SM) (s : State) : Host.Outcome State Fault Refusal :=
  let ea := f.ea s.me
  runOp {
    reads := [sreg f.base, sreg f.data]
    before := alignCheck ea f.bytes
    after := extentCheck (placeOf f s f.bytes false true) ea
    hold := firstHold [s.bankHold (localBanks f.space.toNat ea.toNat f.bytes), releaseHold f s]
    eff := storeEffect f s } s

/-! ### Atomics (R157 to R159) -/

/-- An atomic: in LOCAL and ACC at once, of latency 6; elsewhere an access (R158, R159). -/
def amoEffect (fn : Nat) (f : SM) (s t : State) : State :=
  let n := f.bytes
  let x := (s.rs f.data).toNat
  let w := (s.me.s (f.data.toNat + 1)).toNat
  match placeOf f s n true true with
  | none => t
  | some (r, a) =>
    if f.space.toNat ≤ 1 then
      let old := t.word r a n
      let z := amoValue fn n old x w
      let t1 := match z.1 with
        | some v => t.putBytes r a (toBytes n v)
        | none => t
      if f.data = 0#6 then (t1.modMe fun k => k.raise s.cur.slot z.2 s.cur.ba)
      else t1.post (.scalar f.data.toNat (BitVec.ofNat 64 old)) 6 z.2
    else t.issueAccess (.amo fn n (s.rs f.data) (s.me.s (f.data.toNat + 1)) f.data.toNat) (some r) a f.ord.toNat
      f.scope.toNat f.ac.toNat true false

/-- The operands and checks shared by the atomics. -/
def atomic (fn : Nat) (f : SM) (s : State) : OpSem :=
  let ea := f.ea s.me
  { reads := [sreg f.base, sreg f.data] ++ (if fn = 9 then [(0, f.data.toNat + 1)] else [])
    writes := [sreg f.data]
    before := alignCheck ea f.bytes
    after := extentCheck (placeOf f s f.bytes true true) ea
    hold := s.bankHold (localBanks f.space.toNat ea.toNat f.bytes)
    eff := amoEffect fn f s }

/-- AMOADD (R158). -/
def execAmoadd (f : SM) (s : State) : Host.Outcome State Fault Refusal := runOp (atomic 0 f s) s
/-- AMOAND (R158). -/
def execAmoand (f : SM) (s : State) : Host.Outcome State Fault Refusal := runOp (atomic 1 f s) s
/-- AMOOR (R158). -/
def execAmoor (f : SM) (s : State) : Host.Outcome State Fault Refusal := runOp (atomic 2 f s) s
/-- AMOXOR (R158). -/
def execAmoxor (f : SM) (s : State) : Host.Outcome State Fault Refusal := runOp (atomic 3 f s) s
/-- AMOMIN (R158). -/
def execAmomin (f : SM) (s : State) : Host.Outcome State Fault Refusal := runOp (atomic 4 f s) s
/-- AMOMAX (R158). -/
def execAmomax (f : SM) (s : State) : Host.Outcome State Fault Refusal := runOp (atomic 5 f s) s
/-- AMOMINU (R158). -/
def execAmominu (f : SM) (s : State) : Host.Outcome State Fault Refusal := runOp (atomic 6 f s) s
/-- AMOMAXU (R158). -/
def execAmomaxu (f : SM) (s : State) : Host.Outcome State Fault Refusal := runOp (atomic 7 f s) s
/-- AMOSWP (R158). -/
def execAmoswp (f : SM) (s : State) : Host.Outcome State Fault Refusal := runOp (atomic 8 f s) s
/-- AMOCAS (R158). -/
def execAmocas (f : SM) (s : State) : Host.Outcome State Fault Refusal := runOp (atomic 9 f s) s
/-- AMOFADD (R158). -/
def execAmofadd (f : SM) (s : State) : Host.Outcome State Fault Refusal := runOp (atomic 10 f s) s

/-! ### Full/empty control (R160) -/

/-- FESET and FECLR: g granules from ea set or cleared; a count of 0 has no effect and no range check. -/
def fullOp (f : SM) (b : Bool) (s : State) : OpSem :=
  let ea := f.ea s.me
  let g := (s.rs f.data).toNat
  { reads := [sreg f.base, sreg f.data]
    before := alignCheck ea 16
    after := if g = 0 ∨ s.me.inWindow ea.toNat (16 * g) then none else some (causeEXTENT, ea)
    eff := fun t => t.setFull s.cur.core (ea.toNat / 16) g b }

/-- FESET (R160). -/
def execFeset (f : SM) (s : State) : Host.Outcome State Fault Refusal := runOp (fullOp f true s) s
/-- FECLR (R160). -/
def execFeclr (f : SM) (s : State) : Host.Outcome State Fault Refusal := runOp (fullOp f false s) s

/-- The 64 bits of FEQ: granules past SLIM read 0 (R160). -/
def State.fullBits (s : State) (core ea : Nat) (k : Ctx) : W64 :=
  setOf ((upTo 64).filter fun i => decide (ea + 16 * i < k.scrlim.toNat) && s.full core (ea + 16 * i))

/-- FEQ (R160). -/
def execFeq (f : SM) (s : State) : Host.Outcome State Fault Refusal :=
  let ea := f.ea s.me
  runOp {
    reads := [sreg f.base]
    writes := [sreg f.data]
    before := alignCheck ea 16
    after := if s.me.inWindow ea.toNat 16 then none else some (causeEXTENT, ea)
    eff := fun t => t.putScalar f.data (t.fullBits s.cur.core ea.toNat s.me) 6 0 } s

end Sys2Proof.Machine
end

