-- ==== Sys2Proof/Machine/Pool.lean ====
section
/-!
DEFINITION. Pool instructions and the extent query (spec/11 R161 to R165).
-/

namespace Sys2Proof.Machine

/-- The element size of a pool type (R161). -/
def poolSize (ty : Nat) : Nat := if ty = 1 then 2 else 4

/-- The operands and checks shared by the pool instructions (R162): `src` where s[B] is a LOCAL address. The checks of places are made
with L = 0 too (log entry 36). -/
def poolOp (fn : Nat) (useB src : Bool) (f : SR) (s : State) : OpSem :=
  let ty := (field f.cc 0 2).toNat
  let e := poolSize ty
  let a := s.rs f.a
  let b := s.rs f.b
  let l := s.rs f.c
  { reads := [sreg f.a, sreg f.c] ++ (if useB then [sreg f.b] else [])
    writes := [sreg f.d]
    before :=
      if a.toNat % e ≠ 0 then some (causeALIGN, a)
      else if src && decide (b.toNat % e ≠ 0) then some (causeALIGN, b)
      else if l.toNat % e ≠ 0 then some (causeALIGN, l)
      else none
    after :=
      if 268435456 ≤ a.toNat ∨ 67108864 < a.toNat % 67108864 + l.toNat then some (causeEXTENT, a)
      else if src && !s.me.inWindow b.toNat l.toNat then some (causeEXTENT, b)
      else none
    eff := fun t => t.issueAccess (.pool fn ty (field f.cc 2 2).toNat a b l.toNat f.d.toNat 0 0) (some (.pool (a.toNat / 67108864)))
      (a.toNat % 67108864) 3 3 0 true true }

/-- POOLADD (R161 to R164). -/
def execPooladd (f : SR) (s : State) : Host.Outcome State Fault Refusal := runOp (poolOp 0 true true f s) s
/-- POOLMAX (R161 to R164). -/
def execPoolmax (f : SR) (s : State) : Host.Outcome State Fault Refusal := runOp (poolOp 1 true true f s) s
/-- POOLRED (R161 to R164). -/
def execPoolred (f : SR) (s : State) : Host.Outcome State Fault Refusal := runOp (poolOp 2 false false f s) s
/-- POOLFILL (R161 to R164). -/
def execPoolfill (f : SR) (s : State) : Host.Outcome State Fault Refusal := runOp (poolOp 3 true false f s) s

/-- One element of POOLADD, POOLMAX or POOLFILL updated: its bytes and flags (R163). -/
def poolElement (fn ty : Nat) (sat : Bool) (p l : Nat) : Nat × BitVec 7 :=
  let fp (m : FVal → FVal → FVal × BitVec 7) : Nat × BitVec 7 :=
    let z := if ty = 0 then m (decodeF f32 p) (decodeF f32 l) else m (decodeF bf16 p) (decodeF bf16 l)
    let r := roundV (if ty = 0 then f32 else bf16) .rne z.1
    (r.1, z.2 ||| r.2)
  match fn with
  | 0 =>
    if ty < 2 then fp (addV .rne)
    else if sat then
      let r := if ty = 2 then satI32 (sextInt p 32 + sextInt l 32) else satI ((p + l : Nat) : Int) 0 4294967295
      (wrapNat r.1 32, r.2)
    else ((p + l) % 2 ^ 32, 0)
  | 1 =>
    if ty < 2 then fp (minMaxV true)
    else if ty = 2 then (if sextInt p 32 < sextInt l 32 then l else p, 0)
    else (max p l, 0)
  | _ => (l, 0)

/-- An element of POOLRED widened, with the flags of a conversion (R97, R163). -/
def poolWiden (ty x : Nat) : W64 × BitVec 7 :=
  match ty with
  | 1 => (zext64 (cvtBF16F32 (BitVec.ofNat 16 x)).1, (cvtBF16F32 (BitVec.ofNat 16 x)).2)
  | 2 => (BitVec.ofInt 64 (sextInt x 32), 0)
  | _ => (BitVec.ofNat 64 x, 0)

/-- One step of the fold of POOLRED: the running value with the next element, and its flags (R163). -/
def poolFold (ty qual : Nat) (sum : W64) (x : Nat) : W64 × BitVec 7 :=
  let w := poolWiden ty x
  if ty < 2 then
    let a := vF32 (field sum 0 32)
    let b := vF32 (field w.1 0 32)
    let v := match qual with
      | 0 => rndF32 .rne (addV .rne a b)
      | 1 => rndF32 .rne (minMaxV true a b)
      | _ => rndF32 .rne (minMaxV false a b)
    (zext64 v.1, w.2 ||| v.2)
  else
    (match qual with
      | 0 => sum + w.1
      | 1 => if sum.toInt < w.1.toInt then w.1 else sum
      | _ => if w.1.toInt < sum.toInt then w.1 else sum, 0)

/-- EXTQ (R165): it never faults. -/
def execExtq (f : SR) (s : State) : Host.Outcome State Fault Refusal :=
  let va := (s.rs f.a).toNat
  let n := max (s.rs f.b).toNat 1
  let hit := if canonical va then s.me.extentHit (va % 2 ^ 57) n else none
  let v : W64 := match hit with
    | none => 0
    | some (i, e) => BitVec.ofNat 64 (2 ^ 63 + i * 2 ^ 53 + (if e.w then 2 ^ 52 else 0) + (if e.r then 2 ^ 51 else 0)
        + (e.pbase + (va % 2 ^ 57 - e.vbase)) % 2 ^ 48)
  runOp {
    reads := [sreg f.a, sreg f.b]
    writes := [sreg f.d]
    eff := fun t => t.putScalar f.d v 3 0 } s

end Sys2Proof.Machine
end

