-- ==== Sys2Proof/Machine/Strands.lean ====
section
/-!
DEFINITION. FORK and JOIN (spec/03 R26 to R34, spec/09 R111, R112).
-/

namespace Sys2Proof.Machine

/-! ### The fork descriptor (R26, R27) -/

/-- The eight words of a 64-byte image. -/
def wordsOf (bs : List Byte) : List W64 := (upTo 8).map fun i => BitVec.ofNat 64 (ofBytes ((bs.drop (8 * i)).take 8))

def forkMask (d : List W64) (g : Nat) : BitVec 8 := field (d.getD 0 0) (8 * g) 8

def forkEntry (d : List W64) (g : Nat) : W64 := if g = 0 then 0 else d.getD g 0

/-- NG + 1. -/
def forkGroups (d : List W64) : Nat := (field (d.getD 0 0) 32 2).toNat + 1

/-- The owner fields of SPART, VPART, MPART and PPART. -/
def sPart (d : List W64) (i : Nat) : Nat := (field (d.getD (4 + i / 32) 0) (2 * (i % 32)) 2).toNat
def vPart (d : List W64) (i : Nat) : Nat := (field (d.getD 6 0) (2 * i) 2).toNat
def mPart (d : List W64) (i : Nat) : Nat := (field (d.getD 7 0) (2 * i) 2).toNat
def pPart (d : List W64) (i : Nat) : Nat := (field (d.getD 7 0) (2 * i + 16) 2).toNat

/-- The descriptor is one that FORK accepts from this strand in this context (R27). -/
def forkOk (d : List W64) (t : Strand) (strands : Nat) : Bool :=
  let n := forkGroups d
  let used := upTo n
  let unused := (upTo 4).filter fun g => decide (n ≤ g)
  (used.all fun g => decide (forkMask d g ≠ 0#8)) && (unused.all fun g => decide (forkMask d g = 0#8))
    && (used.all fun g => used.all fun h => decide (g = h ∨ forkMask d g &&& forkMask d h = 0#8))
    && decide (used.foldl (fun m g => m ||| forkMask d g) 0#8 = t.slots)
    && bitAt (forkMask d 0) 0
    && decide (strands + n - 1 ≤ 4)
    && (used.all fun g => decide ((forkEntry d g).toNat % 8 = 0)) && (unused.all fun g => decide (forkEntry d g = 0#64))
    && decide ((d.getD 0 0).toNat / 2 ^ 34 = 0 ∧ (d.getD 7 0).toNat / 2 ^ 32 = 0 ∧ mPart d 0 = 0 ∧ pPart d 0 = 0)
    && ((upTo 64).all fun i => decide (i = 0) || !t.sOwn.getLsbD i || decide (sPart d i < n))
    && ((upTo 32).all fun i => !t.vOwn.getLsbD i || decide (vPart d i < n))
    && ((upTo 8).all fun i => !t.mOwn.getLsbD i || decide (mPart d i < n))
    && ((upTo 8).all fun i => !t.pOwn.getLsbD i || decide (pPart d i < n))

/-- Group g of an accepted descriptor: what it owns of the issuing strand's registers (R26, R27). -/
def forkGroup (d : List W64) (t : Strand) (g : Nat) : Group where
  slots := forkMask d g
  entry := forkEntry d g
  sOwn := setOf ((upTo 64).filter fun i => t.sOwn.getLsbD i && decide ((if i = 0 then 0 else sPart d i) = g))
  vOwn := setOf ((upTo 32).filter fun i => t.vOwn.getLsbD i && decide (vPart d i = g))
  mOwn := setOf ((upTo 8).filter fun i => t.mOwn.getLsbD i && decide (mPart d i = g))
  pOwn := setOf ((upTo 8).filter fun i => t.pOwn.getLsbD i && decide (pPart d i = g))

/-- A LOCAL image of n bytes read at issue: what stood there at the start of the cycle (R154). -/
def State.imageAtIssue (s : State) (a n : Nat) : List Byte := s.memStart.run (cellKey (.scratch s.cur.core) a) n

/-- FORK (R26 to R28, R111); in a handler it is ILLEGAL (R35). The split follows the bundle's other effects. -/
def execFork (f : TS) (s : State) : Host.Outcome State Fault Refusal :=
  let a := s.rs f.a
  let d := wordsOf (s.imageAtIssue a.toNat 64)
  runOp {
    reads := [sreg f.a]
    before := if s.me.inhdl then some s.illegal else if a.toNat % 64 = 0 then none else some (causeALIGN, a)
    after :=
      if !s.me.inWindow a.toNat 64 then some (causeEXTENT, a)
      else if forkOk d s.myStrand s.me.strands.length then none else some s.illegal
    hold := s.bankHold (banksOfRun a.toNat 64)
    eff := fun t => { t with cur := { t.cur with fork := some ((upTo (forkGroups d)).map (forkGroup d s.myStrand)) } } } s

/-! ### JOIN (R33, R112) -/

/-- The mask is the union of the slot sets of current strands. -/
def maskOfStrands (ts : List Strand) (m : BitVec 8) : Bool :=
  ts.all fun t => decide (t.slots &&& m = 0#8 ∨ t.slots &&& m = t.slots)

/-- A strand named in M waits at a JOIN whose mask differs from M. -/
def joinClash (ts : List Strand) (m : BitVec 8) : Bool :=
  ts.any fun t => decide (t.slots &&& m ≠ 0#8) && (match t.joinMask with
    | some w => decide (w ≠ m)
    | none => false)

/-- The mismatch of R33 for a JOIN of strand t with mask m among the current strands. -/
def joinInvalid (ts : List Strand) (t : Strand) (m : BitVec 8) : Bool :=
  !maskOfStrands ts m || decide (t.slots &&& m ≠ t.slots) || joinClash ts m

/-- A mask at which every strand that it names waits. -/
def joinReady (ts : List Strand) : Option (BitVec 8) :=
  (sortStrands ts).findSome? fun t => t.joinMask.bind fun m =>
    if ts.all fun u => decide (u.slots &&& m = 0#8 ∨ u.joinMask = some m) then some m else none

/-- A strand without its JOIN. -/
def Strand.passJoin (t : Strand) : Strand :=
  { t with waits := t.waits.filter fun w => match w with
      | .join _ => false
      | _ => true }

/-- The strands with the partners of a mask merged into the lowest one, as the stamp says when (R34). -/
def mergeStrands (seq : Nat) (m : BitVec 8) (ts : List Strand) : List Strand :=
  match (sortStrands ts).filter fun t => decide (t.slots &&& m ≠ 0#8) with
  | [] => ts
  | lead :: rest =>
    ts.filter (fun t => decide (t.slots &&& m = 0#8)) ++ [{ lead.passJoin with
      slots := m
      sOwn := rest.foldl (fun a t => a ||| t.sOwn) lead.sOwn
      vOwn := rest.foldl (fun a t => a ||| t.vOwn) lead.vOwn
      mOwn := rest.foldl (fun a t => a ||| t.mOwn) lead.mOwn
      pOwn := rest.foldl (fun a t => a ||| t.pOwn) lead.pOwn
      waits := rest.foldl (fun a t => a ++ t.passJoin.waits) lead.passJoin.waits
      anc := rest.foldl (fun a t => a ++ t.anc) lead.anc
      joined := seq }]

/-- The waiting JOIN of a strand is no longer valid (R34). -/
def joinBroken (ts : List Strand) (t : Strand) : Bool :=
  match t.joinMask with
  | some m => joinInvalid ts t m
  | none => false

/-- Strands whose JOIN is no longer valid stand before it again (R34): the JOIN counts as not issued, while what else its bundle did, its
end-of-body test among it, stands (log entry 36). -/
def putBack (ts : List Strand) : List Strand :=
  ts.map fun t => if joinBroken ts t then { t with pc := t.waitBa, waits := [] } else t

/-- The arrival of the strand whose lowest slot is given, with what it completes (R34). -/
def arriveAt (m : BitVec 8) (low : Nat) (ts : List Strand) : List Strand :=
  let at' := ts.map fun t => if t.low = low ∧ t.slots ≠ m then { t with waits := [.join m] } else t
  match joinReady at' with
  | none => at'
  | some g => putBack (mergeStrands 0 g at')

/-- The strands as a JOIN finds them: the arrivals of lower strands in the same cycle have been taken before it, with what they
complete (R34). -/
def State.strandsAtJoin (s : State) : List Strand :=
  (upTo s.cur.slot).foldl (fun ts i => match s.cur.others.find? fun o => decide (o.1 = i) with
    | some (_, .join f) => arriveAt (field f.imm 0 8) i ts
    | _ => ts) s.me.strands

/-- The mismatch of R33 for the issuing strand, beside the arrivals of lower slots in its cycle (log entry 36). -/
def joinMismatch (s : State) (m : BitVec 8) : Bool := joinInvalid s.strandsAtJoin s.myStrand m

/-- JOIN (R33, R112): a valid arrival waits; the issuer's own slot set completes at once. -/
def execJoin (f : TS) (s : State) : Host.Outcome State Fault Refusal :=
  let m : BitVec 8 := field f.imm 0 8
  runOp {
    after := if joinMismatch s m then some (causeJOIN, zext64 m) else none
    eff := fun t => if m = s.myStrand.slots then t else t.await (.join m) } s

end Sys2Proof.Machine
end

