-- ==== Sys2Proof/Machine/VectorArith.lean ====
section
/-!
DEFINITION. Element-wise vector arithmetic, compares, selection, conversion and quantisation (spec/13 R166 to R179).
-/

namespace Sys2Proof.Machine

/-! ### Lanes -/

/-- A vector register as the issuing operation reads it. -/
def State.vr (s : State) (r : BitVec 5) : VReg := s.me.v r.toNat

/-- A mask register as the issuing operation reads it. -/
def State.mr (s : State) (r : BitVec 3) : LaneMask := s.me.m r.toNat

/-- Element e of a register. -/
def elemOf (v : VReg) (e : Nat) : W32 := v.getD e 0

/-- A set of lanes from a test of each. -/
def lanesWhere (p : Nat → Bool) : LaneMask := setOf ((upTo 1024).filter p)

/-- An operation that writes the active lanes of VD, each from its own result (R166, R167): its sources are read at issue,
and its results land `latency` vector cycles later (R70, R354). -/
def vectorOp (f : VR) (reads : List (Nat × Nat)) (latency interval : Nat) (g : Nat → W32 × BitVec 7) (s : State) : OpSem where
  reads := mreg f.mask :: reads
  writes := [vreg f.vd]
  hold := if interval = 1 then .ok else s.intervalHold
  eff := fun t =>
    let lanes := s.mr f.mask
    let r := perLane lanes g
    (if interval = 1 then t else t.occupySlot interval).postV (.vector f.vd.toNat lanes r.1) latency r.2

/-! ### Element-wise arithmetic (R169 to R172) -/

/-- One lane of a two-source operation: `gf` on floating-point values, `gi` on integers given with their bit patterns. -/
def lane2 (f : VR) (gf : Rnd → FVal → FVal → FVal × BitVec 7) (gi : Int × Nat → Int × Nat → Int) (a b : W32) : W32 × BitVec 7 :=
  if f.isFloat then f.dest (gf (Rnd.ofCode f.rnd) (f.srcA a) (f.srcB b))
  else putI f.type.toNat (bitAt f.aux 5) (gi (elemI f.type.toNat a) (elemI f.type.toNat b))

/-- A two-source element-wise operation. -/
def element2 (f : VR) (gf : Rnd → FVal → FVal → FVal × BitVec 7) (gi : Int × Nat → Int × Nat → Int) (s : State) : OpSem :=
  let a := s.vr f.va
  let b := s.vr f.vb
  vectorOp f [vreg f.va, vreg f.vb] 8 4 (fun i => lane2 f gf gi (elemOf a i) (elemOf b i)) s

/-- A two-source operation that has no floating-point form. -/
def noFloat : Rnd → FVal → FVal → FVal × BitVec 7 := fun _ a _ => (a, 0)

/-- The shift amount b[5:0] (R171). -/
def laneShift (b : Int × Nat) : Nat := b.2 % 64

/-- VADD (R171). -/
def execVadd (f : VR) (s : State) : Host.Outcome State Fault Refusal := runOp (element2 f addV (fun a b => a.1 + b.1) s) s
/-- VSUB (R171). -/
def execVsub (f : VR) (s : State) : Host.Outcome State Fault Refusal := runOp (element2 f subV (fun a b => a.1 - b.1) s) s
/-- VMUL (R171). -/
def execVmul (f : VR) (s : State) : Host.Outcome State Fault Refusal :=
  runOp (element2 f (fun _ => mulV) (fun a b => a.1 * b.1) s) s
/-- VMIN (R171). -/
def execVmin (f : VR) (s : State) : Host.Outcome State Fault Refusal :=
  runOp (element2 f (fun _ => minMaxV false) (fun a b => min a.1 b.1) s) s
/-- VMAX (R171). -/
def execVmax (f : VR) (s : State) : Host.Outcome State Fault Refusal :=
  runOp (element2 f (fun _ => minMaxV true) (fun a b => max a.1 b.1) s) s
/-- VAND (R171). -/
def execVand (f : VR) (s : State) : Host.Outcome State Fault Refusal :=
  runOp (element2 f noFloat (fun a b => ((a.2 &&& b.2 : Nat) : Int)) s) s
/-- VOR (R171). -/
def execVor (f : VR) (s : State) : Host.Outcome State Fault Refusal :=
  runOp (element2 f noFloat (fun a b => ((a.2 ||| b.2 : Nat) : Int)) s) s
/-- VXOR (R171). -/
def execVxor (f : VR) (s : State) : Host.Outcome State Fault Refusal :=
  runOp (element2 f noFloat (fun a b => ((a.2 ^^^ b.2 : Nat) : Int)) s) s
/-- VSHL (R171): the bits shifted past the width are lost in the wrap of R170. -/
def execVshl (f : VR) (s : State) : Host.Outcome State Fault Refusal :=
  runOp (element2 f noFloat (fun a b => a.1 * 2 ^ laneShift b) s) s
/-- VSHR (R171). -/
def execVshr (f : VR) (s : State) : Host.Outcome State Fault Refusal :=
  runOp (element2 f noFloat (fun a b => ((a.2 / 2 ^ laneShift b : Nat) : Int)) s) s
/-- VSAR (R171): the floor of a / 2^k, so that sign bits come in. -/
def execVsar (f : VR) (s : State) : Host.Outcome State Fault Refusal :=
  runOp (element2 f noFloat (fun a b => Int.fdiv a.1 (2 ^ laneShift b)) s) s

/-- VFMA (R172). -/
def execVfma (f : VR) (s : State) : Host.Outcome State Fault Refusal :=
  let a := s.vr f.va
  let b := s.vr f.vb
  let c := s.vr f.vc
  runOp (vectorOp f [vreg f.va, vreg f.vb, vreg f.vc] 8 4 (fun i =>
    f.dest (fmaV (Rnd.ofCode f.rnd) (f.srcA (elemOf a i)) (f.srcB (elemOf b i)) (f.srcC (elemOf c i)))) s) s

/-! ### Compares and selection (R173 to R175) -/

/-- The relation of one lane and its flags (R53, R90, R173). -/
def laneRel (f : VR) (a b : W32) : Bool × BitVec 7 :=
  if f.isFloat then relFloat f.aux.toNat (f.srcA a) (f.srcB b)
  else
    let x := elemI f.type.toNat a
    let y := elemI f.type.toNat b
    (relInt f.aux.toNat x.1 y.1 x.2 y.2, 0)

/-- The active lanes that satisfy the relation, and the flags of all active lanes. -/
def State.compareLanes (s : State) (f : VR) : LaneMask × BitVec 7 :=
  let lanes := s.mr f.mask
  let a := s.vr f.va
  let b := s.vr f.vb
  (lanesWhere fun i => lanes.getLsbD i && (laneRel f (elemOf a i) (elemOf b i)).1,
    (upTo 1024).foldl (fun c i => if lanes.getLsbD i then c ||| (laneRel f (elemOf a i) (elemOf b i)).2 else c) 0#7)

/-- VCMP (R173): inactive lanes are written with 0. -/
def execVcmp (f : VR) (s : State) : Host.Outcome State Fault Refusal :=
  let md := f.vd.toNat % 8
  runOp {
    reads := [mreg f.mask, vreg f.va, vreg f.vb]
    writes := [(2, md)]
    eff := fun t => t.postV (.mask md (BitVec.allOnes 1024) (s.compareLanes f).1) 6 (s.compareLanes f).2 } s

/-- VCMPQ: the entry pushed is `p` of the satisfying and the active lanes (R174). -/
def compareQueue (f : VR) (p : LaneMask → LaneMask → Bool) (s : State) : OpSem :=
  let q := (field f.vd 0 2).toNat
  { reads := [mreg f.mask, vreg f.va, vreg f.vb]
    hold := s.pushHold q
    eff := fun t => t.postV (.queue q (p (s.compareLanes f).1 (s.mr f.mask))) 9 (s.compareLanes f).2 }

/-- VCMPQ.ANY (R174). -/
def execVcmpqAny (f : VR) (s : State) : Host.Outcome State Fault Refusal :=
  runOp (compareQueue f (fun hit _ => decide (hit ≠ 0#1024)) s) s

/-- VCMPQ.ALL (R174): 1 when no lane is active. -/
def execVcmpqAll (f : VR) (s : State) : Host.Outcome State Fault Refusal :=
  runOp (compareQueue f (fun hit act => decide (hit = act)) s) s

/-- VSEL (R175): all 32 bits of the chosen element, without a flag. -/
def execVsel (f : VR) (s : State) : Host.Outcome State Fault Refusal :=
  let ms : BitVec 3 := field f.vc 0 3
  let sel := s.mr ms
  let a := s.vr f.va
  let b := s.vr f.vb
  runOp (vectorOp f [mreg ms, vreg f.va, vreg f.vb] 8 4
    (fun i => (if sel.getLsbD i then elemOf a i else elemOf b i, 0)) s) s

/-! ### Conversion and quantisation (R176 to R179) -/

/-- An integer, or the trit of a T2 code with its TCODE (R87, R97). -/
def sourceInt (src : Nat) (w : W32) : Int × BitVec 7 := if src = 6 then t2Dec (w.toNat % 4) else ((elemI src w).1, 0)

/-- An integer into an integer or T2 destination (R97): a T2 destination always saturates. -/
def destInt (dst : Nat) (sat : Bool) (x : Int) : W32 × BitVec 7 :=
  if dst = 6 then (BitVec.ofNat 32 (t2Enc (satI x (-1) 1).1), (satI x (-1) 1).2) else putI dst sat x

/-- A floating-point value into an integer or T2 destination (R97). -/
def floatDest (dst : Nat) (m : Rnd) (v : FVal) : W32 × BitVec 7 :=
  let r := if dst = 6 then floatToTrit m v else floatToInt m (typeRange dst).1 (typeRange dst).2 v
  ((destInt dst false r.1).1, r.2)

/-- One lane of VCVT (R97, R176, R177): AUX[2:0] is the source type. -/
def convertLane (f : VR) (w : W32) : W32 × BitVec 7 :=
  let src := (field f.aux 0 3).toNat
  if src ≤ 1 then
    let v := srcF src f.fi f.aa f.na w
    if f.isFloat then f.dest (v.quiet, sigFlags [v]) else floatDest f.type.toNat (Rnd.ofCode f.rnd) v
  else
    let x := sourceInt src w
    if f.isFloat then f.dest (intV x.1, x.2)
    else
      let r := destInt f.type.toNat (bitAt f.aux 5) x.1
      (r.1, x.2 ||| r.2)

/-- VCVT (R176, R177). -/
def execVcvt (f : VR) (s : State) : Host.Outcome State Fault Refusal :=
  let a := s.vr f.va
  runOp (vectorOp f [vreg f.va] 6 1 (fun i => convertLane f (elemOf a i)) s) s

/-- The exact value times 2^e. -/
def FVal.scaled (v : FVal) (e : Int) : FVal :=
  match v with
  | .fin n a d k => .fin n a d (k + e)
  | _ => v

/-- One lane of VQUANT (R179): the scale in VB is F32 whatever TYPE is. -/
def quantLane (f : VR) (a b : W32) : W32 × BitVec 7 :=
  let x := srcF (field f.aux 0 3).toNat f.fi f.aa f.na a
  let y := srcF 0 f.fi f.ab f.nb b
  if x.isNan || y.isNan then (0, flagINV)
  else
    match mulCore x y with
    | none => (0, flagINV)
    | some v => floatDest f.type.toNat (Rnd.ofCode f.rnd) (v.scaled f.scale.toInt)

/-- VQUANT (R179). -/
def execVquant (f : VR) (s : State) : Host.Outcome State Fault Refusal :=
  let a := s.vr f.va
  let b := s.vr f.vb
  runOp (vectorOp f [vreg f.va, vreg f.vb] 8 4 (fun i => quantLane f (elemOf a i) (elemOf b i)) s) s

/-- One lane of VDEQ (R179). -/
def dequantLane (f : VR) (a b : W32) : W32 × BitVec 7 :=
  let x := sourceInt (field f.aux 0 3).toNat a
  let r := mulV (intV x.1) (srcF 0 0#1 f.ab f.nb b)
  f.dest (r.1, x.2 ||| r.2)

/-- VDEQ (R179). -/
def execVdeq (f : VR) (s : State) : Host.Outcome State Fault Refusal :=
  let a := s.vr f.va
  let b := s.vr f.vb
  runOp (vectorOp f [vreg f.va, vreg f.vb] 8 4 (fun i => dequantLane f (elemOf a i) (elemOf b i)) s) s

end Sys2Proof.Machine
end

