-- ==== Sys2Proof/Machine/VectorMove.lean ====
section
/-!
DEFINITION. Moves and masks, cross-lane operations, reductions and special-function tables (spec/13 R180 to R188).
-/

namespace Sys2Proof.Machine

/-! ### Moves (R180) -/

/-- VMOV (R180). -/
def execVmov (f : VR) (s : State) : Host.Outcome State Fault Refusal :=
  let a := s.vr f.va
  runOp (vectorOp f [vreg f.va] 4 1 (fun i => (elemOf a i, 0)) s) s

/-- POS of VMOVS and VMOVX: bits [37:28], which are VB and VC (R180). -/
def VR.pos (f : VR) : Nat := f.vb.toNat * 32 + f.vc.toNat

/-- VMOVS (R180): the value goes to every active element, or to element POS alone if active. -/
def execVmovs (f : VR) (s : State) : Host.Outcome State Fault Refusal :=
  let v := s.rs f.aux
  let w : W32 := if f.type = 1#3 then BitVec.ofNat 32 (v.toNat % 65536 * 65536) else field v 0 32
  let lanes := if bitAt f.va 0 then s.mr f.mask else s.mr f.mask &&& BitVec.ofNat 1024 (2 ^ VR.pos f)
  runOp {
    reads := [mreg f.mask, sreg f.aux]
    writes := [vreg f.vd]
    eff := fun t => t.postV (.vector f.vd.toNat lanes (Vector.replicate 1024 w)) 6 0 } s

/-- VMOVX (R180). -/
def execVmovx (f : VR) (s : State) : Host.Outcome State Fault Refusal :=
  let w := elemOf (s.vr f.va) (VR.pos f)
  let v : W64 := match f.type.toNat with
    | 1 => zext64 (field w 16 16 : BitVec 16)
    | 2 => sext64 w
    | _ => zext64 w
  runOp {
    reads := [vreg f.va]
    writes := [sreg f.aux]
    eff := fun t => t.postV (.scalar f.aux.toNat v) 6 0 } s

/-- VIOTA (R180). -/
def execViota (f : VR) (s : State) : Host.Outcome State Fault Refusal :=
  runOp (vectorOp f [] 4 1 (fun i => (BitVec.ofNat 32 i, 0)) s) s

/-! ### Masks (R181) -/

/-- A mask operation over all 1,024 bits. -/
def maskOp (f : VR) (useB : Bool) (g : LaneMask → LaneMask → LaneMask) (s : State) : OpSem :=
  let md := f.vd.toNat % 8
  let a : BitVec 3 := field f.va 0 3
  let b : BitVec 3 := field f.vb 0 3
  { reads := mreg a :: (if useB then [mreg b] else [])
    writes := [(2, md)]
    eff := fun t => t.postV (.mask md (BitVec.allOnes 1024) (g (s.mr a) (s.mr b))) 2 0 }

/-- MAND (R181). -/
def execMand (f : VR) (s : State) : Host.Outcome State Fault Refusal := runOp (maskOp f true (fun a b => a &&& b) s) s
/-- MOR (R181). -/
def execMor (f : VR) (s : State) : Host.Outcome State Fault Refusal := runOp (maskOp f true (fun a b => a ||| b) s) s
/-- MXOR (R181). -/
def execMxor (f : VR) (s : State) : Host.Outcome State Fault Refusal := runOp (maskOp f true (fun a b => a ^^^ b) s) s
/-- MNOT (R181). -/
def execMnot (f : VR) (s : State) : Host.Outcome State Fault Refusal := runOp (maskOp f false (fun a _ => ~~~a) s) s

/-- MPOP (R181). -/
def execMpop (f : VR) (s : State) : Host.Outcome State Fault Refusal :=
  let a : BitVec 3 := field f.va 0 3
  runOp {
    reads := [mreg a]
    writes := [sreg f.aux]
    eff := fun t => t.postV (.scalar f.aux.toNat (BitVec.ofNat 64 (popCount (s.mr a) 1024))) 4 0 } s

/-! ### Cross-lane moves (R182) -/

/-- Each active lane receives the element of VA that `from'` names. -/
def crossLane (f : VR) (reads : List (Nat × Nat)) (latency : Nat) (from' : Nat → Nat) (s : State) : OpSem :=
  let a := s.vr f.va
  vectorOp f (vreg f.va :: reads) latency 1 (fun e => (elemOf a (from' e), 0)) s

/-- VROT.R (R182). -/
def execVrotR (f : VR) (s : State) : Host.Outcome State Fault Refusal :=
  runOp (crossLane f [] 6 (fun e => e / 64 * 64 + (e % 64 + 64 - f.aux.toNat) % 64) s) s

/-- VROT.C (R182). -/
def execVrotC (f : VR) (s : State) : Host.Outcome State Fault Refusal :=
  runOp (crossLane f [] 4 (fun e => (e / 64 + 16 - f.aux.toNat % 16) % 16 * 64 + e % 64) s) s

/-- VBC.R (R182). -/
def execVbcR (f : VR) (s : State) : Host.Outcome State Fault Refusal :=
  runOp (crossLane f [] 5 (fun e => e / 64 * 64 + f.aux.toNat) s) s

/-- VBC.C (R182). -/
def execVbcC (f : VR) (s : State) : Host.Outcome State Fault Refusal :=
  runOp (crossLane f [] 4 (fun e => f.aux.toNat % 16 * 64 + e % 64) s) s

/-- VSHUF (R182): within rows, or across the register with AUX[0]. -/
def execVshuf (f : VR) (s : State) : Host.Outcome State Fault Refusal :=
  let x := s.vr f.vb
  runOp (crossLane f [vreg f.vb] 8 (fun e =>
    if bitAt f.aux 0 then (elemOf x e).toNat % 1024 else e / 64 * 64 + (elemOf x e).toNat % 64) s) s

/-! ### Reductions (R183, R184) -/

/-- The lanes of row g, or of column g. -/
def groupLanes (rows : Bool) (g : Nat) : List Nat :=
  if rows then (upTo 64).map fun j => 64 * g + j else (upTo 16).map fun i => 64 * i + g

/-- One step of the tree: sum, maximum or minimum of two F32 encodings, rounded in the mode of the operation. -/
def redStep (op : Nat) (m : Rnd) (a b : W32) : W32 × BitVec 7 :=
  match op with
  | 1 => rndF32 m (minMaxV true (vF32 a) (vF32 b))
  | 2 => rndF32 m (minMaxV false (vF32 a) (vF32 b))
  | _ => rndF32 m (addV m (vF32 a) (vF32 b))

/-- The identity that an inactive lane contributes (R184). -/
def redIdentity (op : Nat) : W32 :=
  match op with
  | 1 => 0xFF800000#32
  | 2 => 0x7F800000#32
  | _ => 0#32

/-- One level of the tree: neighbours combined, flags gathered. -/
def redLevel (op : Nat) (m : Rnd) : List W32 → List W32 × BitVec 7
  | a :: b :: r =>
    let z := redStep op m a b
    let t := redLevel op m r
    (z.1 :: t.1, z.2 ||| t.2)
  | l => (l, 0)

/-- The levels of the tree, from 2^levels leaves. -/
def redTree (op : Nat) (m : Rnd) : Nat → List W32 → W32 × BitVec 7
  | 0, l => (l.headD 0, 0)
  | n + 1, l =>
    let t := redLevel op m l
    let r := redTree op m n t.1
    (r.1, t.2 ||| r.2)

/-- A leaf: the source after FI and the modifiers of A, BF16 widened exactly (R184, R188). -/
def VR.leaf (f : VR) (w : W32) : W32 := BitVec.ofNat 32 (roundV f32 .rne (VR.srcA f w)).1

/-- The floating-point reduction of one row or column (R184). -/
def redFloat (f : VR) (lanes : LaneMask) (v : VReg) (rows : Bool) (g : Nat) : W32 × BitVec 7 :=
  let op := (field f.aux 0 2).toNat
  let m := Rnd.ofCode f.rnd
  let leaves : List (W32 × BitVec 7) := (groupLanes rows g).map fun e =>
    if lanes.getLsbD e then
      let x := VR.leaf f (elemOf v e)
      if op = 3 then rndF32 m (mulV (vF32 x) (vF32 x)) else (x, 0)
    else (redIdentity op, 0)
  let t := redTree op m (if rows then 6 else 4) (leaves.map Prod.fst)
  VR.dest f (vF32 t.1, leaves.foldl (fun c x => c ||| x.2) t.2)

/-- The I32 reduction of one row or column: exact over the active lanes, then R170. -/
def redInt (f : VR) (lanes : LaneMask) (v : VReg) (rows : Bool) (g : Nat) : W32 × BitVec 7 :=
  let xs := ((groupLanes rows g).filter fun e => lanes.getLsbD e).map fun e => (elemI 2 (elemOf v e)).1
  let r : Int := match (field f.aux 0 2).toNat with
    | 0 => xs.foldl (fun a x => a + x) 0
    | 1 => xs.foldl (fun a x => max a x) (xs.headD 0)
    | 2 => xs.foldl (fun a x => min a x) (xs.headD 0)
    | _ => xs.foldl (fun a x => a + x * x) 0
  putI 2 (bitAt f.aux 5) r

/-- A reduction: each group's result goes to its active elements (R183). -/
def reduction (f : VR) (rows : Bool) (latency : Nat) (s : State) : OpSem :=
  let v := s.vr f.va
  let lanes := s.mr f.mask
  let groups : Vector (W32 × BitVec 7) 64 := Vector.ofFn fun g : Fin 64 =>
    if f.type.toNat ≤ 1 then redFloat f lanes v rows g.val else redInt f lanes v rows g.val
  vectorOp f [vreg f.va] latency 1 (fun e => groups.getD (if rows then e / 64 else e % 64) (0, 0)) s

/-- VRED.R (R183, R184). -/
def execVredR (f : VR) (s : State) : Host.Outcome State Fault Refusal := runOp (reduction f true 14 s) s

/-- VRED.C (R183, R184). -/
def execVredC (f : VR) (s : State) : Host.Outcome State Fault Refusal := runOp (reduction f false 10 s) s

/-! ### Special-function tables (R185 to R188) -/

/-- Table n of a context. -/
def Ctx.table (k : Ctx) (n : Nat) : SfuTable := k.tables.getD n (Vector.replicate 260 0)

/-- VSFTAB (R187): the image is read at issue and replaces the table whole 8q issue cycles later. -/
def execVsftab (f : VR) (s : State) : Host.Outcome State Fault Refusal :=
  let v := s.vr f.va
  let image : SfuTable := Vector.ofFn fun w : Fin 260 => elemOf v w.val
  runOp {
    reads := [vreg f.va]
    eff := fun t => t.modMe fun k => { k with tableLoads := k.tableLoads ++ [⟨(field f.aux 0 3).toNat, image, 8 * s.myCore.q⟩] } } s

/-- The exact t − g and g of R188 for finite x, LO and INVW: t as a fraction over a power of two. -/
def segmentOf (n1 : Bool) (a1 d1 : Nat) (e1 : Int) (n2 : Bool) (a2 d2 : Nat) (e2 : Int) (n3 : Bool) (a3 d3 : Nat) (e3 : Int) :
    Int × FVal :=
  let e0 := min e1 e2
  let diff := scaledInt n1 (a1 * d2) e1 e0 - scaledInt n2 (a2 * d1) e2 e0
  let num : Int := (if n3 then -diff else diff) * (a3 : Int) * 2 ^ (e0 + e3).toNat
  let den : Nat := d1 * d2 * d3 * 2 ^ (-(e0 + e3)).toNat
  let g := Int.fdiv num (den : Int)
  (g, .fin false (num - g * (den : Int)).toNat den 0)

/-- One lane of VSFU before fp_dest (R188): the exact r and the Invalid of a signalling input. -/
def sfuLane (m : Rnd) (tab : SfuTable) (x : W32) : FVal × BitVec 7 :=
  let word (n : Nat) : FVal := vF32 (tab.getD n 0)
  let v := vF32 x
  match v with
  | .nan _ _ => (v.quiet, sigFlags [v])
  | .inf n => ((word (if n then 2 else 3)).quiet, 0)
  | .fin n1 a1 d1 e1 =>
    match word 0, word 1 with
    | .fin n2 a2 d2 e2, .fin n3 a3 d3 e3 =>
      let t := segmentOf n1 a1 d1 e1 n2 a2 d2 e2 n3 a3 d3 e3
      if t.1 < 0 then ((word 2).quiet, 0)
      else if 63 < t.1 then ((word 3).quiet, 0)
      else
        let g := 4 * t.1.toNat
        let fr := (rndF32 .rne (t.2, 0)).1
        let h := (rndF32 .rne (fmaV .rne (word (g + 6)) (vF32 fr) (word (g + 5)))).1
        let c0 := word (g + 4)
        (if c0.isNan then c0.quiet else (fmaV m (vF32 fr) (vF32 h) c0).1, 0)
    | _, _ => (FVal.canonical, 0)

/-- VSFU (R188): it waits until every earlier load of its table is done (R71, R187). -/
def execVsfu (f : VR) (s : State) : Host.Outcome State Fault Refusal :=
  let n := (field f.aux 0 3).toNat
  let tab := s.me.table n
  let v := s.vr f.va
  let o := vectorOp f [vreg f.va] 12 4 (fun i => VR.dest f (sfuLane (Rnd.ofCode f.rnd) tab (VR.leaf f (elemOf v i)))) s
  runOp { o with
    hold := firstHold [if s.me.tableLoads.any fun l => decide (l.tab = n) then .held false else .ok, s.intervalHold] } s

end Sys2Proof.Machine
end

