-- ==== Sys2Proof/Machine/VectorMemory.lean ====
section
/-!
DEFINITION. Vector memory operations and bit-field patterns (spec/13 R189 to R200).
-/

namespace Sys2Proof.Machine

/-! ### Operands and checks -/

/-- The row pitch of LAYOUT 1, 0 otherwise (R190). -/
def pitchOf (f : VM) (k : Ctx) : W64 := if f.layout = 1#2 then k.s (f.base.toNat + 1) else 0

/-- The scalar registers that form the addresses. -/
def addressRegs (f : VM) : List (Nat × Nat) := sreg f.base :: (if f.layout = 1#2 then [(0, f.base.toNat + 1)] else [])

/-- The run that TVAL names among those that fail: the lowest address of a footprint, the first lane of a gather or scatter
(R189, R198). -/
def lowestRun (whole : Bool) (l : List (Nat × Nat)) : Option Nat :=
  match l with
  | [] => none
  | r :: rest => some (if whole then (rest.map Prod.fst).foldl min r.1 else r.1)

/-- ALIGN where a run is no multiple of n (R189). -/
def runsAlign (runs : List (Nat × Nat)) (n : Nat) (whole : Bool) : Option (Nat × W64) :=
  (lowestRun whole (runs.filter fun r => decide (r.1 % n ≠ 0))).map fun a => (causeALIGN, BitVec.ofNat 64 a)

/-- A footprint that must lie in one die's pool does (R190). -/
def onePool (space : Nat) (runs : List (Nat × Nat)) : Bool :=
  decide (space ≠ 3) || runs.all fun r => decide (r.1 / 67108864 = (runs.headD (0, 0)).1 / 67108864)

/-- EXTENT where its space refuses a run, or where a footprint does not lie in one pool (R189, R190). -/
def runsExtent (s : State) (f : VM) (runs : List (Nat × Nat)) (rd wr whole : Bool) : Option (Nat × W64) :=
  let bad := runs.filter fun r => (s.me.place s.cur.core f.space.toNat r.1 r.2 rd wr).isNone
  let bad := if bad.isEmpty && whole && !onePool f.space.toNat runs then runs else bad
  (lowestRun whole bad).map fun a => (causeEXTENT, BitVec.ofNat 64 a)

/-- The cell of the first byte of a run that the checks have passed, and its region. -/
def runPlace (k : Ctx) (core : Nat) (f : VM) (r : Nat × Nat) (rd wr : Bool) : Region × Nat :=
  (k.place core f.space.toNat r.1 r.2 rd wr).getD (.scratch core, 0)

/-- The bytes of a vector store at their cells: each address lies in one of the runs (R189). -/
def cellsOf (k : Ctx) (core : Nat) (f : VM) (runs : List (Nat × Nat)) (bs : List (Nat × Byte)) : List (Nat × Byte) :=
  bs.map fun p =>
    let r := (runs.find? fun r => decide (r.1 ≤ p.1 ∧ p.1 < r.1 + r.2)).getD (0, 0)
    let q := runPlace k core f r false true
    (cellKey q.1 (q.2 + (p.1 - r.1)), p.2)

/-- The full bits of every granule that the runs touch. -/
def State.setRuns (s : State) (core : Nat) (runs : List (Nat × Nat)) (b : Bool) : State :=
  runs.foldl (fun s r => s.setFull core (granules r.1 r.2).1 (granules r.1 r.2).2 b) s

/-- What holds a vector access in LOCAL: its full/empty wait and its banks (R149, R191, R192). -/
def localHold (s : State) (f : VM) (runs : List (Nat × Nat)) (banks : W32) : Verdict :=
  if f.space ≠ 0#3 then .ok
  else firstHold ((if f.fe = 0#2 then .ok else firstHold (runs.map fun r => s.fullHold r.1 r.2)) :: [s.bankHold banks])

/-- The physical runs of an access whose checks have passed. -/
def physRuns (k : Ctx) (core : Nat) (f : VM) (runs : List (Nat × Nat)) (rd wr : Bool) : List (Region × Nat × Nat) :=
  runs.map fun r => ((runPlace k core f r rd wr).1, (runPlace k core f r rd wr).2, r.2)

/-- A vector store that has left the core: its bytes go to its destinations at one time (log entry 24). -/
def State.sendVector (s : State) (f : VM) (runs : List (Region × Nat × Nat)) (cells : List (Nat × Byte)) (rel : Bool) : State :=
  s.issueRuns (.vstore cells rel) runs 0 0 f.ac.toNat false true

/-- A vector load that has left the core. -/
def State.fetchVector (s : State) (f : VM) (runs : List (Region × Nat × Nat)) (gather : Bool) (pat : BitVec 128) : State :=
  s.issueRuns (.vload f gather pat f.vd.toNat) runs 0 0 f.ac.toNat true false

/-! ### VLD and VST (R190 to R193, R196, R197) -/

/-- The pattern register that a VLD reads; p0 names none. -/
def patternOf (f : VM) (k : Ctx) : BitVec 128 := if f.pat = 0#3 then 0 else k.p f.pat.toNat

/-- An empty pattern register, or LAYOUT 1 with a field count that does not divide 64 (R196). -/
def patternIllegal (f : VM) (k : Ctx) : Bool :=
  let p := patternOf f k
  decide (f.pat ≠ 0#3) && (decide (patField p 0 = 0) || (decide (f.layout = 1#2) && decide (64 % patField p 3 ≠ 0)))

/-- A load from LOCAL: the register filled from the runs' bytes, with the clear of .WFC in the same step (R192). -/
def localVload (s t : State) (f : VM) (runs : List (Nat × Nat)) (v : VReg × BitVec 7) : State :=
  let r : Result := .vector f.vd.toNat (BitVec.allOnes 1024) v.1
  let t1 := if f.fe = 2#2 then t.setRuns s.cur.core runs false else t
  if f.fe = 0#2 then t1.postV r 9 v.2
  else
    let filled := runs.any fun r => (upTo (granules r.1 r.2).2).any fun i => t.filledAtStart s.cur.core (16 * ((granules r.1 r.2).1 + i))
    (if filled then t1.snapshot s.cur.core s.cur.x else t1).postInter r (9 * s.myCore.q) v.2

/-- VLD (R190, R193, R196, R197). -/
def execVld (f : VM) (s : State) : Host.Outcome State Fault Refusal :=
  let k := s.me
  let ea := f.ea k
  let pitch := pitchOf f k
  let pat := patternOf f k
  let runs := f.runs ea pitch pat
  runOp {
    reads := addressRegs f ++ (if f.pat = 0#3 then [] else [preg f.pat])
    writes := [vreg f.vd]
    before := if patternIllegal f k then some s.illegal else runsAlign runs 16 true
    after := runsExtent s f runs true false true
    hold := localHold s f runs (banksOfRuns runs)
    eff := fun t =>
      if f.space = 0#3 then localVload s t f runs (f.fill pat (runs.map fun r => t.bytes (.scratch s.cur.core) r.1 r.2))
      else t.fetchVector f (physRuns k s.cur.core f runs true false) false pat } s

/-- VST (R190, R193, R197): Saturate of the store path is raised at issue. -/
def execVst (f : VM) (s : State) : Host.Outcome State Fault Refusal :=
  let k := s.me
  let ea := f.ea k
  let pitch := pitchOf f k
  let runs := f.runs ea pitch 0
  let out := f.spill ea pitch (s.vr f.vd)
  runOp {
    reads := vreg f.vd :: addressRegs f
    before := runsAlign runs 16 true
    after := runsExtent s f runs false true true
    hold := localHold s { f with fe := 0 } runs (banksOfRuns runs)
    eff := fun t =>
      let cells := cellsOf k s.cur.core f runs out.1
      let t1 := t.modMe fun k => k.raise s.cur.slot out.2 s.cur.ba
      if f.space = 0#3 then
        let t2 := t1.putCells cells
        if f.fe = 1#2 then t2.setRuns s.cur.core runs true else t2
      else t1.sendVector f (physRuns k s.cur.core f runs false true) cells false } s

/-! ### VLDX and VSTX (R198) -/

/-- Elements of a register from the bytes at each address (R198). -/
def gatherFill (f : VM) (data : List (List Byte)) : VReg :=
  let a := data.toArray
  Vector.ofFn fun i : Fin 1024 => containerOf f.mtype.toNat (ofBytes (a.getD i.val []))

/-- VLDX (R198): all 32 banks; interval 8 from LOCAL. -/
def execVldx (f : VM) (s : State) : Host.Outcome State Fault Refusal :=
  let k := s.me
  let ea := f.ea k
  let idx := k.v (f.vd.toNat + 1)
  let runs := f.gatherRuns ea idx
  runOp {
    reads := [sreg f.base, (1, f.vd.toNat + 1)]
    writes := [vreg f.vd]
    before := runsAlign runs (mwidth f.mtype.toNat) false
    after := runsExtent s f runs true false false
    hold := firstHold [localHold s f runs (BitVec.allOnes 32), if f.space = 0#3 then s.intervalHold else .ok]
    eff := fun t =>
      if f.space = 0#3 then
        (t.occupySlot 8).postV (.vector f.vd.toNat (BitVec.allOnes 1024)
          (gatherFill f (runs.map fun r => t.bytes (.scratch s.cur.core) r.1 r.2))) 12 0
      else t.fetchVector f (physRuns k s.cur.core f runs true false) true 0 } s

/-- VSTX (R198): where lanes overlap, the highest stands; interval 8. -/
def execVstx (f : VM) (s : State) : Host.Outcome State Fault Refusal :=
  let k := s.me
  let ea := f.ea k
  let idx := k.v (f.vd.toNat + 1)
  let runs := f.gatherRuns ea idx
  runOp {
    reads := [sreg f.base, vreg f.vd, (1, f.vd.toNat + 1)]
    before := runsAlign runs (mwidth f.mtype.toNat) false
    after := runsExtent s f runs false true false
    hold := firstHold [localHold s f runs (BitVec.allOnes 32), s.intervalHold]
    eff := fun t =>
      let cells := cellsOf k s.cur.core f runs (f.scatterBytes ea idx (s.vr f.vd))
      let t1 := t.occupySlot 8
      if f.space = 0#3 then t1.putCells cells
      else t1.sendVector f (physRuns k s.cur.core f runs false true) cells false } s

/-! ### VLDA and VSTA (R199) -/

/-- EXTENT of VLDA and VSTA: the column bound and the window, with the lowest row refused as TVAL (R189, R199). -/
def accExtent (f : VM) (k : Ctx) (ea : W64) : Option (Nat × W64) :=
  (f.accBad k ea.toNat).map fun a => (causeEXTENT, BitVec.ofNat 64 a)

/-- VLDA (R199): the entries are copied as bits. -/
def execVlda (f : VM) (s : State) : Host.Outcome State Fault Refusal :=
  let ea := f.ea s.me
  runOp {
    reads := [sreg f.base]
    writes := [vreg f.vd]
    before := alignCheck ea 4
    after := accExtent f s.me ea
    eff := fun t => t.postV (.vector f.vd.toNat (BitVec.allOnes 1024)
      (Vector.ofFn fun i : Fin 1024 => BitVec.ofNat 32 (t.word (.acc s.cur.core) (f.accAddr ea.toNat i.val) 4))) 9 0 } s

/-- VSTA (R199). -/
def execVsta (f : VM) (s : State) : Host.Outcome State Fault Refusal :=
  let ea := f.ea s.me
  let v := s.vr f.vd
  runOp {
    reads := [sreg f.base, vreg f.vd]
    before := alignCheck ea 4
    after := accExtent f s.me ea
    eff := fun t => (upTo 1024).foldl (fun t e =>
      t.putBytes (.acc s.cur.core) (f.accAddr ea.toNat e) (toBytes 4 (elemOf v e).toNat)) t } s

/-! ### VSTR and VSTR.REL (R200) -/

/-- The footprint of R190 sent to the scratchpad of another core. -/
def remoteStore (f : VM) (rel : Bool) (s : State) : OpSem :=
  let k := s.me
  let ea := f.ea k
  let pitch := pitchOf f k
  let runs := f.runs ea pitch 0
  let out := f.spill ea pitch (s.vr f.vd)
  { reads := vreg f.vd :: addressRegs f
    before := runsAlign runs 16 true
    after := runsExtent s f runs false true true
    eff := fun t =>
      (t.modMe fun k => k.raise s.cur.slot out.2 s.cur.ba).sendVector f
        (physRuns k s.cur.core f runs false true) (cellsOf k s.cur.core f runs out.1) rel }

/-- VSTR (R200). -/
def execVstr (f : VM) (s : State) : Host.Outcome State Fault Refusal := runOp (remoteStore f false s) s

/-- VSTR.REL (R200). -/
def execVstrRel (f : VM) (s : State) : Host.Outcome State Fault Refusal := runOp (remoteStore f true s) s

/-! ### BFXP (R194, R195) -/

/-- BFXP: an illegal image raises ILLEGAL with the effective address as its TVAL. -/
def execBfxp (f : VM) (s : State) : Host.Outcome State Fault Refusal :=
  let ea := f.ea s.me
  let image : BitVec 128 := BitVec.ofNat 128 (ofBytes (s.imageAtIssue ea.toNat 16))
  let p := f.vd.toNat % 8
  runOp {
    reads := [sreg f.base]
    writes := [(4, p)]
    before := alignCheck ea 16
    after :=
      if !s.me.inWindow ea.toNat 16 then some (causeEXTENT, ea)
      else if patLegal image then none else some (causeILLEGAL, ea)
    hold := s.bankHold (banksOfRun ea.toNat 16)
    eff := fun t => t.postV (.pattern p image) 1 0 } s

end Sys2Proof.Machine
end

