-- ==== Sys2Proof/Machine/Access.lean ====
section
/-!
DEFINITION. How an access in flight is performed at its place (spec/11 R150, R159, R163, R164; spec/13 R189, R198, R200; spec/21
R266 to R272): loads, stores, atomics, vector accesses, pool elements and fences.
-/

namespace Sys2Proof.Machine

/-! ### Vector accesses (R190, R196 to R198, R200) -/

/-- The bytes of each run of a vector load. -/
def State.runBytes (s : State) (a : Access) : List (List Byte) :=
  a.runs.map fun r => if r.1.isScratch then s.bytes r.1 r.2.1 r.2.2 else s.plainBytes a.core a.x a.ac (cellKey r.1 r.2.1) r.2.2

/-- A vector load (R190, R196, R198). -/
def State.performVload (s : State) (a : Access) (f : VM) (gather : Bool) (pat : BitVec 128) (d : Nat) : State :=
  let v := if gather then (gatherFill f (s.runBytes a), 0#7) else f.fill pat (s.runBytes a)
  (s.asked 65536).answer a [.vector d (BitVec.allOnes 1024) v.1] v.2

/-! ### Pool instructions (R163, R164) -/

/-- One element of a pool instruction updated or read; the last one brings the result. -/
def State.performPool (s : State) (a : Access) (r : Region) (fn ty qual : Nat) (pa b : W64) (len d pos : Nat) (sum : W64) : State :=
  let e := poolSize ty
  if len = 0 then s.answer a [.scalar d 0] 0
  else
    let here := { a with runs := [(r, a.addr + e * pos, e)] }
    let p := s.loadBytes here r e true
    let l := if fn = 3 then b.toNat % 2 ^ (8 * e) else s.word (.scratch a.core) (b.toNat + e * pos) e
    let s1 := s.afterRead here r p true false
    let last := decide (len ≤ e * (pos + 1))
    if fn = 2 then
      let z := if pos = 0 then poolWiden ty (ofBytes p) else poolFold ty qual sum (ofBytes p)
      if last then s1.answer a [.scalar d z.1] (a.flags ||| z.2)
      else { s1 with
        accs := s1.accs.map (fun q => if q.id = a.id then
          { q with kind := .pool fn ty qual pa b len d (pos + 1) z.1, flags := a.flags ||| z.2, due := s1.later } else q),
        freeN := s1.freeN + 1 }
    else
      let z := poolElement fn ty (decide (qual = 1)) (ofBytes p) l
      let s2 := s1.strongWrite here r (toBytes e z.1)
      if last then s2.answer a [.scalar d (BitVec.ofNat 64 (len / e))] (a.flags ||| z.2)
      else { s2 with
        accs := s2.accs.map (fun q => if q.id = a.id then
          { q with kind := .pool fn ty qual pa b len d (pos + 1) 0, flags := a.flags ||| z.2, due := s2.later } else q),
        freeN := s2.freeN + 1 }

/-! ### Join words (R303, R312 to R314) -/

/-- TSTAT on a word: an acquire at DEVICE scope (R312). -/
def State.performTstat (s : State) (a : Access) (r : Region) (d : Nat) : State :=
  let bs := s.loadBytes a r 8 true
  (s.afterRead a r bs true true).answer a [.scalar d (BitVec.ofNat 64 (ofBytes bs))] 0

/-- Capacity of a die's continuation store (R296). -/
def State.contCapacity (s : State) (die : Nat) : Nat := ((s.dieConfig? die).map DieConfig.cscap).getD 0

/-- The free indices of a die's continuation store. -/
def State.freeConts (s : State) (die : Nat) : List Nat :=
  (upTo (s.contCapacity die)).filter fun i => s.conts.all fun c => !decide (c.die = die ∧ c.index = i)

/-- JCNEW has a place for its record (R313). -/
def State.jcnewRoom (s : State) (addr : Nat) : Bool :=
  decide ((s.conts.filter fun c => decide (c.die = addr / 67108864)).length < s.contCapacity (addr / 67108864))

/-- JCNEW: the record is stored, the word is written by a release, and a count of 0 releases at once (R313). -/
def State.performJcnew (s : State) (a : Access) (r : Region) (addr count : Nat) (rec : List Byte) (d : Nat) : State :=
  let die := addr / 67108864
  let free := s.freeConts die
  let c := free.getD (Config.order s.freeN % free.length) 0
  let s0 : State := { s with freeN := s.freeN + 1 }
  let (id, s1) := s0.newTaskid (dieOf a.core)
  let unit := { unitOfRecord rec with taskid := id, wSince := s.now }
  let w := c * 2 ^ 40 + (if count = 0 then 2 ^ 34 else 0) + count
  let s2 := (s1.releaseBefore a true).strongWrite a r (toBytes 8 w)
  let entry : Continuation := { die := die, index := c, unit := unit, core := a.core }
  let s3 : State := { s2 with conts := s2.conts ++ [entry] }
  let s4 := if count = 0 then s3.release die c (BitVec.ofNat 64 w) else s3
  s4.answer a [.scalar d (BitVec.ofNat 64 w)] 0

/-! ### One entry for all of them -/

/-- A plain store to POOL or DEVICE memory, which its destination accepts (R117, R267). -/
def Access.isPlainStore (a : Access) : Bool :=
  match a.kind, a.place with
  | .store _, some r => decide (a.ord = 0) && !r.isScratch
  | .vstore _ _, some r => !r.isScratch
  | _, _ => false

/-- An access to memory performed at its place. -/
def State.performAccess (s : State) (a : Access) : State :=
  match a.kind, a.place with
  | .fence q rl, _ => s.performFence a q rl
  | .load n d, some r => s.performLoad a r n d
  | .store bs, some r => s.performStore a r bs
  | .amo fn n v w d, some r => s.performAmo a r fn n v w d
  | .vload f gather pat d, some _ => s.performVload a f gather pat d
  | .vstore cells _, some r => s.performVstore a r cells
  | .pool fn ty q pa b len d pos sum, some r => s.performPool a r fn ty q pa b len d pos sum
  | .tstat _ d, some r => s.performTstat a r d
  | .jcnew addr count rec d, some r => s.performJcnew a r addr count rec d
  | .jcadd _ n d, some r => s.performJcadd a r n d
  | _, _ => s

end Sys2Proof.Machine
end

