-- ==== Sys2Proof/Machine/Control.lean ====
section
/-!
DEFINITION. The S0 control operations (spec/09 R113 to R119, R121 to R126): condition bits, queues and guards, waiting and
ordering, the control and status registers, traps and halting, clocks, and the declarations for pre-emption.
-/

namespace Sys2Proof.Machine

/-! ### Condition bits, queues and guards -/

/-- CBSET (R113). -/
def execCbset (f : TS) (s : State) : Host.Outcome State Fault Refusal :=
  runOp { eff := fun t => t.modMe fun k => { k with cb := k.cb ||| field f.imm 0 16 } } s

/-- CBCLR (R113). -/
def execCbclr (f : TS) (s : State) : Host.Outcome State Fault Refusal :=
  runOp { eff := fun t => t.modMe fun k => { k with cb := k.cb &&& ~~~(field f.imm 0 16) } } s

/-- CBWAIT (R113): with M = 0 it completes at once. -/
def execCbwait (f : TS) (s : State) : Host.Outcome State Fault Refusal :=
  let m : BitVec 16 := field f.imm 0 16
  runOp { eff := fun t => if m = 0#16 then t else t.await (.cb m (bitAt f.imm 16)) } s

/-- CQPUSH (R114): the entry lands at the end of the issue cycle. -/
def execCqpush (f : TS) (s : State) : Host.Outcome State Fault Refusal :=
  let q := (field f.imm 0 2).toNat
  runOp {
    reads := [sreg f.a]
    hold := s.pushHold q
    eff := fun t => t.post (.queue q (decide (s.rs f.a ≠ 0#64))) 1 0 } s

/-- CQPOP (R114). -/
def execCqpop (f : TS) (s : State) : Host.Outcome State Fault Refusal :=
  let q := (field f.imm 0 2).toNat
  runOp {
    writes := [sreg f.d]
    hold := s.popHold q
    eff := fun t => (t.modMe fun k => k.popCq q).putScalar f.d (if (t.me.cq q).headD false then 1 else 0) 1 0 } s

/-- CQCNT (R114): the entries that have landed. -/
def execCqcnt (f : TS) (s : State) : Host.Outcome State Fault Refusal :=
  let q := (field f.imm 0 2).toNat
  runOp {
    writes := [sreg f.d]
    eff := fun t => t.putScalar f.d (BitVec.ofNat 64 (s.me.cq q).length) 1 0 } s

/-- The state of a guard after a resolution (R115). -/
def guardOf (b : Bool) : Guard := if b then .run else .discard

def State.setGuard (s : State) (g : Nat) (v : Guard) : State := s.modMe fun k => { k with guards := k.guards.setIfInBounds g v }

/-- GSET.Q (R115). -/
def execGsetQ (f : TS) (s : State) : Host.Outcome State Fault Refusal :=
  let q := (field f.imm 3 2).toNat
  runOp {
    hold := s.popHold q
    eff := fun t => (t.modMe fun k => k.popCq q).setGuard (field f.imm 0 3).toNat (guardOf ((t.me.cq q).headD false)) } s

/-- GSET.S (R115). -/
def execGsetS (f : TS) (s : State) : Host.Outcome State Fault Refusal :=
  runOp {
    reads := [sreg f.a]
    eff := fun t => t.setGuard (field f.imm 0 3).toNat (guardOf (decide (s.rs f.a ≠ 0#64))) } s

/-- GCLR (R115). -/
def execGclr (f : TS) (s : State) : Host.Outcome State Fault Refusal :=
  runOp { eff := fun t => t.setGuard (field f.imm 0 3).toNat .unresolved } s

/-! ### Waiting and ordering -/

/-- WAITCNT (R117). -/
def execWaitcnt (f : TS) (s : State) : Host.Outcome State Fault Refusal :=
  runOp { eff := fun t => t.await (.count (field f.imm 0 6).toNat (field f.imm 6 6).toNat (field f.imm 12 7).toNat
    (field f.imm 19 5).toNat) } s

/-- FENCE.ALL (R118). -/
def execFenceAll (_ : TS) (s : State) : Host.Outcome State Fault Refusal := runOp { eff := fun t => t.await (.all 0) } s

/-- A fence takes its place in the order of the context's accesses (R118, R268, R271). -/
def State.issueFence (s : State) (acq rel : Bool) (scope : Nat) : State :=
  s.issueAccess (.fence acq rel) none 0 0 scope 0 false false

/-- FENCE (R118): ordering code 1 acquires, 2 releases, 4 does both. -/
def execFence (f : TS) (s : State) : Host.Outcome State Fault Refusal :=
  let o := (field f.imm 0 3).toNat
  runOp { eff := fun t => t.issueFence (decide (o = 1 ∨ o = 4)) (decide (o = 2 ∨ o = 4)) (field f.imm 3 3).toNat } s

/-- PHASE acts as FENCE.AR at SYSTEM scope (R118, R268). -/
def execPhase (_ : TS) (s : State) : Host.Outcome State Fault Refusal := runOp { eff := fun t => t.issueFence true true 4 } s

/-! ### Control and status registers (R69, R119, R120) -/

/-- The die of a core's POLVER. -/
def State.polverOf (s : State) (core : Nat) : BitVec 16 := s.polver.getD (dieOf core) 0

/-- STATUS (R120). -/
def State.statusWord (s : State) (core x : Nat) : W64 :=
  let k := s.ctx core x
  BitVec.ofNat 64 ((if k.brcol then 1 else 0) + (if (s.core core).pinned then 2 else 0) + (if s.memready then 4 else 0)
    + (if k.inhdl then 8 else 0) + (k.strands.length - 1) % 4 * 16)

/-- The value that a CSR reads as (R42, R69, R94, R96, R120, R228). -/
def State.csr (s : State) (core x n : Nat) : W64 :=
  let k := s.ctx core x
  let c := s.core core
  match n with
  | 0x000 => BitVec.ofNat 64 (s.cycleOf core)
  | 0x001 => k.issue
  | 0x002 => BitVec.ofNat 64 core
  | 0x003 => BitVec.ofNat 64 x
  | 0x004 => k.taskid
  | 0x008 => s.statusWord core x
  | 0x018 => k.ferec
  | 0x020 => k.tvec
  | 0x021 => k.tepc
  | 0x022 => k.tcause
  | 0x023 => k.tval
  | 0x030 => zext64 c.clkdiv
  | 0x031 => BitVec.ofNat 64 ((if k.clkReq then 1 else 0) + (if (s.ctx core (1 - x)).clkReq then 2 else 0))
  | 0x032 => zext64 c.mxcad
  | 0x033 => zext64 c.mxshare
  | 0x040 => zext64 k.scrbase
  | 0x041 => zext64 k.scrlim
  | 0x042 => zext64 k.accbase
  | 0x043 => zext64 k.acclim
  | 0x050 => zext64 (s.polverOf core)
  | 0x060 => zext64 k.mscnt
  | 0x061 => zext64 k.msfro
  | 0x062 => zext64 k.msvar
  | 0x063 => zext64 k.msz
  | n => if 0x010 ≤ n ∧ n ≤ 0x017 then zext64 (k.fpf.getD (n - 0x010) 0) else 0

/-- A new value of the RW fields of a CSR; RO and RSV fields ignore it (R6, R119). -/
def State.writeCsr (s : State) (core x n : Nat) (v : W64) : State :=
  let on (f : Ctx → Ctx) : State := s.modCtx core x f
  match n with
  | 0x018 => on fun k => { k with ferec := v &&& ~~~7#64 }
  | 0x020 => on fun k => { k with tvec := v &&& ~~~7#64 }
  | 0x021 => on fun k => { k with tepc := v &&& ~~~7#64 }
  | 0x022 => on fun k => { k with tcause := BitVec.ofNat 64 (v.toNat % 2 ^ 19) }
  | 0x023 => on fun k => { k with tval := v }
  | 0x033 => if x = 0 then s.modCore core fun c => { c with mxshare := field v 0 1 } else s
  | n => if 0x010 ≤ n ∧ n ≤ 0x017 then on fun k => { k with fpf := k.fpf.setIfInBounds (n - 0x010) (field v 0 7) } else s

/-- The RW1C field of STATUS cleared where the operand's bit is 1 (R119). -/
def State.clearCsr (s : State) (core x n : Nat) (v : W64) : State :=
  if n = 0x008 ∧ bitAt v 0 then s.modCtx core x fun k => { k with brcol := false } else s

/-- CSRR, CSRW, CSRS and CSRC: the old value goes to s[D] where `read` holds; `new` gives the RW fields' value (R119). -/
def csrOp (f : SI) (read src clears : Bool) (new : W64 → W64 → W64) (s : State) : OpSem :=
  let n := (field f.imm 0 12).toNat
  let old := s.csr s.cur.core s.cur.x n
  let a := s.rs f.a
  { reads := if src then [sreg f.a] else []
    writes := if read then [sreg f.d] else []
    eff := fun t =>
      let t1 := if src then t.writeCsr s.cur.core s.cur.x n (new old a) else t
      let t2 := if clears then t1.clearCsr s.cur.core s.cur.x n a else t1
      if read then t2.putScalar f.d old 1 0 else t2 }

/-- CSRR (R119). -/
def execCsrr (f : SI) (s : State) : Host.Outcome State Fault Refusal := runOp (csrOp f true false false (fun o _ => o) s) s

/-- CSRW (R119). -/
def execCsrw (f : SI) (s : State) : Host.Outcome State Fault Refusal := runOp (csrOp f false true true (fun _ a => a) s) s

/-- CSRS (R119). -/
def execCsrs (f : SI) (s : State) : Host.Outcome State Fault Refusal := runOp (csrOp f true true true (fun o a => o ||| a) s) s

/-- CSRC (R119). -/
def execCsrc (f : SI) (s : State) : Host.Outcome State Fault Refusal :=
  runOp (csrOp f true true false (fun o a => o &&& ~~~a) s) s

/-! ### Traps and halting -/

/-- TRAP (R121): the other operations of its bundle take effect, then the trap is taken. -/
def execTrap (f : TS) (s : State) : Host.Outcome State Fault Refusal :=
  runOp { eff := fun t => { t with cur := { t.cur with trap := some (field f.imm 0 16) } } } s

/-- An unresolved guard among the commands of the context, of one strand or of all, as the fault of R38. -/
def State.guardFault (s : State) (mine : Option Nat) : Option (Nat × W64) :=
  if (s.myCore.cmds.any fun c => decide (c.x = s.cur.x ∧ c.guard ≠ 0 ∧ c.sampled = none ∧ (mine = none ∨ mine = some c.strand))
      && !c.cancelled && decide (s.me.guard c.guard = .unresolved))
  then some (causeENGINE, Config.openWord s.freeN) else none

/-- TRET (R122): legal only in a handler and alone in its bundle; it drains, and TRET_RESUME returns. -/
def execTret (_ : TS) (s : State) : Host.Outcome State Fault Refusal :=
  runOp {
    before := if s.me.inhdl ∧ s.cur.nw = 1 then none else some s.illegal
    after := s.guardFault (some s.cur.strand)
    eff := fun t => t.modMe fun k => { k with drain := .tret } } s

/-- HALT (R123): ILLEGAL in a forked context; the context halts after its bundle. -/
def execHalt (f : TS) (s : State) : Host.Outcome State Fault Refusal :=
  runOp {
    before := if s.me.lockstep then none else some s.illegal
    eff := fun t => { t with cur := { t.cur with halt := some (field f.imm 0 16) } } } s

/-! ### Clocks -/

/-- CLKDIV (R124, R354): ILLEGAL from context 1, or where the vector divisor is no multiple of the control divisor. Its bundle's other
operations take effect before the drain (log entry 36). -/
def execClkdiv (f : TS) (s : State) : Host.Outcome State Fault Refusal :=
  let d : BitVec 12 := field f.imm 0 12
  let ok := decide (((field d 3 3).toNat + 1) % ((field d 0 3).toNat + 1) = 0)
  runOp {
    before := if s.cur.x = 0 ∧ ok then none else some s.illegal
    after := s.guardFault none
    eff := fun t => t.modMe fun k => { k with drain := .clkdiv d } } s

/-- CLKMODE (R125). -/
def execClkmode (f : TS) (s : State) : Host.Outcome State Fault Refusal :=
  let on := bitAt f.imm 0
  runOp {
    before := if !on && s.cur.exposed then some (causeTIMING, 0#64) else none
    eff := fun t => t.setReq s.cur.core s.cur.x on (s.now + 1) } s

/-! ### Declarations for pre-emption (R126) -/

/-- The first of two values that is no multiple of 64. -/
def align64 (a b : W64) : Option (Nat × W64) :=
  if a.toNat % 64 ≠ 0 then some (causeALIGN, a) else if b.toNat % 64 ≠ 0 then some (causeALIGN, b) else none

/-- DISCARD (R126). -/
def execDiscard (f : TS) (s : State) : Host.Outcome State Fault Refusal :=
  let a := s.rs f.a
  let n := s.rs f.b
  let k := s.me
  runOp {
    reads := [sreg f.a, sreg f.b]
    before := align64 a n
    after := if n = 0#64 ∨ k.inWindow a.toNat n.toNat then none
      else some (causeEXTENT, BitVec.ofNat 64 (lowestOutside k.scrbase.toNat k.scrlim.toNat a.toNat n.toNat))
    eff := fun t => t.modMe fun k => { k with discards := k.discards.setIfInBounds (field f.imm 0 3).toNat (a, n) } } s

/-- ACCLIVE (R126). -/
def execAcclive (f : TS) (s : State) : Host.Outcome State Fault Refusal :=
  let a := s.rs f.a
  let n := s.rs f.b
  let k := s.me
  let first := k.accbase.toNat + 512 * a.toNat
  runOp {
    reads := [sreg f.a, sreg f.b]
    after := if n = 0#64 ∨ k.inAcc first (512 * n.toNat) then none
      else some (causeEXTENT, BitVec.ofNat 64 (lowestOutside k.accbase.toNat k.acclim.toNat first (512 * n.toNat)))
    eff := fun t => t.modMe fun k => { k with lives := k.lives.setIfInBounds (field f.imm 0 3).toNat (a, n) } } s

end Sys2Proof.Machine
end

