-- ==== Sys2Proof/Machine/Matrix.lean ====
section
/-!
DEFINITION. The issue side of the S6 operations (spec/15 R210, R218 to R225; spec/17 R230 to R232, R237): shadow writes, the
checks of R210, and the commands pushed into Q1 and Q3.
-/

namespace Sys2Proof.Machine

/-! ### Pushing a command (R25, R210, R277) -/

/-- An entry for an engine queue with the values read at issue. -/
def State.newCmd (s : State) (op : Instr) (vals : List W64) (shadow : Option Shadow) (banks : W32) (wp wn sp sn : BitVec 1)
    (guard : BitVec 3) (ac : Nat) : Cmd where
  id := s.seqN
  x := s.cur.x
  gen := s.me.gen
  strand := s.cur.strand
  ba := s.cur.ba
  op := op
  word := s.cur.word
  vals := vals
  shadow := shadow
  banks := banks
  tok := 0
  wp := decide (wp = 1#1)
  wn := decide (wn = 1#1)
  sp := decide (sp = 1#1)
  sn := decide (sn = 1#1)
  guard := guard.toNat
  cancelled := false
  state := .waiting
  tokensTaken := false
  sampled := none
  banksHeld := false
  wait := 0
  pos := 0
  arrived := 0
  reload := 0
  cad := 0
  page := none
  spanTested := false
  faultTag := none
  err := 0
  errTag := 0
  buf := []
  badRead := false
  checking := false
  turn := false
  seq := s.seqN
  ac := ac
  rel := s.myStrand.anc
  joined := s.myStrand.joined
  old := s.mem

/-- The command enters the back of its queue. -/
def State.pushCmd (s : State) (q : Nat) (c : Cmd) : State :=
  { s.modCore s.cur.core fun k => k.setQueue q (k.queue q ++ [c]) with seqN := s.seqN + 1 }

/-- A matrix command pushed at the effect of its operation. -/
def State.pushMatrix (s : State) (op : Instr) (f : MC) (q : Nat) (vals : List W64) (shadow : Option Shadow) (banks : W32) : State :=
  s.pushCmd q (s.newCmd op vals shadow banks f.wp f.wn f.sp f.sn f.guard 0)

/-! ### Checks of R210 -/

/-- ENGINE with the operation word where a value is out of range. -/
def State.engineCheck (s : State) (bad : Bool) : Option (Nat × W64) := if bad then some (causeENGINE, s.cur.word) else none

/-- ALIGN with the first of several values that is no multiple of its unit. -/
def alignAll (l : List (Int × Nat)) : Option (Nat × W64) :=
  (l.find? fun v => decide (v.1 % (v.2 : Int) ≠ 0)).map fun v => (causeALIGN, BitVec.ofInt 64 v.1)

/-- EXTENT with the lowest address outside a window for the bytes from lo to hi − 1, reckoned exactly. -/
def windowCheck (base lim : Nat) (lo hi : Int) : Option (Nat × W64) :=
  if lo < base then some (causeEXTENT, BitVec.ofInt 64 lo)
  else if (lim : Int) < hi then some (causeEXTENT, BitVec.ofInt 64 (max lo lim))
  else none

/-- The first check that fails. -/
def firstFail (l : List (Option (Nat × W64))) : Option (Nat × W64) := (l.find? Option.isSome).getD none

/-- LOCAL bytes and accumulator bytes of the context as windows. -/
def Ctx.localCheck (k : Ctx) (lo hi : Int) : Option (Nat × W64) := windowCheck k.scrbase.toNat k.scrlim.toNat lo hi
def Ctx.accCheck (k : Ctx) (lo hi : Int) : Option (Nat × W64) := windowCheck k.accbase.toNat k.acclim.toNat lo hi

/-! ### Shadow writes (R209, R218 to R221) -/

/-- The shadow written by the operation. -/
def State.modShadow (s : State) (g : Shadow → Shadow) : State := s.modMe fun k => { k with shadow := g k.shadow }

/-- The level entry of R207 from its two words. -/
def levelOf (a b : W64) : Level :=
  { mark := field b 56 2, count := field b 32 24, cstr := field b 0 32, wstr := field a 32 32, astr := field a 0 32 }

/-- MXLOOP (R218). -/
def execMxloop (f : MC) (s : State) : Host.Outcome State Fault Refusal :=
  let b := s.rs f.b
  runOp {
    reads := [sreg f.a, sreg f.b]
    before := s.engineCheck (decide (b.toNat / 2 ^ 58 ≠ 0))
    eff := fun t => t.modShadow fun h =>
      { h with levels := h.levels.setIfInBounds (field f.aux 0 3).toNat (levelOf (s.rs f.a) b) } } s

/-- MXADDR (R219). -/
def execMxaddr (f : MC) (s : State) : Host.Outcome State Fault Refusal :=
  runOp {
    reads := [sreg f.a, sreg f.b, sreg f.c]
    eff := fun t => t.modShadow fun h =>
      { h with abase := s.rs f.a, wbase := field (s.rs f.b) 0 32, cbase := s.rs f.c } } s

/-- MXFMT (R220). -/
def execMxfmt (f : MC) (s : State) : Host.Outcome State Fault Refusal :=
  runOp {
    reads := [sreg f.a, sreg f.b]
    eff := fun t => t.modShadow fun h =>
      { h with act := field f.aux 0 2, tern := bitAt f.aux 2, gather := bitAt f.aux 3, nc := field f.aux 4 7,
               mask := field (s.rs f.a) 0 32, gpitch := s.rs f.b } } s

/-- MXIDX (R221): the entries are read as a LOCAL load reads, at the end of the issue cycle. -/
def execMxidx (f : MC) (s : State) : Host.Outcome State Fault Refusal :=
  let a := s.rs f.a
  let n := (s.rs f.b).toNat
  runOp {
    reads := [sreg f.a, sreg f.b]
    before := firstFail [s.engineCheck (decide (1024 < n)), alignCheck a 16]
    after := if n = 0 then none else s.me.localCheck a.toNat (a.toNat + 4 * n)
    hold := s.bankHold (banksOfRun a.toNat (4 * n))
    eff := fun t => t.modShadow fun h =>
      { h with idx := (upTo n).map fun e => BitVec.ofNat 32 (t.word (.scratch s.cur.core) (a.toNat + 4 * e) 4) } } s

/-! ### Weight loads (R222) -/

/-- MXWLD (R222). -/
def execMxwld (f : MC) (s : State) : Host.Outcome State Fault Refusal :=
  let b := s.rs f.b
  let n := tileBytes (field f.aux 0 3).toNat
  runOp {
    reads := [sreg f.a, sreg f.b, sreg f.c]
    before := alignCheck b 64
    after := s.me.localCheck b.toNat (b.toNat + n)
    hold := s.engineHold 3
    eff := fun t => t.pushMatrix (.mxwld f) f 3 [s.rs f.a, b, s.rs f.c] none (field (s.rs f.c) 0 32) } s

/-- MXWSTRM (R222): the whole tile within one extent entry with R set. -/
def execMxwstrm (f : MC) (s : State) : Host.Outcome State Fault Refusal :=
  let b := s.rs f.b
  let n := tileBytes (field f.aux 0 3).toNat
  runOp {
    reads := [sreg f.a, sreg f.b]
    before := alignCheck b 64
    after := extentCheck (s.me.place s.cur.core 4 b.toNat n true false) b
    hold := s.engineHold 3
    eff := fun t => t.pushMatrix (.mxwstrm f) f 3 [s.rs f.a, b, 0] none 0 } s

/-! ### MXGO (R223) -/

/-- The least and greatest sum that the strides of the levels from `from'` up can add. -/
def Shadow.strideSpan (h : Shadow) (from' : Nat) (g : Level → W32) : Int × Int :=
  ((upTo 6).filter fun l => decide (from' ≤ l)).foldl (fun a l =>
    let d : Int := (((h.level l).count.toNat - 1 : Nat) : Int) * (g (h.level l)).toInt
    (a.1 + min 0 d, a.2 + max 0 d)) (0, 0)

/-- The non-negative indices that the nest uses (R208, R223). -/
def Shadow.usedIndices (h : Shadow) : List Int :=
  ((h.idx.take (h.level 0).count.toNat).map BitVec.toInt).filter fun x => decide (0 ≤ x)

/-- The smallest operand address, and the end of the largest operand row; none where no row is read. -/
def Shadow.operandSpan (h : Shadow) : Option (Int × Int) :=
  let d := h.strideSpan (if h.gather then 1 else 0) Level.astr
  let base : Int := h.abase.toNat
  if h.gather then
    match h.usedIndices with
    | [] => none
    | x :: r =>
      some (base + d.1 + r.foldl min x * h.gpitch.toNat, base + d.2 + r.foldl max x * h.gpitch.toNat + h.rowBytes)
  else some (base + d.1, base + d.2 + h.rowBytes)

/-- The values that ALIGN tests in order: the operand side in units of 16, the accumulator side in units of 512. -/
def Shadow.alignValues (h : Shadow) : List (Int × Nat) :=
  let big (from' : Nat) : List Nat := (upTo 6).filter fun l => decide (from' ≤ l ∧ 1 < (h.level l).count.toNat)
  ((h.abase.toNat : Int), 16) :: (if h.gather then [((h.gpitch.toNat : Int), 16)] else [])
    ++ (big (if h.gather then 1 else 0)).map (fun l => ((h.level l).astr.toInt, 16))
    ++ ((h.cbase.toNat : Int), 512) :: (big 0).map fun l => ((h.level l).cstr.toInt, 512)

/-- Some level has a trip count of 0: the command does nothing, and no further check is made (R223). -/
def Shadow.isEmpty (h : Shadow) : Bool := (upTo 6).any fun l => decide ((h.level l).count = 0#24)

/-- The EXTENT checks of R223. -/
def Shadow.extents (h : Shadow) (k : Ctx) : Option (Nat × W64) :=
  let c := h.strideSpan 0 Level.cstr
  let base : Int := h.cbase.toNat
  firstFail [match h.operandSpan with | some r => k.localCheck r.1 r.2 | none => none,
    k.accCheck (base + c.1) (base + c.2 + 512)]

/-- MXGO (R223): the whole shadow goes into the queue entry. -/
def execMxgo (f : MC) (s : State) : Host.Outcome State Fault Refusal :=
  let h := s.me.shadow
  runOp {
    before := if h.isEmpty then none else firstFail [
      s.engineCheck (h.gather && decide (h.idx.length < (h.level 0).count.toNat)), alignAll h.alignValues]
    after := if h.isEmpty then none else h.extents s.me
    hold := s.engineHold 1
    eff := fun t => t.pushMatrix (.mxgo f) f 1 [] (some t.me.shadow) t.me.shadow.mask } s

/-! ### MXZERO and MXDRAIN (R224, R225) -/

/-- MXZERO (R224). -/
def execMxzero (f : MC) (s : State) : Host.Outcome State Fault Refusal :=
  let a := s.rs f.a
  let n := (s.rs f.b).toNat
  runOp {
    reads := [sreg f.a, sreg f.b]
    before := firstFail [s.engineCheck (decide (6144 < n)), alignCheck a 512]
    after := if n = 0 then none else s.me.accCheck a.toNat (a.toNat + 512 * n)
    hold := s.engineHold 1
    eff := fun t => t.pushMatrix (.mxzero f) f 1 [a, s.rs f.b, 0] none 0 } s

/-- Bytes of a converted element (R225). -/
def drainSize (conv : Nat) : Nat :=
  match conv with
  | 1 => 2
  | 3 => 1
  | _ => 4

/-- The LOCAL rows that MXDRAIN writes, checked in ascending order. -/
def drainExtent (f : MC) (k : Ctx) (b c : W64) : Option (Nat × W64) :=
  let n := (field c 32 13).toNat
  let pitch := 16 * (field c 45 19).toNat
  let w := drainSize (field f.aux 0 2).toNat * ((field f.aux 7 7).toNat + 1)
  firstFail ((upTo n).map fun (i : Nat) => k.localCheck (b.toNat + pitch * i) (b.toNat + pitch * i + w))

/-- MXDRAIN (R225). -/
def execMxdrain (f : MC) (s : State) : Host.Outcome State Fault Refusal :=
  let a := s.rs f.a
  let b := s.rs f.b
  let c := s.rs f.c
  let n := (field c 32 13).toNat
  runOp {
    reads := [sreg f.a, sreg f.b, sreg f.c]
    before := firstFail [s.engineCheck (decide (6144 < n)), alignCheck a 512, alignCheck b 16]
    after := if n = 0 then none else firstFail [s.me.accCheck a.toNat (a.toNat + 512 * n), drainExtent f s.me b c]
    hold := s.engineHold 1
    eff := fun t => t.pushMatrix (.mxdrain f) f 1 [a, b, c] none (field c 0 32) } s

/-! ### The sampled product (R230 to R232, R237) -/

/-- The dimension word of MXNORM is in range with its other bits zero (R230). -/
def dimsOk (c : W64) : Bool :=
  let k := (field c 0 13).toNat
  let m := (field c 16 7).toNat
  let n := (field c 32 8).toNat
  decide (1 ≤ k ∧ k ≤ 4096 ∧ 1 ≤ m ∧ m ≤ 64 ∧ 1 ≤ n ∧ n ≤ 128)
    && decide (field c 13 3 = 0#3 ∧ field c 23 9 = 0#9 ∧ field c 40 24 = 0#24)

/-- MXNORM (R230). -/
def execMxnorm (f : MC) (s : State) : Host.Outcome State Fault Refusal :=
  let a := s.rs f.a
  let b := s.rs f.b
  let c := s.rs f.c
  let k := (field c 0 13).toNat
  runOp {
    reads := [sreg f.a, sreg f.b, sreg f.c]
    before := firstFail [s.engineCheck (!dimsOk c), alignCheck a 16, alignCheck b 16]
    after := firstFail [s.me.localCheck a.toNat (a.toNat + 128 * k), s.me.localCheck b.toNat (b.toNat + 256 * k)]
    hold := s.engineHold 1
    eff := fun t => t.pushMatrix (.mxnorm f) f 1 [a, b, c] none t.me.shadow.mask } s

/-- MSBUILD (R231): it names no bank. -/
def execMsbuild (f : MC) (s : State) : Host.Outcome State Fault Refusal :=
  runOp {
    hold := s.engineHold 1
    eff := fun t => t.pushMatrix (.msbuild f) f 1 [] none 0 } s

/-- τ² is a NaN, or has its sign bit set with a nonzero magnitude (R232). -/
def badTau (w : W32) : Bool := (vF32 w).isNan || (bitAt w 31 && decide (field w 0 31 ≠ 0#31))

/-- MXSMP (R232). -/
def execMxsmp (f : MC) (s : State) : Host.Outcome State Fault Refusal :=
  let a := s.rs f.a
  let c := s.rs f.c
  let smin := (field c 32 16).toNat
  let smax := (field c 48 16).toNat
  runOp {
    reads := [sreg f.a, sreg f.b, sreg f.c]
    before := firstFail [
      s.engineCheck (decide (field (s.rs f.b) 0 32 = 0#32 ∨ smax = 0 ∨ smax < smin) || badTau (field c 0 32)), alignCheck a 512]
    hold := s.engineHold 1
    eff := fun t => t.pushMatrix (.mxsmp f) f 1 [a, s.rs f.b, c] none t.me.shadow.mask } s

/-- MXSTAT (R237): its results land when every Q1 command that the context has pushed before it has left its queue. -/
def execMxstat (f : MC) (s : State) : Host.Outcome State Fault Refusal :=
  runOp {
    writes := [sreg f.a, sreg f.b]
    eff := fun t => t.issueAccess (.mxstat f.a.toNat f.b.toNat
      (((t.myCore.queue 1).filter fun c => decide (c.x = s.cur.x)).map Cmd.id)) none 0 0 0 0 false false } s

end Sys2Proof.Machine
end

