-- ==== Sys2Proof/Machine/Copy.lean ====
section
/-!
DEFINITION. The issue side of the S7 operations (spec/19 R253 to R258, R260 to R264): copy commands with their checks and
completion tokens, transfer barriers, token instructions and CPCAN.
-/

namespace Sys2Proof.Machine

/-! ### Copy commands (R253 to R258) -/

/-- The operands of a copy command: DST, SRC, LEN and, for CP2D, s[LEN + 1]. -/
def copyValues (f : CC) (k : Ctx) (pair : Bool) : List W64 :=
  [k.s f.dst.toNat, k.s f.src.toNat, k.s f.len.toNat, if pair then k.s (f.len.toNat + 1) else 0]

/-- A peer set of CPMC or CPRS that is empty, or whose reserved bits are not zero (R257, R258). -/
def peersBad (v : W64) : Bool := decide (field v 56 8 = 0#8 ∨ field v 21 35 ≠ 0#35)

/-- EXTENT of the first named peer whose window does not hold n bytes at the offset; TVAL is the REMOTE address (R257, R258). -/
def peersExtent (k : Ctx) (v : W64) (n : Nat) : Option (Nat × W64) :=
  firstFail ((peerSet v).map fun i =>
    let e := k.peers.getD i 0
    let a := peerFirst e + peerOffset v
    let at' (b : Nat) : Option (Nat × W64) := some (causeEXTENT, BitVec.ofNat 64 (peerCore e * 2097152 + b))
    if !peerValid e then at' a else if n ≠ 0 ∧ peerLimit e < a + n then at' (max a (peerLimit e)) else none)

/-- EXTENT of the far side: a POOL span that is not in one die's pool, or a virtual span that is not canonical (R254). -/
def farExtent (c : Cmd) : Option (Nat × W64) :=
  let far := (c.farAt 0).1
  let n := c.farSpan
  if c.farPool then
    if 268435456 ≤ far then some (causeEXTENT, BitVec.ofNat 64 far)
    else if 67108864 < far % 67108864 + n then some (causeEXTENT, BitVec.ofNat 64 ((far / 67108864 + 1) * 67108864))
    else none
  else if canonical far && canonical (far + (n - 1)) then none
  else some (causeEXTENT, BitVec.ofNat 64 far)

/-- Bytes of the near LOCAL span (R254, R256, R258). -/
def Cmd.nearSpan (c : Cmd) : Nat :=
  let (l, n, _, np) := c.shape
  if l = 0 ∨ n = 0 then 0 else (n - 1) * np + l

/-- A copy command: its checks, its token, and its push (R253, R254). -/
def copyOp (op : Instr) (f : CC) (q : Nat) (s : State) : OpSem :=
  let k := s.me
  let pair : Bool := match op with | .cp2d _ => true | _ => false
  let dsts : Bool := match op with | .cpmc _ => true | _ => false
  let srcs : Bool := match op with | .cprs _ => true | _ => false
  let vals := copyValues f k pair
  let v (i : Nat) : W64 := vals.getD i 0
  let banks : W32 := if dsts then 0 else field (v 2) 32 32
  let tok := k.newest + 1
  let c0 := { s.newCmd op vals none banks f.wp f.wn f.sp f.sn f.guard f.ac.toNat with tok := tok }
  let value (i : Nat) : Int := if (i = 0 ∧ dsts) ∨ (i = 1 ∧ srcs) then (peerOffset (v i) : Int) else ((v i).toNat : Int)
  { reads := [sreg f.dst, sreg f.src, sreg f.len] ++ (if pair then [(0, f.len.toNat + 1)] else [])
    writes := [sreg f.tokd]
    before := firstFail [
      s.engineCheck (decide (67108864 < copyLen (v 2)) || (pair && decide (67108864 < c0.totalBytes))
        || (dsts && peersBad (v 0)) || (srcs && peersBad (v 1))),
      alignAll ([(value 0, 16), (value 1, 16), ((copyLen (v 2) : Int), 16)]
        ++ if pair then [((srcPitch (v 3) : Int), 16), ((dstPitch (v 3) : Int), 16)] else [])]
    after := firstFail [
      if srcs then peersExtent k (v 1) (copyLen (v 2)) else none,
      if dsts || decide (c0.nearSpan = 0) then none else k.localCheck (c0.nearAt 0) (c0.nearAt 0 + c0.nearSpan),
      if srcs then none else farExtent c0,
      if dsts then peersExtent k (v 0) (copyLen (v 2)) else none]
    hold := s.engineHold q
    eff := fun t =>
      let tok := t.me.newest + 1
      let c := { t.newCmd op vals none banks f.wp f.wn f.sp f.sn f.guard f.ac.toNat with tok := tok }
      ((t.pushCmd q c).modMe fun k => { k with newest := tok }).putScalar f.tokd (BitVec.ofNat 64 tok.toNat) 1 0 }

/-- CPIN (R255). -/
def execCpin (f : CC) (s : State) : Host.Outcome State Fault Refusal := runOp (copyOp (.cpin f) f 0 s) s
/-- CPOUT (R255). -/
def execCpout (f : CC) (s : State) : Host.Outcome State Fault Refusal := runOp (copyOp (.cpout f) f 2 s) s
/-- CP2D (R256). -/
def execCp2d (f : CC) (s : State) : Host.Outcome State Fault Refusal :=
  runOp (copyOp (.cp2d f) f (if bitAt f.flags 2 then 2 else 0) s) s
/-- CPMC (R257). -/
def execCpmc (f : CC) (s : State) : Host.Outcome State Fault Refusal := runOp (copyOp (.cpmc f) f 0 s) s
/-- CPRS (R258). -/
def execCprs (f : CC) (s : State) : Host.Outcome State Fault Refusal := runOp (copyOp (.cprs f) f 0 s) s

/-! ### Barriers (R260 to R262) -/

/-- BARINIT (R260). -/
def execBarinit (f : CC) (s : State) : Host.Outcome State Fault Refusal :=
  runOp { eff := fun t => t.barEvent s.cur.core s.cur.x (.init f.bar.toNat) } s

/-- BAREXP (R260): BARRIER where the count is 2^39 or more, or would take the balance below −2^39. -/
def execBarexp (f : CC) (s : State) : Host.Outcome State Fault Refusal :=
  let n := s.rs f.len
  let b := s.me.bar f.bar.toNat
  runOp {
    reads := [sreg f.len]
    before := if 2 ^ 39 ≤ n.toNat ∨ b.bal - (n.toNat : Int) < -2 ^ 39 then some (causeBARRIER, n) else none
    eff := fun t => t.barEvent s.cur.core s.cur.x (.expect f.bar.toNat n.toNat) } s

/-- BARWAIT (R261). -/
def execBarwait (f : CC) (s : State) : Host.Outcome State Fault Refusal :=
  runOp {
    writes := [sreg f.tokd]
    eff := fun t => t.await (.bar f.bar.toNat (bitAt f.flags 0) f.tokd.toNat none) } s

/-- BARWAIT.T (R261): the timeout is read at issue. -/
def execBarwaitT (f : CC) (s : State) : Host.Outcome State Fault Refusal :=
  runOp {
    reads := [sreg f.len]
    writes := [sreg f.tokd]
    eff := fun t => t.await (.bar f.bar.toNat (bitAt f.flags 0) f.tokd.toNat (some (s.rs f.len).toNat)) } s

/-- BARQ (R262): the value is the barrier's at the end of the issue cycle. -/
def execBarq (f : CC) (s : State) : Host.Outcome State Fault Refusal :=
  runOp {
    writes := [sreg f.tokd]
    eff := fun t => t.issueAccess (.barq f.bar.toNat f.tokd.toNat (bitAt f.flags 1)) none 0 0 0 0 false false } s

/-! ### Tokens (R253, R263, R264) -/

/-- A token that no outstanding copy of the context holds is complete (R253). -/
def State.tokenDone (s : State) (core x : Nat) (t : BitVec 16) : Bool :=
  decide (32768 < ((s.ctx core x).newest - t).toNat)
    || !((s.core core).cmds.any fun c => decide (c.x = x ∧ c.tok = t) && c.isCopy)

/-- TOKWAIT (R263). -/
def execTokwait (f : CC) (s : State) : Host.Outcome State Fault Refusal :=
  runOp {
    reads := [sreg f.src]
    eff := fun t => t.await (.tok (field (s.rs f.src) 0 16)) } s

/-- TOKTEST (R263): the value is the token's at the end of the issue cycle. -/
def execToktest (f : CC) (s : State) : Host.Outcome State Fault Refusal :=
  runOp {
    reads := [sreg f.src]
    writes := [sreg f.tokd]
    eff := fun t => t.issueAccess (.toktest (field (s.rs f.src) 0 16) f.tokd.toNat) none 0 0 0 0 false false } s

/-- CPCAN (R264): a command not started becomes a discarded one; a running one stops after its current block; a parked one
loses its fault; all but the first kind complete with error 4. -/
def State.cancelCopy (s : State) (core x : Nat) (t : BitVec 16) : State :=
  match (s.core core).cmds.find? fun c => decide (c.x = x ∧ c.tok = t) && c.isCopy with
  | none => s
  | some c =>
    match c.state with
    | .waiting => (s.withdrawFault core c).modCmd core c.id fun c => { c with cancelled := true, err := 4, faultTag := none }
    | .finishing => s
    | .stopped => (s.withdrawFault core c).modCmd core c.id fun c => { c with cancelled := true, err := 4, faultTag := none, state := .running }
    | .parked => (s.failCopy core c.id 4).modCmd core c.id fun c => { c with cancelled := true }
    | .running => s.modCmd core c.id fun c => { c with cancelled := true }

/-- CPCAN (R264). -/
def execCpcan (f : CC) (s : State) : Host.Outcome State Fault Refusal :=
  runOp {
    reads := [sreg f.src]
    eff := fun t => t.cancelCopy s.cur.core s.cur.x (field (s.rs f.src) 0 16) } s

end Sys2Proof.Machine
end

