-- ==== Sys2Proof/Machine/Tasks.lean ====
section
/-!
DEFINITION. Task instructions (spec/23 R306 to R314) and the form of operator parameter blocks (R287 to R290).
-/

namespace Sys2Proof.Machine

/-! ### Records at issue (R285, R306) -/

/-- EXTENT, then ENGINE, for the LOCAL record at a; TVAL is its address. -/
def recordCheck (s : State) (a : W64) : Option (Nat × W64) :=
  if !s.me.inWindow a.toNat 64 then some (causeEXTENT, a)
  else if recordOk (s.imageAtIssue a.toNat 64) then none else some (causeENGINE, a)

/-- A record becomes a unit created on the issuing core's die (R286). -/
def State.newUnit (s : State) (rec : List Byte) : WorkUnit × State :=
  let (id, s1) := s.newTaskid (dieOf s.cur.core)
  ({ unitOfRecord rec with taskid := id, wSince := s.now }, s1)

/-! ### SPAWN and SPAWN.D (R307) -/

/-- The checks and holds of SPAWN and SPAWN.D, whose record goes to a core (R297, R306): they publish as FENCE.REL.DEVC does, so that
they wait for the accesses before them (R272). -/
def spawnOp (reads : List (Nat × Nat)) (a : W64) (target : Nat) (send : WorkUnit → State → State) (s : State) : OpSem where
  reads := reads
  before := alignCheck a 64
  after := recordCheck s a
  hold := firstHold [s.bankHold (banksOfRun a.toNat 64),
    if s.pushRoom target && s.allPerformed s.cur.core s.cur.x s.seqN then .ok else .held false]
  eff := fun t =>
    let r := (t.publish s.cur.core s.cur.x s.me.gen t.seqN).newUnit (s.imageAtIssue a.toNat 64)
    send r.1 r.2

/-- SPAWN (R307). -/
def execSpawn (f : TS) (s : State) : Host.Outcome State Fault Refusal :=
  runOp (spawnOp [sreg f.a] (s.rs f.a) s.cur.core (fun u t => t.pushUnit s.cur.core u) s) s

/-- A record on its way to another core (R11), or at once in the queue of its own, where it is eligible from the next cycle (R307). -/
def State.sendRecord (s : State) (target : Nat) (u : WorkUnit) : State :=
  if target = s.cur.core then s.pushUnit target u
  else s.sendUnit s.cur.core target u

/-- SPAWN.D (R307). -/
def execSpawnD (f : TS) (s : State) : Host.Outcome State Fault Refusal :=
  let target := (field (s.rs f.b) 0 8).toNat
  runOp (spawnOp [sreg f.a, sreg f.b] (s.rs f.a) target (fun u t => t.sendRecord target u) s) s

/-! ### Operator parameter blocks (R287 to R290) -/

/-- Word o of a block's bytes, o a multiple of 8. -/
def blockWord (bs : List Byte) (o : Nat) : W64 := BitVec.ofNat 64 (ofBytes ((bs.drop o).take 8))

/-- Level l of a block. -/
def blockLevel (bs : List Byte) (l : Nat) : Level := levelOf (blockWord bs (16 * l)) (blockWord bs (16 * l + 8))

/-- Levels marked D, C or T are the walked ones (R290). -/
def Level.walked (v : Level) : Bool := decide (v.mark ≠ 0#2)

/-- The product of the COUNTs of the walked levels: the steps of the block. -/
def blockSteps (bs : List Byte) : Nat :=
  (upTo 6).foldl (fun n l => if (blockLevel bs l).walked then n * (blockLevel bs l).count.toNat else n) 1

/-- Tensor descriptor i as a 256-bit value. -/
def blockTensor (bs : List Byte) (i : Nat) : BitVec 256 := BitVec.ofNat 256 (ofBytes ((bs.drop (128 + 32 * i)).take 32))

/-- A block is well formed (R290). -/
def blockOk (bs : List Byte) : Bool :=
  let bctl := blockWord bs 104
  let map := blockWord bs 112
  ((upTo 6).all fun l => (blockLevel bs l).walked || ((upTo l).all fun j => !(blockLevel bs j).walked))
    && decide ((blockWord bs 96).toNat % 8 = 0)
    && ((upTo 6).all fun l => decide (field (blockWord bs (16 * l + 8)) 58 6 = 0#6))
    && decide (field bctl 36 16 = 0#16 ∧ field bctl 34 1 = 0#1 ∧ field bctl 31 1 = 0#1 ∧ field bctl 28 2 = 0#2)
    && decide (field map 29 35 = 0#35)
    && ((upTo 4).all fun i => let d := blockTensor bs i
      decide (field d 248 8 = 0#8 ∧ field d 109 19 = 0#19 ∧ field d 61 3 = 0#3))
    && decide (blockSteps bs ≤ 2 ^ 32)
    && decide ((field bctl 0 28).toNat % 8 = 0 ∧ (bitAt bctl 30 ∨ field bctl 0 28 = 0#28) ∧ (field map 0 28).toNat % 8 = 0
      ∧ (bitAt map 28 ∨ field map 0 28 = 0#28))

/-- The load of a SPAWNOP as an access at its place in the context's order (R308). -/
def blockLoad (s : State) (p : Region × Nat) : Access where
  id := s.seqN
  core := s.cur.core
  x := s.cur.x
  gen := s.me.gen
  strand := s.cur.strand
  slot := s.cur.slot
  ba := s.cur.ba
  kind := .load 256 0
  runs := [(p.1, p.2, 256)]
  ord := 0
  scope := 0
  ac := 0
  isLoad := false
  isStore := false
  due := s.now
  done := false
  results := []
  flags := 0
  seq := s.seqN

/-- Accesses of the unit that the block's load must follow; its own plain stores apart, whose bytes it reads where they are. -/
def blockWaits (s : State) (l : Access) : Bool :=
  s.accs.any fun e => decide (e.core = l.core ∧ e.x = l.x ∧ e.gen = l.gen) && !e.done && !e.isPlainStore && e.before l

/-- The cells of a plain store on its way. -/
def Access.storeCells (a : Access) : List (Nat × Byte) :=
  match a.kind, a.place with
  | .store bs, some r => cellRun (cellKey r a.addr) bs
  | .vstore cells _, _ => cells
  | _, _ => []

/-- The 256 bytes of a block as the context's plain load returns them, its stores on their way included (R269). -/
def blockBytes (s : State) (l : Access) (p : Region × Nat) : List Byte :=
  let key := cellKey p.1 p.2
  let own := (s.accs.filter fun e => decide (e.core = l.core ∧ e.x = l.x ∧ e.gen = l.gen) && !e.done && e.isPlainStore).flatMap
    Access.storeCells
  let base := s.plainBytes s.cur.core s.cur.x 0 key 256
  (upTo 256).map fun i => match (own.filter fun c => decide (c.1 = key + i)).getLast? with
    | some c => c.2
    | none => base.getD i 0#8

/-- SPAWNOP (R308): the block is read, checked, and waits for its acceptance. -/
def execSpawnop (f : TS) (s : State) : Host.Outcome State Fault Refusal :=
  let a := s.rs f.a
  let p := (s.me.place s.cur.core 4 a.toNat 256 true false).getD (.dev, 0)
  let l := blockLoad s p
  let bs := blockBytes s l p
  runOp {
    reads := [sreg f.a]
    before := alignCheck a 64
    after := extentCheck (s.me.place s.cur.core 4 a.toNat 256 true false) a
    hold :=
      if blockWaits s l then .held false
      else if blockOk bs then .ok else .faulted ⟨causeENGINE, a, s.cur.slot⟩
    eff := fun t =>
      let (due, u) := (t.asked 256).roundTrip s.cur.core (t.tileOf s.cur.core p.1 p.2)
      u.await (.block a bs due t.seqN) } s

/-! ### Ends (R309 to R311) -/

/-- TEND, TCONT and TYIELD are ILLEGAL in a forked context (R35). -/
def forkedIllegal (s : State) : Option (Nat × W64) := if s.me.lockstep then none else some s.illegal

/-- TEND (R309): its bundle's other operations take effect, then the context's work is waited for. -/
def execTend (_ : TS) (s : State) : Host.Outcome State Fault Refusal :=
  runOp {
    before := forkedIllegal s
    eff := fun t => { t with cur := { t.cur with tend := some none } } } s

/-- TCONT (R310): the record takes the JV and JADDR of the ending unit. -/
def execTcont (f : TS) (s : State) : Host.Outcome State Fault Refusal :=
  let a := s.rs f.a
  let step := (s.me.unit.map WorkUnit.isStep).getD false
  let rec' := unitOfRecord (s.imageAtIssue a.toNat 64)
  let old := (s.me.unit.map WorkUnit.ctl).getD 0
  let ctl := (rec'.ctl &&& ~~~0x7FFFFFFF#64) ||| (old &&& 0x7FFFFFFF#64)
  runOp {
    reads := [sreg f.a]
    before := if step then some s.illegal else firstFail [forkedIllegal s, alignCheck a 64]
    after := recordCheck s a
    hold := s.bankHold (banksOfRun a.toNat 64)
    eff := fun t => { t with cur := { t.cur with tend := some (some { rec' with ctl := ctl }) } } } s

/-- TYIELD (R311): it waits while the save region has no room (R327); the context is saved after its bundle. -/
def execTyield (_ : TS) (s : State) : Host.Outcome State Fault Refusal :=
  runOp {
    before := forkedIllegal s
    hold := if s.saveRoom s.cur.core s.cur.x then .ok else .held false
    eff := fun t => { t with cur := { t.cur with yield := true } } } s

/-! ### Join words (R312 to R314) -/

/-- A POOL word address (R140). -/
def poolExtent (a : W64) : Option (Nat × W64) := if a.toNat < 268435456 then none else some (causeEXTENT, a)

/-- An access of the task instructions to a join word. -/
def State.joinAccess (s : State) (kind : AccessKind) (a : W64) (ord : Nat) : State :=
  s.issueAccess kind (some (poolPlace a.toNat).1) (poolPlace a.toNat).2 ord 3 0 true false

/-- TSTAT (R312): with A = 0 the word that released the task. -/
def execTstat (f : TS) (s : State) : Host.Outcome State Fault Refusal :=
  let a := s.rs f.a
  runOp {
    reads := [sreg f.a]
    writes := [sreg f.d]
    before := if f.a = 0#6 then none else alignCheck a 8
    after := if f.a = 0#6 then none else poolExtent a
    eff := fun t =>
      if f.a = 0#6 then t.issueAccess (.query f.d.toNat t.me.relWord) none 0 0 0 0 true false
      else t.joinAccess (.tstat a.toNat f.d.toNat) a 1 } s

/-- JCNEW (R313). -/
def execJcnew (f : TS) (s : State) : Host.Outcome State Fault Refusal :=
  let a := s.rs f.a
  let b := s.rs f.b
  runOp {
    reads := [sreg f.a, sreg f.b]
    writes := [sreg f.d]
    before := firstFail [alignCheck a 8, alignCheck b 64]
    after := firstFail [poolExtent a, recordCheck s b]
    hold := s.bankHold (banksOfRun b.toNat 64)
    eff := fun t => t.joinAccess (.jcnew a.toNat (field f.imm 0 30).toNat (s.imageAtIssue b.toNat 64) f.d.toNat) a 2 } s

/-- JCADD (R314). -/
def execJcadd (f : TS) (s : State) : Host.Outcome State Fault Refusal :=
  let a := s.rs f.a
  runOp {
    reads := [sreg f.a, sreg f.b]
    writes := [sreg f.d]
    before := alignCheck a 8
    after := poolExtent a
    eff := fun t => t.joinAccess (.jcadd a.toNat (field (s.rs f.b) 0 32).toNat f.d.toNat) a 4 } s

end Sys2Proof.Machine
end

