-- ==== Sys2Proof/Machine/Mailbox.lean ====
section
/-!
DEFINITION. Step mailboxes (spec/27 R340 to R343, R347 to R352): the moves of a pair, its entries, and MBRECV, MBSEND and
MBSTAT at issue and at the mailbox unit.
-/

namespace Sys2Proof.Machine

/-! ### Entries (R341) -/

/-- An entry stamped by the unit. -/
def entryBytes (kind reason ptr epid step ver paddr len prev : Nat) (payload : List Byte) : List Byte :=
  toBytes 4 (epid % 2 ^ 20 + kind * 2 ^ 24 + ptr * 2 ^ 26 + reason * 2 ^ 28) ++ toBytes 4 step ++ toBytes 2 ver ++ toBytes 2 paddr
    ++ toBytes 2 len ++ toBytes 2 prev ++ List.replicate 16 0#8 ++ padTo 224 payload

/-- n bytes of an entry from byte o as a number. -/
def entryField (e : List Byte) (o n : Nat) : Nat := ofBytes ((e.drop o).take n)

def entryKind (e : List Byte) : Nat := entryField e 0 4 / 2 ^ 24 % 4

/-! ### Moves of a pair (R340) -/

/-- The state codes of R347. -/
def pairIDLE : Nat := 0
def pairOBS : Nat := 1
def pairACT : Nat := 2
def pairTAKE : Nat := 3
def pairENDED : Nat := 4

/-- EP.SWITCH with START on an IDLE pair. -/
def startPair (epid : BitVec 20) (mode : BitVec 1) (polver : BitVec 16) : Pair :=
  { state := pairOBS, epid := epid, step := 0, mode := mode, rver := polver, reason := 0, chg := 0, obs := [], act := [] }

/-- MB.POST in OBS_TURN. -/
def Pair.post (p : Pair) (n ptr len : Nat) (payload : List Byte) : Pair :=
  { p with state := pairACT,
           obs := p.obs ++ [entryBytes 1 0 ptr p.epid.toNat p.step.toNat p.rver.toNat n len 0 payload] }

/-- MB.TAKE in TAKE: the entry, and the pair with its step advanced. -/
def Pair.take (p : Pair) : List Byte × Pair :=
  (p.act.headD [], { p with state := pairOBS, step := p.step + 1, act := [] })

/-- An ending with a reason, in OBS_TURN, ACT_TURN or TAKE (R340). -/
def Pair.finish (p : Pair) (n reason : Nat) : Pair :=
  { p with state := pairENDED, reason := BitVec.ofNat 4 reason, act := [],
           obs := p.obs ++ [entryBytes 3 reason 0 p.epid.toNat p.step.toNat p.rver.toNat n 0 0 []] }

/-- The oldest OBS-box entry received; a TERMINATED one returns the pair to IDLE. -/
def Pair.receive (p : Pair) : Option (List Byte × Pair) :=
  match p.obs with
  | [] => none
  | e :: r => some (e, { p with obs := r, state := if entryKind e = 3 then pairIDLE else p.state })

/-- MBSEND offered to a pair: the status and the pair after it (R343, R350). -/
def Pair.offer (p : Pair) (n : Nat) (e : List Byte) : Nat × Pair :=
  let ver := entryField e 8 2
  let delta := (BitVec.ofNat 16 ver - p.rver).toNat
  let changed := decide (delta ≠ 0)
  if p.state = pairENDED ∨ p.state = pairIDLE then (3, p)
  else if p.state ≠ pairACT ∨ entryField e 0 4 % 2 ^ 20 ≠ p.epid.toNat ∨ entryField e 4 4 ≠ p.step.toNat ∨ p.obs ≠ [] then (2, p)
  else if 32768 ≤ delta then (4, p)
  else if p.mode = 0#1 ∧ changed then (5, p.finish n 3)
  else
    let out := entryBytes 2 0 (entryField e 0 4 / 2 ^ 26 % 2) p.epid.toNat p.step.toNat ver n (entryField e 12 2)
      (if changed then p.rver.toNat else 0) (e.drop 32)
    (0, { p with
      state := pairTAKE, act := [out], rver := BitVec.ofNat 16 ver,
      chg := if changed then BitVec.ofNat 5 (min (p.chg.toNat + 1) 31) else p.chg })

/-- The pair status word (R347). -/
def Pair.word (p : Pair) : W64 :=
  BitVec.ofNat 64 (p.rver.toNat * 2 ^ 48 + p.step.toNat * 2 ^ 16 + p.reason.toNat * 2 ^ 12 + p.mode.toNat * 2 ^ 11
    + p.state * 2 ^ 8 + p.obs.length * 2 ^ 6 + p.act.length * 2 ^ 5 + p.chg.toNat)

/-! ### MBRECV, MBSEND and MBSTAT at issue (R348 to R351) -/

/-- MAILBOX with its reason. -/
def mailboxFault (reason : Nat) : Option (Nat × W64) := some (causeMAILBOX, BitVec.ofNat 64 reason)

/-- An access of the mailbox operations, in its place among the context's strong accesses (R352). -/
def State.mailAccess (s : State) (kind : AccessKind) : State := s.issueAccess kind none 0 3 2 0 true false

/-- MBRECV (R349). -/
def execMbrecv (f : TS) (s : State) : Host.Outcome State Fault Refusal :=
  let a := s.rs f.a
  let b := s.rs f.b
  let m := (field f.imm 0 6).toNat + 1
  let pair := (field b 0 14).toNat
  let n := (field b 16 16).toNat
  runOp {
    reads := [sreg f.a, sreg f.b]
    writes := [sreg f.d]
    before := alignCheck a 256
    after := firstFail [
      if s.me.inWindow a.toNat (256 * m) then none else some (causeEXTENT, a),
      if field b 32 32 = 0#32 then none else mailboxFault 1,
      if 1 ≤ n ∧ n ≤ 16384 ∧ pair + n ≤ 16384 then none else mailboxFault 2]
    eff := fun t => t.mailAccess (.mbrecv a.toNat (field b 0 16).toNat n m f.d.toNat) } s

/-- MBSEND (R350): the entry is read at issue. -/
def execMbsend (f : TS) (s : State) : Host.Outcome State Fault Refusal :=
  let a := s.rs f.a
  let b := s.rs f.b
  let e := s.imageAtIssue a.toNat 256
  runOp {
    reads := [sreg f.a, sreg f.b]
    writes := [sreg f.d]
    before := alignCheck a 32
    after := firstFail [
      if s.me.inWindow a.toNat 256 then none else some (causeEXTENT, a),
      if b.toNat / 2 ^ 16 = 0 then none else mailboxFault 1,
      if entryKind e = 2 then none else mailboxFault 3,
      if entryField e 12 2 ≤ 224 then none else mailboxFault 4]
    eff := fun t => t.mailAccess (.mbsend (field b 0 16).toNat e f.d.toNat) } s

/-- MBSTAT (R351). -/
def execMbstat (f : TS) (s : State) : Host.Outcome State Fault Refusal :=
  let a := s.rs f.a
  runOp {
    reads := [sreg f.a]
    writes := [sreg f.d]
    after := if a.toNat / 2 ^ 16 = 0 then none else mailboxFault 1
    eff := fun t => t.mailAccess (.mbstat (field a 0 16).toNat f.d.toNat) } s

/-! ### The mailbox unit (R342, R349 to R351) -/

/-- One pair of an MBRECV visited: entries taken so far, and the state. -/
def State.receiveFrom (s : State) (core lo m : Nat) (taken n : Nat) : Nat × State :=
  if m ≤ taken then (taken, s)
  else match (s.pair n).receive with
    | none => (taken, s)
    | some (e, p) => (taken + 1, (s.setPair n p).networkWrite (.scratch core) (lo + 256 * taken) e)

/-- MBRECV over n pairs in ascending order (R349). -/
def State.performRecv (s : State) (a : Access) (lo pair n m d : Nat) : State :=
  let r := (upTo n).foldl (fun (z : Nat × State) i => z.2.receiveFrom a.core lo m z.1 (pair + i)) (0, s)
  r.2.answer a [.scalar d (BitVec.ofNat 64 r.1)] 0

/-- MBSEND (R350). -/
def State.performSend (s : State) (a : Access) (pair : Nat) (e : List Byte) (d : Nat) : State :=
  let r := (s.pair pair).offer pair e
  (s.setPair pair r.2).answer a [.scalar d (BitVec.ofNat 64 r.1)] 0

/-- A mailbox operation reaches the unit. -/
def State.performMail (s : State) (a : Access) : State :=
  match a.kind with
  | .mbrecv lo pair n m d => s.performRecv a lo pair n m d
  | .mbsend pair e d => s.performSend a pair e d
  | .mbstat pair d => s.answer a [.scalar d (s.pair pair).word] 0
  | _ => s

end Sys2Proof.Machine
end

