-- ==== Sys2Proof/Machine/Bundle.lean ====
section
/-!
DEFINITION. Bundles (spec/05 R46 to R51, R65 to R67; spec/03 R26 to R41; spec/09 R104 to R111): fetching one, the checks that
come before its operations, and what happens at its end: collisions, loops, repeats, the split of FORK and the merge of JOIN.
-/

namespace Sys2Proof.Machine

/-! ### Fetching (R47, R48) -/

/-- The word of a code section at a virtual address; none outside them (R48). -/
def State.codeWord (s : State) (a : W64) : Option W64 :=
  if s.codes.any fun c => decide (c.1 ≤ a.toNat ∧ a.toNat + 8 ≤ c.1 + c.2) then some (BitVec.ofNat 64 (s.word .code a.toNat 8))
  else none

/-- What a fetch finds: a word outside the code section, words that break R47 (the first of them, and their lowest slot), or a
bundle. -/
inductive Fetched where
  | outside (a : W64)
  | broken (first : W64) (slot : Nat)
  | bundle (ws : List W64)
  deriving DecidableEq, Repr

/-- Words that break R47: a fault of the whole bundle, whose slot is the lowest of those read (R67, R120). -/
def Fetched.ofBroken (ws : List W64) : Fetched := .broken (ws.headD 0) (leastOr 0 (ws.map fun w => (field w 60 3).toNat))

/-- The words of the bundle at ba from those already read: slots rise strictly, and the last word has E. -/
def State.fetchMore (s : State) (ba : W64) : Nat → List W64 → Fetched
  | 0, ws => .ofBroken ws
  | n + 1, ws =>
    let a := ba + BitVec.ofNat 64 (8 * ws.length)
    match s.codeWord a with
    | none => .outside a
    | some w =>
      let slot := (field w 60 3).toNat
      let rising := match ws.getLast? with
        | some p => decide ((field p 60 3).toNat < slot)
        | none => true
      if !rising then .ofBroken (ws ++ [w])
      else if bitAt w 63 then .bundle (ws ++ [w])
      else if slot = 7 then .ofBroken (ws ++ [w])
      else s.fetchMore ba n (ws ++ [w])

def State.fetchBundle (s : State) (ba : W64) : Fetched := s.fetchMore ba 9 []

/-! ### Repeats (R51, R109, R110) -/

/-- The widths of the destination and source fields that REP steps, and the low bit of the source field; none where the
format has none (R51). -/
def stepFields (maj : Nat) : Option (Nat × Nat × Nat) :=
  if maj = 0x17 ∨ (0x20 ≤ maj ∧ maj ≤ 0x3D) then some (6, 6, 36)
  else if 0x40 ≤ maj ∧ maj ≤ 0x5D then some (5, 5, 38)
  else if 0x60 ≤ maj ∧ maj ≤ 0x67 then some (5, 6, 37)
  else none

/-- Bits lo to lo + w − 1 of a word replaced. -/
def putField (v : W64) (lo w n : Nat) : W64 :=
  BitVec.ofNat 64 (v.toNat / 2 ^ (lo + w) * 2 ^ (lo + w) + n % 2 ^ w * 2 ^ lo + v.toNat % 2 ^ lo)

/-- The word of repeat i (R51). -/
def stepWord (w : W64) (step : BitVec 6) (i : Nat) : W64 :=
  match stepFields (field w 52 7).toNat with
  | none => w
  | some (dw, sw, sl) =>
    let size (b : Nat) : Nat := 2 ^ (field step b 2).toNat
    let w1 := if bitAt step 5 then putField w (48 - dw) dw ((field w (48 - dw) dw).toNat + i * size 3) else w
    if bitAt step 2 then putField w1 sl sw ((field w sl sw).toNat + i * size 0) else w1

/-- A target that REP may not have: its major, or a stepping that its format does not permit (R110). -/
def badTarget (w : W64) (step : BitVec 6) : Bool :=
  let maj := (field w 52 7).toNat
  decide ((1 ≤ maj ∧ maj ≤ 5) ∨ maj = 0x10 ∨ maj = 0x11 ∨ maj = 0x18 ∨ maj = 0x79)
    || ((stepFields maj).isNone && (bitAt step 5 || bitAt step 2))

def Ctx.repeatOf (k : Ctx) (slot : Nat) : Option Repeat := k.repeats.getD slot none

/-- A slot in which a repeat of the strand is under way. -/
def Ctx.runningSlot (k : Ctx) (t : Strand) (slot : Nat) : Bool :=
  match k.repeatOf slot with
  | some r => decide (r.strand = t.id) && r.target.isSome
  | none => false

/-- A slot for whose next operation a repeat of the strand is armed. -/
def Ctx.armed (k : Ctx) (t : Strand) (slot : Nat) : Option Repeat :=
  match k.repeatOf slot with
  | some r => if r.strand = t.id ∧ r.target = none then some r else none
  | none => none

def Ctx.setRepeat (k : Ctx) (slot : Nat) (r : Option Repeat) : Ctx := { k with repeats := k.repeats.setIfInBounds slot r }

/-! ### What a strand offers -/

/-- A bundle, or a repeat of one operation, that a strand offers for issue. -/
structure Offer where
  strand : Strand
  ba : W64
  nw : Nat
  x : Bool
  /-- slot, operation and word, in ascending slots -/
  ops : List (Nat × Instr × W64)
  rep : Bool
  /-- a fault found before the operations themselves are checked (R66, R48) -/
  bad : Option Exn
  /-- the repeat that the fault disarms (R110) -/
  disarm : Option Nat
  deriving DecidableEq, Repr

def Offer.slots (o : Offer) : BitVec 8 := setOf (o.ops.map (·.1))

/-- An operation in a slot that its major or its strand does not allow (R29, R33, R64). -/
def slotBad (t : Strand) (slot : Nat) (i : Instr) : Bool :=
  !(slotSet i).getLsbD slot || !t.slots.getLsbD slot
    || (match i with
      | .join _ => decide (slot ≠ t.low)
      | _ => false)

/-- The first static check that a word fails: an unassigned encoding is left to its own meaning (R65, R66). -/
def wordFault (k : Ctx) (t : Strand) (slot : Nat) (i : Instr) (w : W64) : Option (Exn × Option Nat) :=
  if slotBad t slot i then some (⟨causeSLOT, w, slot⟩, none)
  else if !i.wf then some (⟨causeILLEGAL, w, slot⟩, none)
  else match k.armed t slot with
    | some r => if badTarget w r.step then some (⟨causeILLEGAL, w, slot⟩, some slot) else none
    | none => none

def isUnassigned : Instr → Bool
  | .unassignedEncoding _ => true
  | _ => false

/-- The words of a bundle checked in ascending slots (R66): the operations, or the one that is unassigned alone, and the
fault of another check. -/
def checkWords (k : Ctx) (t : Strand) (ops : List (Nat × Instr × W64)) :
    List (Nat × Instr × W64) × Option (Exn × Option Nat) :=
  match ops.find? fun o => isUnassigned o.2.1 || (wordFault k t o.1 o.2.1 o.2.2).isSome with
  | none => (ops, none)
  | some o => if isUnassigned o.2.1 then ([o], none) else (ops, wordFault k t o.1 o.2.1 o.2.2)

/-- A word as slot, operation and word. -/
def opOf (w : W64) : Nat × Instr × W64 := ((field w 60 3).toNat, (decodeOp w).op, w)

/-- The bundle at a strand's pc (R47, R48, R66, R67). -/
def State.offerBundle (s : State) (k : Ctx) (t : Strand) : Offer :=
  let base : Offer := { strand := t, ba := t.pc, nw := 1, x := false, ops := [], rep := false, bad := none, disarm := none }
  let illegal (w : W64) (slot : Nat) : Offer := { base with ops := [(slot, .unassignedEncoding w, w)] }
  match s.fetchBundle t.pc with
  | .outside a => { base with bad := some ⟨causeEXTENT, a, t.low⟩ }
  | .broken w slot => illegal w slot
  | .bundle ws =>
    let w0 := ws.headD 0
    if ws.any fun w => decide (bitAt w 59 ≠ bitAt w0 59) then illegal w0 (field w0 60 3).toNat
    else
      let c := checkWords k t (ws.map opOf)
      { base with nw := ws.length, x := bitAt w0 59, ops := c.1, bad := c.2.map (·.1), disarm := c.2.bind (·.2) }

/-- The next repeat in a slot of a strand. A stepping that makes the word ill-formed only now is ILLEGAL at this repeat, with
the earlier ones in effect (log entry 36). -/
def Ctx.offerRepeat (k : Ctx) (t : Strand) (slot : Nat) : Option Offer :=
  match k.repeatOf slot with
  | none => none
  | some r =>
    match r.target with
    | none => none
    | some (w, ba, nw) =>
      let v := stepWord w r.step r.index
      let i := (decodeOp v).op
      some { strand := t, ba := ba, nw := nw, x := bitAt w 59, ops := [(slot, i, v)], rep := true,
             bad := if i.wf then none else some ⟨causeILLEGAL, v, slot⟩, disarm := none }

/-- What the strands of a context offer in this cycle (R22, R109, R375). -/
def State.offers (s : State) (core x : Nat) : List Offer :=
  let k := s.ctx core x
  (sortStrands k.strands).flatMap fun t =>
    if t.waits ≠ [] then []
    else
      let reps := (bitsOf t.slots 8).filter (k.runningSlot t)
      if !reps.isEmpty then reps.filterMap (k.offerRepeat t)
      else if t.bubbles ≠ 0 then [] else [s.offerBundle k t]

/-! ### Crossings (R37, R38) -/

/-- The bundle has another X bit than its strand's last bundle (R37). -/
def Offer.crosses (o : Offer) : Bool :=
  o.bad.isNone && !(o.ops.any fun p => isUnassigned p.2.1) && !o.rep
    && (match o.strand.kind with
      | some b => decide (b ≠ o.x)
      | none => false)

/-- The checks of R38 at a crossing: TIMING_MODE, then ENGINE for an unresolved guard. -/
def State.crossingFault (s : State) (core x : Nat) (o : Offer) : Option Exn :=
  let k := s.ctx core x
  let slot := match o.ops.head? with
    | some p => p.1
    | none => o.strand.low
  if o.x && !k.clkReq then some ⟨causeTIMING, 0, slot⟩
  else if s.unresolvedGuard core x 0 then some ⟨causeENGINE, Config.openWord s.freeN, slot⟩
  else none

/-! ### Collisions (R41) -/

/-- The target of a taken operation. -/
def SeqAct.target : SeqAct → Option W64
  | .jump _ t => some t
  | .call _ t _ _ => some t
  | .loopSkip _ _ ex => some ex
  | _ => none

/-- The loop level that an operation writes. -/
def SeqAct.level : SeqAct → Option Nat
  | .loop _ l _ _ _ => some l
  | .loopSkip _ l _ => some l
  | .lcwr _ l _ => some l
  | _ => none

/-- The link register that an operation writes. -/
def SeqAct.link : SeqAct → Option Nat
  | .call _ _ r _ => some r
  | _ => none

/-- Two sequencer operations of one bundle collide. -/
def SeqAct.collides (a b : SeqAct) : Bool :=
  (a.target.isSome && b.target.isSome && decide (a.target ≠ b.target))
    || (a.level.isSome && decide (a.level = b.level)) || (a.link.isSome && decide (a.link = b.link))

/-- The operations that take effect, lowest slot first, and whether another was suppressed. One that collides with none of those
that take effect takes effect itself (log entry 36). -/
def settleActs : List SeqAct → List SeqAct × Bool
  | l => l.foldl (fun (z : List SeqAct × Bool) a => if z.1.any fun b => a.collides b then (z.1, true) else (z.1 ++ [a], z.2)) ([], false)

/-! ### Loops (R106 to R108) -/

abbrev Loops := Vector Loop 4

/-- A loop-level effect. -/
def SeqAct.onLoops (l : Loops) : SeqAct → Loops
  | .loop _ v n st ex =>
    let age := l.toList.foldl (fun a q => max a q.age) 0 + 1
    l.setIfInBounds v { l.getD v Loop.reset with active := true, st := st, ex := ex, lc := n, age := age }
  | .loopSkip _ v _ => l.setIfInBounds v { l.getD v Loop.reset with active := false, lc := 0 }
  | .lcwr _ v n =>
    let q := l.getD v Loop.reset
    l.setIfInBounds v (if q.active then { q with pval := n, pend := true } else { q with lc := n })
  | _ => l

/-- The newest active level whose exit is an address. -/
def newestAt (l : Loops) (a : W64) : Option Nat :=
  let c := (upTo 4).filter fun i => (l.getD i Loop.reset).active && decide ((l.getD i Loop.reset).ex = a)
  c.find? fun i => c.all fun j => decide ((l.getD j Loop.reset).age ≤ (l.getD i Loop.reset).age)

/-- The end-of-body test: the loops after it, and the start address of a back-edge (R107). -/
def bodyTest (a : W64) : Nat → Loops → Loops × Option W64
  | 0, l => (l, none)
  | n + 1, l =>
    match newestAt l a with
    | none => (l, none)
    | some i =>
      let q := l.getD i Loop.reset
      let c := if q.pend then q.pval else q.lc
      if 1 < c.toNat then (l.setIfInBounds i { q with lc := c - 1, pend := false }, some q.st)
      else bodyTest a n (l.setIfInBounds i { q with lc := 0, pend := false, active := false })

/-! ### The end of a bundle -/

/-- An entry put before those of the same issue cycle from higher slots, so that R40's order among them holds. -/
def insertPending (p : Pending) (seq0 : Nat) : List Pending → List Pending
  | [] => [p]
  | h :: r => if seq0 ≤ h.seq ∧ p.slot < h.slot then p :: h :: r else h :: insertPending p seq0 r

/-- A CALL's link is on its way, of latency 1 (R104). -/
def State.postLink (s : State) (a : SeqAct) : State :=
  match a with
  | .call slot _ reg link =>
    let p : Pending := {
      res := .scalar reg link, left := 1, flags := 0, slot := slot, strand := s.cur.strand, ba := s.cur.ba,
      exposed := s.cur.exposed, inter := false, isLoad := false, frozen := false, seq := s.seqN }
    { s.modMe (fun k => { k with pend := insertPending p s.cur.seq0 k.pend }) with seqN := s.seqN + 1 }
  | _ => s

/-- Repeats whose target the bundle held are under way; a count of 1 is done (R109). -/
def Ctx.startRepeats (k : Ctx) (o : Offer) : Ctx :=
  o.ops.foldl (fun k p => match k.armed o.strand p.1 with
    | some r => k.setRepeat p.1 (if r.count ≤ 1 then none else some { r with index := 1, target := some (p.2.2, o.ba, o.nw) })
    | none => k) k

/-- The repeats that the bundle arms (R109). -/
def Ctx.arm (k : Ctx) (strand : Nat) (arms : List (Nat × Nat × BitVec 6)) : Ctx :=
  arms.foldl (fun k a => k.setRepeat a.1 (some { strand := strand, count := a.2.1, step := a.2.2, index := 0, target := none })) k

/-- The strands that FORK makes (R26, R28, R111): group 0 goes on as the issuing strand, the others start after two
bubbles. -/
def Ctx.split (k : Ctx) (strand seq : Nat) (gs : List Group) : Ctx :=
  match k.strand? strand with
  | none => k
  | some t =>
    let child (i : Nat) (g : Group) : Strand :=
      if i = 0 then { t with slots := g.slots, sOwn := g.sOwn, vOwn := g.vOwn, mOwn := g.mOwn, pOwn := g.pOwn }
      else { t with
        id := k.nextStrand + i, slots := g.slots, pc := g.entry, sOwn := g.sOwn, vOwn := g.vOwn, mOwn := g.mOwn,
        pOwn := g.pOwn, loops := Vector.replicate 4 Loop.reset, waits := [], bubbles := 3,
        anc := t.anc ++ [(t.id, seq)] }
    let kids := (upTo gs.length).filterMap fun i => (gs[i]?).map (child i)
    let lost := (gs.drop 1).foldl (fun m g => m ||| g.slots) 0#8
    { k with
      strands := k.strands.filter (fun u => decide (u.id ≠ strand)) ++ kids
      nextStrand := k.nextStrand + gs.length
      repeats := Vector.ofFn fun i : Fin 8 => if lost.getLsbD i.val then none else k.repeatOf i.val }

/-- A wait as its bundle issues: FENCE.ALL waits for what stood before the issue cycle (R118). -/
def Wait.begun (seq0 : Nat) : Wait → Wait
  | .all _ => .all seq0
  | w => w

/-- The end of a bundle, from the strand's cursor: its sequencer operations, the loop test, its repeats, its waits and its
fork (R41, R107, R109, R111, R375). The waits of several repeats of one cycle add up. -/
def State.endBundle (s : State) (o : Offer) : State :=
  let c := s.cur
  let (acts, collided) := settleActs c.acts
  let s1 := acts.foldl State.postLink s
  let s2 := s1.modCtx c.core c.x fun k =>
    let t := k.strandD o.strand.id
    let loops := acts.foldl SeqAct.onLoops t.loops
    let succ := o.ba + BitVec.ofNat 64 (8 * o.nw)
    let taken := acts.findSome? SeqAct.target
    let (loops, back) := match taken with
      | some _ => (loops, none)
      | none => bodyTest succ 4 loops
    let next := (taken.orElse fun _ => back).getD succ
    let waits := c.waits.map (Wait.begun c.seq0)
    let u (t : Strand) : Strand :=
      let v := { t with waits := t.waits ++ waits, waitBa := if waits = [] then t.waitBa else o.ba }
      if o.rep then v
      else { v with pc := next, kind := some o.x, loops := loops, bubbles := if taken.isSome then 3 else 0 }
    let k1 := k.modStrand t.id u
    let k2 := if o.rep then k1 else (k1.startRepeats o).arm t.id c.arms
    { k2 with brcol := k2.brcol || collided }
  let s3 := match c.fork with
    | some gs => { s2.modCtx c.core c.x (fun k => k.split o.strand.id s2.seqN gs) with seqN := s2.seqN + 1 }
    | none => s2
  { s3 with cur := c }

/-! ### JOIN (R33, R34) -/

/-- The partners of a mask merged: the lowest one goes on; what else their JOIN bundles wait for is waited for still (R34,
R375). -/
def State.merge (s : State) (core x : Nat) (m : BitVec 8) : State :=
  let k := s.ctx core x
  let ps := (sortStrands k.strands).filter fun t => decide (t.slots &&& m ≠ 0#8)
  match ps with
  | [] => s
  | lead :: rest =>
    let named (id : Nat) : Bool := ps.any fun t => decide (t.id = id)
    let gone := rest.foldl (fun a t => a ||| t.slots) 0#8
    let s1 := s.modCtx core x fun k => { k with
      strands := mergeStrands s.seqN m k.strands
      pend := k.pend.map fun p => if named p.strand then { p with strand := lead.id } else p
      repeats := Vector.ofFn fun i : Fin 8 => if gone.getLsbD i.val then none else k.repeatOf i.val }
    { s1 with
      accs := s1.accs.map (fun a => if a.core = core ∧ a.x = x ∧ a.gen = k.gen ∧ named a.strand then { a with strand := lead.id } else a),
      seqN := s1.seqN + 1 }

/-- Every JOIN that can complete does; the strands whose JOIN is no longer valid are put back before it, and those strands as they
stood are the answer, for their fault (R34). -/
def State.joins (s : State) (core x : Nat) : Nat → State × List Strand
  | 0 => (s, [])
  | n + 1 =>
    match joinReady (s.ctx core x).strands with
    | none => (s, [])
    | some m =>
      let s1 := s.merge core x m
      let ts := (s1.ctx core x).strands
      let (s2, l) := (s1.modCtx core x fun k => { k with strands := putBack ts }).joins core x n
      (s2, ts.filter (joinBroken ts) ++ l)

end Sys2Proof.Machine
end

