-- ==== Sys2Proof/Machine/IssueEvents.lean ====
section
/-!
DEFINITION. The events of a context's own issue (spec/03 R35, R38, R40, R45, R375; spec/09 R109, R124, R125; spec/13 R187;
spec/19 R261; spec/21 R279; spec/25 R317): repeats, drains, completion waits, landings, posted faults, and words that decode to
no operation. Each leaves the state as it is where it does not apply.
-/

namespace Sys2Proof.Machine

/-- An event: its effect where its condition holds. -/
def event (on : Bool) (f : State → State) (s : State) : Host.Outcome State Fault Refusal := .next (if on then f s else s)

/-! ### Issue -/

/-- UNASSIGNED_ENCODING (R65): the bundle raises ILLEGAL precisely. -/
def execUnassignedEncoding (w : W64) (s : State) : Host.Outcome State Fault Refusal := runOp { before := some (causeILLEGAL, w), eff := id } s

/-- REP_REPEAT_ISSUE (R109): the repeat just issued in the cursor's slot is counted; after the last one it is over. -/
def execRepRepeatIssue (s : State) : Host.Outcome State Fault Refusal :=
  event true (fun s => s.modMe fun k => match k.repeatOf s.cur.slot with
    | some r => if r.target.isSome
        then k.setRepeat s.cur.slot (if r.index + 1 < r.count then some { r with index := r.index + 1 } else none) else k
    | none => k) s

/-- A control-domain cycle of a core in which its contexts may act: no mode switch, its cluster on (R353, R357, R361). -/
def State.controlTick (s : State) (core : Nat) : Bool := s.domainTick core 0 && s.clusterOn core

/-- A reference cycle of a core's control domain in which its clocks run (R353, R355, R357, R361). -/
def State.awake (s : State) (core : Nat) : Bool :=
  !s.frozen core && s.clusterOn core && !(s.core core).stretched.getLsbD 0

/-- The context runs its unit. -/
def Ctx.running (k : Ctx) : Bool := decide (k.state = .running) && k.unit.isSome

/-- CROSSING_DRAIN_END (R38): the context issues again. -/
def execCrossingDrainEnd (s : State) : Host.Outcome State Fault Refusal :=
  event (s.controlTick s.cur.core && s.me.running && decide (s.me.drain = .crossing) && s.drained s.cur.core s.cur.x)
    (fun s => s.modMe fun k => { k with drain := .none }) s

/-- What the handler itself has under way (R35). -/
def State.handlerQuiet (s : State) (core x : Nat) : Bool :=
  let k := s.ctx core x
  let mine (n : Nat) : Bool := k.strands.any fun t => decide (t.id = n)
  (k.pend.all fun p => p.frozen || !mine p.strand)
    && (s.accs.all fun a => !(decide (a.core = core ∧ a.x = x ∧ a.gen = k.gen) && mine a.strand && !a.dests.isEmpty))
    && ((s.core core).cmds.all fun c => !(decide (c.x = x) && mine c.strand))

/-- TRET_RESUME (R35, R122): the handler's work is drained and the stopped strands run on. -/
def execTretResume (s : State) : Host.Outcome State Fault Refusal :=
  event (s.controlTick s.cur.core && s.me.running && decide (s.me.drain = .tret) && s.handlerQuiet s.cur.core s.cur.x)
    (fun s => s.modMe Ctx.leaveHandler) s

/-- The divisors that a context is draining for. -/
def Ctx.newDivisors (k : Ctx) : Option (BitVec 12) :=
  match k.drain with
  | .clkdiv d => some d
  | _ => none

/-- CLKDIV_APPLY (R124): the four divisors change together. -/
def execClkdivApply (s : State) : Host.Outcome State Fault Refusal :=
  event (s.controlTick s.cur.core && s.me.running && s.me.newDivisors.isSome && s.drained s.cur.core s.cur.x)
    (fun s => (s.modCore s.cur.core fun c => { c with clkdiv := s.me.newDivisors.getD 0 }).modMe fun k => { k with drain := .none }) s

/-- The other clock mode begins. -/
def Core.startMode (c : Core) : Core := { c with pinned := !c.pinned, switchEnd := none, thawed := true }

/-- Pinned mode stretches no cycle, and the domains' cycles stand in the fixed relation of R356 from then on (R355). -/
def Core.align (c : Core) : Core := { c with droops := 0, stretched := 0, skew := Vector.replicate 4 (c.skew.getD 0 0) }

/-- CLOCK_MODE_SWITCH_DONE (R125, R357): the core runs in the new mode; where the requests ask for the other again, the next
switch begins. -/
def execClockModeSwitchDone (s : State) : Host.Outcome State Fault Refusal :=
  event (match s.myCore.switchEnd with
      | some e => decide (e ≤ s.now)
      | none => false)
    (fun s => (s.modCore s.cur.core fun c => (if c.pinned then c else c.align).startMode).checkMode s.cur.core s.now) s

/-- Loads that satisfy p replace their tables, in issue order (R187). -/
def Ctx.loadTables (k : Ctx) (p : TableLoad → Bool) : Ctx :=
  { k with
    tables := (k.tableLoads.filter p).foldl (fun t l => t.setIfInBounds l.tab l.image) k.tables
    tableLoads := k.tableLoads.filter fun l => !p l }

/-- The pending results of a context count in this cycle: in its issue cycles, and while it is halted (R40, R123). -/
def State.pendCounts (s : State) (core x : Nat) : Bool :=
  let k := s.ctx core x
  k.counts || (decide (k.state = .halted) && s.controlTick core)

/-- SFU_TABLE_READY (R187): at the end of the issue cycle that is the last of a load, it replaces its table. -/
def execSfuTableReady (s : State) : Host.Outcome State Fault Refusal :=
  event (s.pendCounts s.cur.core s.cur.x && s.me.tableLoads.any fun l => decide (l.left ≤ 1))
    (fun s => s.modMe fun k => k.loadTables fun l => decide (l.left ≤ 1)) s

/-- The primary context is in an exposed region in one of its strands, those that a handler has stopped among them; a halted
context stays in its region (R23, R35, R37, R123). -/
def State.primaryExposed (s : State) (core : Nat) : Bool :=
  let k := s.ctx core 0
  (k.running || decide (k.state = .halted) && k.unit.isSome) && (k.strands ++ k.stopped).any fun t => decide (t.kind = some true)

/-- SECONDARY_STARVATION_RELIEF (R45): outside exposed regions of the primary context, its issue is withheld for a cycle of the
control domain. -/
def execSecondaryStarvationRelief (s : State) : Host.Outcome State Fault Refusal :=
  event (s.controlTick s.cur.core && (s.myCore.starved.any fun e => decide (Config.starveAfter ≤ e.2))
      && !s.primaryExposed s.cur.core)
    (fun s => s.modCore s.cur.core fun c => { c with withheld := true, starved := [] }) s

/-! ### Landings (R39, R40, R95) -/

/-- Entries land: registers in issue order, condition queues in slot order (R32, R40). -/
def Ctx.landAll (k : Ctx) (l : List Pending) : Ctx :=
  let isQueue (p : Pending) : Bool := decide (p.res.dest.1 = 3)
  ((l.filter fun p => !isQueue p) ++ (upTo 8).flatMap fun i => l.filter fun p => isQueue p && decide (p.slot = i)).foldl
    (fun k p => (k.land p.res).raise p.slot p.flags p.ba) k

/-- The entries that satisfy p land now. -/
def Ctx.landWhere (k : Ctx) (p : Pending → Bool) : Ctx :=
  Ctx.landAll { k with pend := k.pend.filter fun e => !p e } (k.pend.filter p)

/-- One cycle passes for the entries that p says it counts for; those that are due land. -/
def Ctx.countDown (k : Ctx) (p : Pending → Bool) : Ctx :=
  { k with pend := k.pend.map fun e => if p e then { e with left := e.left - 1 } else e }.landWhere fun e => p e && decide (e.left = 0)

/-- This cycle counts for an entry: an issue cycle for a fixed latency, unless a handler has frozen it (R35, R39); and for a
variable one each control cycle of a bound context, since the stall that waits for the result must end (log entry 8). A stretched
cycle of the vector domain holds back what its slots compute (R355). -/
def State.countsFor (s : State) (core x : Nat) (p : Pending) : Bool :=
  !(decide (3 ≤ p.slot ∧ p.slot ≤ 5) && (s.core core).stretched.getLsbD 1)
    && (if p.inter then s.controlTick core else s.pendCounts core x && !p.frozen)

/-- WRITEBACK_LAND (R40). -/
def execWritebackLand (s : State) : Host.Outcome State Fault Refusal :=
  event true (fun s => s.modMe fun k => k.countDown (s.countsFor s.cur.core s.cur.x)) s

/-! ### Completion waits (R113, R117, R118, R261, R263, R279, R375) -/

/-- The operations of a context that WAITCNT counts: loads, those with a full/empty wait among them, stores, copies and tile
operations (R71, R117). -/
def State.outstanding (s : State) (core x : Nat) : Nat × Nat × Nat × Nat :=
  let gen := (s.ctx core x).gen
  let mine := s.accs.filter fun a => decide (a.core = core ∧ a.x = x ∧ a.gen = gen)
  let q (n : Nat) : Nat := (((s.core core).queue n).filter fun c => decide (c.x = x)).length
  ((mine.filter fun a => a.isLoad).length + ((s.ctx core x).pend.filter fun p => p.isLoad).length, (mine.filter fun a => a.isStore).length, q 0 + q 2, q 1 + q 3)

/-- Everything that the context issued before a stamp, or that the waiting strand issued with it, has completed (R118). Entries that
a handler froze are not waited for: they cannot land before its TRET (R35; log entry 36). -/
def State.allDone (s : State) (core x before strand : Nat) : Bool :=
  let k := s.ctx core x
  let old (seq id : Nat) : Bool := decide (seq < before ∨ id = strand)
  (k.pend.all fun p => p.frozen || !old p.seq p.strand)
    && (s.accs.all fun a => !(decide (a.core = core ∧ a.x = x ∧ a.gen = k.gen) && old a.seq a.strand))
    && ((s.core core).cmds.all fun c => !(decide (c.x = x) && old c.seq c.strand))

/-- A wait of a strand is satisfied by the state at the start of the cycle (R375). -/
def State.waitOver (s : State) (core x strand : Nat) (w : Wait) : Bool :=
  let k := s.ctx core x
  match w with
  | .cb m v => decide (k.cb &&& m = if v then m else 0#16)
  | .count l st c t =>
    let o := s.outstanding core x
    decide (o.1 ≤ l ∧ o.2.1 ≤ st ∧ o.2.2.1 ≤ c ∧ o.2.2.2 ≤ t)
  | .all b => s.allDone core x b strand
  | .bar b p _ _ => decide ((k.bar b).ph ≠ p)
  | .tok t => s.tokenDone core x t
  | .store rel _ _ _ b => if rel then s.allPerformed core x b else s.allReleased core x b
  | _ => false

/-- Data that a satisfied wait acquires: what complete copies wrote in shared memory enters the snapshot (R279, R281). -/
def State.acquireCopied (s : State) (core x : Nat) (p : Copied → Bool) : State :=
  let l := (s.ctx core x).copied
  let s1 := (l.filter p).foldl (fun s c => s.refresh core x c.key c.len) s
  s1.modCtx core x fun k => { k with copied := l.filter fun c => !p c }

/-- What a strand's wait acquires as it ends: the data that it counted as complete, and no other (R279, R281). -/
def State.waitAcquires (s : State) (core x strand : Nat) (w : Wait) : State :=
  match w with
  | .count _ _ _ _ => s.acquireCopied core x fun c => s.tokenDone core x c.tok
  | .all b => s.acquireCopied core x fun c => s.tokenDone core x c.tok && decide (c.seq < b ∨ c.strand = strand)
  | .bar b _ _ _ => s.acquireCopied core x fun c => decide (c.bar = some b) && c.phased
  | .tok t => s.acquireCopied core x fun c => decide (c.tok = t)
  | _ => s

/-- A wait writes its result as it ends (R261, R375). -/
def State.waitResult (s : State) (d : Nat) (v : W64) : State := s.modMe fun k => k.land (.scalar d v)

/-- The waits whose strand issues again in the cycle after the satisfied one: spec/14 has FENCE.ALL satisfied in cycle g + 48 and
the next bundle in g + 49, spec/16 a WAITCNT in 1,016 and 1,017; the strands of the others issue in that cycle (R261). -/
def Wait.issuesLater : Wait → Bool
  | .count _ _ _ _ => true
  | .all _ => true
  | _ => false

/-- A wait of a strand is over; the strand runs on where it was the last. -/
def State.endWait (s : State) (t : Strand) (w : Wait) : State :=
  s.modMe fun k => k.modStrand t.id fun u =>
    { u with
      waits := u.waits.erase w
      bubbles := if s.stage = 2 ∧ s.controlTick s.cur.core ∧ w.issuesLater then max u.bubbles 1 else u.bubbles }

/-- The strand of the cursor is one of a running context whose core has a clock (R357, R361). -/
def State.strandLives (s : State) : Bool := s.awake s.cur.core && s.me.running && (s.me.strand? s.cur.strand).isSome

/-- COMPLETION_WAIT_END (R375): the first of the strand's waits that is satisfied ends; the state of each reference cycle is tested,
whatever the control divisor (R261). -/
def execCompletionWaitEnd (s : State) : Host.Outcome State Fault Refusal :=
  let t := s.myStrand
  match t.waits.find? (s.waitOver s.cur.core s.cur.x t.id) with
  | none => .next s
  | some w =>
    event s.strandLives
      (fun s =>
        let s1 := (s.waitAcquires s.cur.core s.cur.x t.id w).endWait t w
        match w with
        | .bar b _ d _ => s1.waitResult d (if (s.me.bar b).lastst then 1 else 0)
        | .store rel a bs full b =>
          (if rel then s1.publish s.cur.core s.cur.x s.me.gen b else s1).localStore s.cur.core a bs full
        | _ => s1) s

/-- BARWAIT_TIMEOUT (R261): status 2, the barrier unchanged. -/
def execBarwaitTimeout (s : State) : Host.Outcome State Fault Refusal :=
  let t := s.myStrand
  match t.waits.find? fun w => match w with
    | .bar b p _ (some 0) => decide ((s.me.bar b).ph = p)
    | _ => false with
  | some (.bar b p d l) => event s.strandLives (fun s => (s.endWait t (.bar b p d l)).waitResult d 2) s
  | _ => .next s

/-! ### Posted faults (R317, R318) -/

/-- The first posted fault is one that a handler cannot hold off: a RETENTION_LOSS that names the control state. -/
def Posted.urgent (p : Posted) : Bool := decide (p.code = causeRETENTION) && bitAt p.tval 5

/-- The posted fault to take: the first, and in a handler an urgent one alone (R317). -/
def Ctx.nextPosted (k : Ctx) : Option Posted := if k.inhdl then k.posted.find? Posted.urgent else k.posted.head?

/-- The address that a strand issues from next: of a repeat's target, or of the next bundle (R110). -/
def Ctx.nextAddress (k : Ctx) (t : Strand) : W64 :=
  ((bitsOf t.slots 8).findSome? fun i =>
    if k.runningSlot t i then (k.repeatOf i).bind fun r => r.target.map fun g => g.2.1 else none).getD t.pc

/-- The address that TEPC receives: of the bundle whose waits stand, or where the strand issues next (R110, R317). -/
def Ctx.boundary (k : Ctx) (t : Strand) : W64 := if t.waits ≠ [] then t.waitBa else k.nextAddress t

/-- POSTED_FAULT_TAKEN (R317). -/
def execPostedFaultTaken (s : State) : Host.Outcome State Fault Refusal :=
  match s.me.nextPosted with
  | none => .next s
  | some p =>
    event (s.controlTick s.cur.core && s.me.running)
      (fun s =>
        let t := (s.me.holder p.slot).getD s.myStrand
        let s1 := s.modMe fun k => { k with posted := k.posted.erase p }
        s1.takeFault s.cur.core s.cur.x t.id p.code p.slot p.tval (s.me.boundary t) false) s

end Sys2Proof.Machine
end

