-- ==== Sys2Proof/Machine/AccessEvents.lean ====
section
/-!
DEFINITION. The events of accesses in flight (spec/05 R71; spec/11 R117, R147, R153; spec/19 R238, R247, R262, R263; spec/21 R267;
spec/27 R342): where they are performed, when a store is accepted, and when a result lands.
-/

namespace Sys2Proof.Machine

/-- Where an access is performed. -/
inductive Served where
  /-- a network port, the mailbox unit included (R147, R348) -/
  | port
  /-- a pool bank (R153) -/
  | bank
  /-- the base die of a stack (R247) -/
  | stack
  /-- the write buffer of a destination, for plain stores; fences take their place in the order here (R117, R118, R267) -/
  | accept
  /-- nowhere: its result is the core's own -/
  | core
  deriving DecidableEq, Repr

/-- An operation of the mailbox unit. -/
def Access.onPair (a : Access) : Bool := a.kind.onPair

def Access.served (a : Access) : Served :=
  if a.isFence || a.isPlainStore then .accept
  else if a.onPair then .port
  else match a.place with
    | some (.scratch _) => .port
    | some (.pool _) => .bank
    | some .dev => .stack
    | _ => .core

/-- Mailbox operations and pool instructions also use the network port of the issuing core (R147, R164, R348). -/
def Access.usesOwnPort (a : Access) : Bool :=
  match a.kind with
  | .mbrecv _ _ _ _ _ => true
  | .pool _ _ _ _ _ _ _ _ _ => true
  | _ => false

/-- What else an access may have to wait for: the ports of its core, and room for a JCNEW. -/
def State.roomFor (s : State) (a : Access) : Bool :=
  (!a.usesOwnPort || s.serves a.core (.scratch a.core) 0)
    && (match a.kind with
      | .jcnew addr _ _ _ => s.jcnewRoom addr
      | _ => true)

/-- A device-memory address that no stack holds, among those an access reaches (R238). -/
def Access.outOfDevice (a : Access) : Option Nat :=
  (a.runs.find? fun r => decide (r.1 = .dev ∧ deviceLimit < r.2.1 + r.2.2)).map fun r => r.2.1

/-- An access performed at one kind of place. -/
def performAt (p : Served) (s : State) : Host.Outcome State Fault Refusal :=
  match s.access? s.cur.id with
  | none => .next s
  | some a =>
    if a.served = p ∧ s.canPerform a ∧ s.roomFor a then
      match a.outOfDevice with
      | some n => .fault (.noSuchAddress n)
      | none => .next (if a.onPair then s.performMail a else s.performAccess a)
    else .next s

/-- NETWORK_PORT_ACCESS (R147): a REMOTE access at its target's network port, or a mailbox operation. -/
def execNetworkPortAccess (s : State) : Host.Outcome State Fault Refusal := performAt .port s

/-- POOL_BANK_ACCESS (R153): an access, an atomic or one element update. -/
def execPoolBankAccess (s : State) : Host.Outcome State Fault Refusal := performAt .bank s

/-- DEVICE_MEMORY_ACCESS (R247): with the recoding of the blocks it writes. -/
def execDeviceMemoryAccess (s : State) : Host.Outcome State Fault Refusal := performAt .stack s

/-- DESTINATION_ACCEPT (R117, R267): a plain store is held from now on; a fence takes its place. -/
def execDestinationAccept (s : State) : Host.Outcome State Fault Refusal := performAt .accept s

/-! ### Results (R71) -/

/-- The results that the core itself brings: a word fixed at issue, or the sampler's CSRs once the commands before the MXSTAT
have left Q1 (R237, R312). -/
def State.coreResult (s : State) (a : Access) : Option (List Result) :=
  match a.kind with
  | .query d v => some [.scalar d v]
  | .mxstat ra rb cmds =>
    let k := s.ctx a.core a.x
    if ((s.core a.core).queue 1).any fun c => cmds.contains c.id then none
    else some [.scalar ra (zext64 k.mscnt), .scalar rb (BitVec.ofNat 64 (k.msvar.toNat * 2 ^ 32 + k.msfro.toNat))]
  | _ => none

/-- An access's results that can land now. -/
def State.landing (s : State) (a : Access) : Option (List Result) :=
  if s.frozen a.core || !s.clusterOn a.core || decide (s.now < a.due) then none
  else if a.done then some a.results else s.coreResult a

/-- An entry that lands in this cycle on a register of an access, and was issued before it: the result of the access stands over it
(R40). -/
def State.landsBefore (s : State) (a : Access) (p : Pending) : Bool :=
  s.countsFor a.core a.x p && decide (p.left ≤ 1 ∧ p.seq < a.seq) && a.dests.contains p.res.dest

/-- VARIABLE_RESULT_LAND (R71): the results and flags of an access land, and its interlock is released. -/
def execVariableResultLand (s : State) : Host.Outcome State Fault Refusal :=
  match s.access? s.cur.id with
  | none => .next s
  | some a =>
    match s.landing a with
    | none => .next s
    | some rs =>
      let s1 := s.dropAccess a.id
      .next (if s.alive a then s1.modCtx a.core a.x fun k => (rs.foldl Ctx.land (k.landWhere (s.landsBefore a))).raise a.slot a.flags a.ba
        else s1)

/-- BARQ and TOKTEST read what stands at the end of their issue cycle (R262, R263): BARQ's word is then on its way for at most
four issue cycles. -/
def State.sampleQueries (s : State) : State :=
  s.accs.foldl (fun s a =>
    match a.kind with
    | .barq b d clear =>
      let s1 := s.dropAccess a.id
      if !s.alive a then s1 else
      let p : Pending := {
        res := .scalar d ((s.ctx a.core a.x).bar b).word, left := 1 + Config.delay s.freeN % 4, flags := 0, slot := a.slot,
        strand := a.strand, ba := a.ba, exposed := false, inter := true, isLoad := false, frozen := false, seq := a.seq }
      let clearBar (k : Ctx) : Ctx := if clear then
        { k with bars := k.bars.setIfInBounds b { k.bar b with ovr := false, err := 0 } } else k
      { (s1.modCtx a.core a.x fun k => clearBar { k with pend := k.pend ++ [p] }) with freeN := s.freeN + 1 }
    | .toktest t d =>
      if a.done then s
      else s.performed a.id [.scalar d (if s.tokenDone a.core a.x t then 1 else 0)] 0
    | _ => s) s

end Sys2Proof.Machine
end

