-- ==== Sys2Proof/Machine/Rv64.lean ====
section
/-!
DEFINITION. The arithmetic of the camp cores' base ISA (spec/27 R337: RV64IMAFDC, which the manual cites and does not restate;
log entry 12): immediates, integer and floating-point operations, and the 32-bit words of compressed instructions.
-/

namespace Sys2Proof.Machine

/-! ### Immediates -/

def immI (w : W32) : W64 := sext64 (field w 20 12 : BitVec 12)
def immS (w : W32) : W64 := sext64 (BitVec.ofNat 12 ((field w 25 7).toNat * 32 + (field w 7 5).toNat))
def immB (w : W32) : W64 :=
  sext64 (BitVec.ofNat 13 ((field w 31 1).toNat * 4096 + (field w 7 1).toNat * 2048 + (field w 25 6).toNat * 32
    + (field w 8 4).toNat * 2))
def immU (w : W32) : W64 := sext64 (BitVec.ofNat 32 ((field w 12 20).toNat * 4096))
def immJ (w : W32) : W64 :=
  sext64 (BitVec.ofNat 21 ((field w 31 1).toNat * 1048576 + (field w 12 8).toNat * 4096 + (field w 20 1).toNat * 2048
    + (field w 21 10).toNat * 2))

/-! ### Integers -/

/-- Operations of OP and OP-IMM by funct3; alt is SUB or SRA. -/
def rvAlu (f3 : Nat) (alt : Bool) (a b : W64) : W64 :=
  match f3 with
  | 0 => if alt then a - b else a + b
  | 1 => a <<< (b.toNat % 64)
  | 2 => if a.toInt < b.toInt then 1 else 0
  | 3 => if a.toNat < b.toNat then 1 else 0
  | 4 => a ^^^ b
  | 5 => if alt then a.sshiftRight (b.toNat % 64) else a >>> (b.toNat % 64)
  | 6 => a ||| b
  | _ => a &&& b

/-- Their 32-bit forms; none for a funct3 that has none. -/
def rvAluW (f3 : Nat) (alt : Bool) (a b : W64) : Option W64 :=
  let x := field a 0 32
  let n := b.toNat % 32
  match f3 with
  | 0 => some (sext64 (if alt then x - field b 0 32 else x + field b 0 32 : BitVec 32))
  | 1 => some (sext64 (x <<< n))
  | 5 => some (sext64 (if alt then x.sshiftRight n else x >>> n))
  | _ => none

/-- A signed or unsigned quotient and remainder of width n, with the results for a zero divisor. -/
def rvDiv {n : Nat} (signed' : Bool) (a b : BitVec n) : BitVec n × BitVec n :=
  if b = 0 then (BitVec.allOnes n, a) else if signed' then (a.sdiv b, a.srem b) else (a / b, a % b)

/-- Operations of M by funct3. -/
def rvMul (f3 : Nat) (a b : W64) : W64 :=
  match f3 with
  | 0 => a * b
  | 1 => BitVec.ofInt 64 (a.toInt * b.toInt / 2 ^ 64)
  | 2 => BitVec.ofInt 64 (a.toInt * b.toNat / 2 ^ 64)
  | 3 => BitVec.ofNat 64 (a.toNat * b.toNat / 2 ^ 64)
  | 4 => (rvDiv true a b).1
  | 5 => (rvDiv false a b).1
  | 6 => (rvDiv true a b).2
  | _ => (rvDiv false a b).2

/-- Their 32-bit forms. -/
def rvMulW (f3 : Nat) (a b : W64) : Option W64 :=
  let x := field a 0 32
  let y := field b 0 32
  match f3 with
  | 0 => some (sext64 (x * y))
  | 4 => some (sext64 (rvDiv true x y).1)
  | 5 => some (sext64 (rvDiv false x y).1)
  | 6 => some (sext64 (rvDiv true x y).2)
  | 7 => some (sext64 (rvDiv false x y).2)
  | _ => none

/-- A branch by funct3 is taken; none for a funct3 that has none. -/
def rvBranch (f3 : Nat) (a b : W64) : Option Bool :=
  match f3 with
  | 0 => some (decide (a = b))
  | 1 => some (decide (a ≠ b))
  | 4 => some (decide (a.toInt < b.toInt))
  | 5 => some (decide (b.toInt ≤ a.toInt))
  | 6 => some (decide (a.toNat < b.toNat))
  | 7 => some (decide (b.toNat ≤ a.toNat))
  | _ => none

/-- The value that an AMO writes, by funct5, on values of width n. -/
def rvAmo {n : Nat} (f5 : Nat) (old v : BitVec n) : Option (BitVec n) :=
  match f5 with
  | 0 => some (old + v)
  | 1 => some v
  | 4 => some (old ^^^ v)
  | 8 => some (old ||| v)
  | 12 => some (old &&& v)
  | 16 => some (if old.toInt ≤ v.toInt then old else v)
  | 20 => some (if v.toInt ≤ old.toInt then old else v)
  | 24 => some (if old.toNat ≤ v.toNat then old else v)
  | 28 => some (if v.toNat ≤ old.toNat then old else v)
  | _ => none

/-! ### Floating point -/

/-- The rounding mode of an rm field, with frm where it is dynamic; none where it is invalid. -/
def rvRnd (rm frm : Nat) : Option Rnd :=
  match if rm = 7 then frm else rm with
  | 0 => some .rne
  | 1 => some .rtz
  | 2 => some .rdn
  | 3 => some .rup
  | 4 => some .rmm
  | _ => none

/-- The format of an fmt field. -/
def rvFmt (n : Nat) : Option Fmt :=
  match n with
  | 0 => some f32
  | 1 => some f64
  | _ => none

/-- The accrued exceptions of fflags: NX, UF, OF, DZ, NV. -/
def rvFlags (f : BitVec 7) : Nat :=
  (if bitAt f 4 then 1 else 0) + (if bitAt f 3 then 2 else 0) + (if bitAt f 2 then 4 else 0) + (if bitAt f 1 then 8 else 0)
    + (if bitAt f 0 then 16 else 0)

/-- The canonical NaN of a format. -/
def Fmt.nan (f : Fmt) : Nat := f.infBits + 2 ^ (f.p - 2)

/-- The encoding that a register holds for a format: a single is boxed in ones, and otherwise reads as the canonical NaN. -/
def unbox (f : Fmt) (v : W64) : Nat :=
  if f.p = 24 then (if v.toNat / 2 ^ 32 = 2 ^ 32 - 1 then v.toNat % 2 ^ 32 else f32.nan) else v.toNat

def box (f : Fmt) (n : Nat) : W64 := BitVec.ofNat 64 (if f.p = 24 then (2 ^ 32 - 1) * 2 ^ 32 + n % 2 ^ 32 else n)

/-- A result rounded into a register: every NaN is the canonical one. -/
def rvRound (f : Fmt) (m : Rnd) (r : FVal × BitVec 7) : W64 × BitVec 7 :=
  if r.1.isNan then (box f f.nan, r.2) else let z := roundV f m r.1; (box f z.1, r.2 ||| z.2)

/-- FMIN and FMAX: a number wins over a NaN. -/
def rvMinMax (f : Fmt) (isMax : Bool) (x y : Nat) : W64 × BitVec 7 :=
  let a := decodeF f x
  let b := decodeF f y
  let fl := sigFlags [a, b]
  if a.isNan ∧ b.isNan then (box f f.nan, fl)
  else if a.isNan then (box f y, fl)
  else if b.isNan then (box f x, fl)
  else (box f (roundV f .rne (minMaxV isMax a b).1).1, fl)

/-- FSGNJ, FSGNJN and FSGNJX. -/
def rvSign (f : Fmt) (f3 x y : Nat) : Option W64 :=
  let s (n : Nat) : Nat := n / f.signBit % 2
  let put (b : Nat) : W64 := box f (x % f.signBit + b * f.signBit)
  match f3 with
  | 0 => some (put (s y))
  | 1 => some (put (1 - s y))
  | 2 => some (put ((s x + s y) % 2))
  | _ => none

/-- FLE, FLT and FEQ. -/
def rvCompare (f : Fmt) (f3 x y : Nat) : Option (W64 × BitVec 7) :=
  let r (c : Nat) : Option (W64 × BitVec 7) :=
    let z := relFloat c (decodeF f x) (decodeF f y)
    some (if z.1 then 1 else 0, z.2)
  match f3 with
  | 0 => r 6
  | 1 => r 2
  | 2 => r 0
  | _ => none

/-- FCLASS: one bit of ten. -/
def rvClass (f : Fmt) (x : Nat) : W64 :=
  let v := decodeF f x
  let sub := decide (x / 2 ^ (f.p - 1) % 2 ^ f.ew = 0)
  match v with
  | .nan _ _ => if v.isSignalling then 256 else 512
  | .inf n => if n then 1 else 128
  | .fin n a _ _ => if a = 0 then (if n then 8 else 16) else if sub then (if n then 4 else 32) else (if n then 2 else 64)

/-- The bounds of an integer of a conversion by its code: W, WU, L, LU. -/
def rvBounds (code : Nat) : Option (Int × Int) :=
  match code with
  | 0 => some (-2 ^ 31, 2 ^ 31 - 1)
  | 1 => some (0, 2 ^ 32 - 1)
  | 2 => some (-2 ^ 63, 2 ^ 63 - 1)
  | 3 => some (0, 2 ^ 64 - 1)
  | _ => none

/-- Float to integer: a NaN gives the largest; 32-bit results are sign-extended. -/
def rvToInt (code : Nat) (m : Rnd) (v : FVal) : Option (W64 × BitVec 7) :=
  (rvBounds code).map fun b =>
    let r := if v.isNan then (b.2, flagINV) else floatToInt m b.1 b.2 v
    (if code < 2 then sext64 (BitVec.ofInt 32 r.1) else BitVec.ofInt 64 r.1, r.2)

/-- The integer that a conversion to floating point reads. -/
def rvFromInt (code : Nat) (a : W64) : Option Int :=
  match code with
  | 0 => some (field a 0 32 : BitVec 32).toInt
  | 1 => some (field a 0 32 : BitVec 32).toNat
  | 2 => some a.toInt
  | 3 => some a.toNat
  | _ => none

/-! ### Compressed instructions -/

/-- The 32-bit words of the formats, from their fields. -/
def rvR (op f3 f7 rd rs1 rs2 : Nat) : W32 :=
  BitVec.ofNat 32 (op + rd * 2 ^ 7 + f3 * 2 ^ 12 + rs1 * 2 ^ 15 + rs2 * 2 ^ 20 + f7 * 2 ^ 25)
def rvI (op f3 rd rs1 : Nat) (imm : Int) : W32 :=
  BitVec.ofNat 32 (op + rd * 2 ^ 7 + f3 * 2 ^ 12 + rs1 * 2 ^ 15 + wrapNat imm 12 * 2 ^ 20)
def rvS (op f3 rs1 rs2 imm : Nat) : W32 :=
  BitVec.ofNat 32 (op + imm % 32 * 2 ^ 7 + f3 * 2 ^ 12 + rs1 * 2 ^ 15 + rs2 * 2 ^ 20 + imm / 32 % 128 * 2 ^ 25)
def rvB (f3 rs1 rs2 : Nat) (imm : Int) : W32 :=
  let n := wrapNat imm 13
  BitVec.ofNat 32 (0x63 + n / 2048 % 2 * 2 ^ 7 + n / 2 % 16 * 2 ^ 8 + f3 * 2 ^ 12 + rs1 * 2 ^ 15 + rs2 * 2 ^ 20 + n / 32 % 64 * 2 ^ 25
    + n / 4096 * 2 ^ 31)
def rvJ (rd : Nat) (imm : Int) : W32 :=
  let n := wrapNat imm 21
  BitVec.ofNat 32 (0x6F + rd * 2 ^ 7 + n / 4096 % 256 * 2 ^ 12 + n / 2048 % 2 * 2 ^ 20 + n / 2 % 1024 * 2 ^ 21 + n / 1048576 * 2 ^ 31)

/-- Bits of a compressed word gathered into an immediate: pairs of source bit and weight. -/
def gather (h : BitVec 16) (l : List (Nat × Nat)) : Nat := l.foldl (fun a p => a + if bitAt h p.1 then 2 ^ p.2 else 0) 0

/-- The word of a compressed instruction of quadrant 0. -/
def expand0 (h : BitVec 16) : Option W32 :=
  let rd := 8 + (field h 2 3).toNat
  let rs := 8 + (field h 7 3).toNat
  let d := gather h [(10, 3), (11, 4), (12, 5), (5, 6), (6, 7)]
  let w := gather h [(6, 2), (10, 3), (11, 4), (12, 5), (5, 6)]
  match (field h 13 3).toNat with
  | 0 =>
    let n := gather h [(6, 2), (5, 3), (11, 4), (12, 5), (7, 6), (8, 7), (9, 8), (10, 9)]
    if n = 0 then none else some (rvI 0x13 0 rd 2 n)
  | 1 => some (rvI 0x07 3 rd rs d)
  | 2 => some (rvI 0x03 2 rd rs w)
  | 3 => some (rvI 0x03 3 rd rs d)
  | 5 => some (rvS 0x27 3 rs rd d)
  | 6 => some (rvS 0x23 2 rs rd w)
  | 7 => some (rvS 0x23 3 rs rd d)
  | _ => none

/-- Arithmetic of quadrant 1 on x8 to x15. -/
def expandArith (h : BitVec 16) (n : Nat) (imm : Int) : Option W32 :=
  let rd := 8 + (field h 7 3).toNat
  let rs2 := 8 + (field h 2 3).toNat
  match (field h 10 2).toNat with
  | 0 => some (rvI 0x13 5 rd rd n)
  | 1 => some (rvI 0x13 5 rd rd ((n : Int) + 1024))
  | 2 => some (rvI 0x13 7 rd rd imm)
  | _ =>
    match (field h 12 1).toNat, (field h 5 2).toNat with
    | 0, 0 => some (rvR 0x33 0 32 rd rd rs2)
    | 0, 1 => some (rvR 0x33 4 0 rd rd rs2)
    | 0, 2 => some (rvR 0x33 6 0 rd rd rs2)
    | 0, _ => some (rvR 0x33 7 0 rd rd rs2)
    | _, 0 => some (rvR 0x3B 0 32 rd rd rs2)
    | _, 1 => some (rvR 0x3B 0 0 rd rd rs2)
    | _, _ => none

/-- Quadrant 1. -/
def expand1 (h : BitVec 16) : Option W32 :=
  let rd := (field h 7 5).toNat
  let rs := 8 + (field h 7 3).toNat
  let n := gather h [(2, 0), (3, 1), (4, 2), (5, 3), (6, 4), (12, 5)]
  let imm := sextInt n 6
  match (field h 13 3).toNat with
  | 0 => some (rvI 0x13 0 rd rd imm)
  | 1 => if rd = 0 then none else some (rvI 0x1B 0 rd rd imm)
  | 2 => some (rvI 0x13 0 rd 0 imm)
  | 3 =>
    if rd = 2 then
      let m := gather h [(6, 4), (2, 5), (5, 6), (3, 7), (4, 8), (12, 9)]
      if m = 0 then none else some (rvI 0x13 0 2 2 (sextInt m 10))
    else if n = 0 then none else some (BitVec.ofNat 32 (0x37 + rd * 2 ^ 7 + wrapNat imm 20 * 2 ^ 12))
  | 4 => expandArith h n imm
  | 5 => some (rvJ 0 (sextInt (gather h [(3, 1), (4, 2), (5, 3), (11, 4), (2, 5), (7, 6), (6, 7), (9, 8), (10, 9), (8, 10), (12, 11)]) 12))
  | k =>
    let o := sextInt (gather h [(3, 1), (4, 2), (10, 3), (11, 4), (2, 5), (5, 6), (6, 7), (12, 8)]) 9
    some (rvB (k - 6) rs 0 o)

/-- Quadrant 2. -/
def expand2 (h : BitVec 16) : Option W32 :=
  let rd := (field h 7 5).toNat
  let rs2 := (field h 2 5).toNat
  let d := gather h [(5, 3), (6, 4), (12, 5), (2, 6), (3, 7), (4, 8)]
  match (field h 13 3).toNat with
  | 0 => some (rvI 0x13 1 rd rd (gather h [(2, 0), (3, 1), (4, 2), (5, 3), (6, 4), (12, 5)]))
  | 1 => some (rvI 0x07 3 rd 2 d)
  | 2 => if rd = 0 then none else some (rvI 0x03 2 rd 2 (gather h [(4, 2), (5, 3), (6, 4), (12, 5), (2, 6), (3, 7)]))
  | 3 => if rd = 0 then none else some (rvI 0x03 3 rd 2 d)
  | 4 =>
    if bitAt h 12 then
      if rs2 ≠ 0 then some (rvR 0x33 0 0 rd rd rs2)
      else if rd = 0 then some 0x00100073#32 else some (rvI 0x67 0 1 rd 0)
    else if rs2 ≠ 0 then some (rvR 0x33 0 0 rd 0 rs2)
    else if rd = 0 then none else some (rvI 0x67 0 0 rd 0)
  | 5 => some (rvS 0x27 3 2 rs2 (gather h [(10, 3), (11, 4), (12, 5), (7, 6), (8, 7), (9, 8)]))
  | 6 => some (rvS 0x23 2 2 rs2 (gather h [(9, 2), (10, 3), (11, 4), (12, 5), (7, 6), (8, 7)]))
  | _ => some (rvS 0x23 3 2 rs2 (gather h [(10, 3), (11, 4), (12, 5), (7, 6), (8, 7), (9, 8)]))

/-- The 32-bit word that a compressed instruction stands for; none for a reserved one. -/
def expandC (h : BitVec 16) : Option W32 :=
  match (field h 0 2).toNat with
  | 0 => expand0 h
  | 1 => expand1 h
  | 2 => expand2 h
  | _ => none

end Sys2Proof.Machine
end

