-- ==== Sys2Proof/Machine/Camp.lean ====
section
/-!
DEFINITION. The camp cores (spec/27 R337 to R347): traps, local memory and its windows, the base ISA, the camp extension, and the
watchdog. The camp core that acts is the one that the cursor's id names: 32 times its die plus its index.
-/

namespace Sys2Proof.Machine

/-! ### Registers and traps -/

/-- x[n]; x0 reads as zero. -/
def Camp.r (k : Camp) (n : Nat) : W64 := if n = 0 then 0 else k.x.getD n 0

def Camp.setR (k : Camp) (n : Nat) (v : W64) : Camp := if n = 0 then k else { k with x := k.x.setIfInBounds n v }

def Camp.fr (k : Camp) (n : Nat) : W64 := k.f.getD n 0

/-- mstatus.FS becomes Dirty. -/
def Camp.dirty (k : Camp) : Camp := { k with mstatus := k.mstatus ||| 0x6000#64 }

def Camp.setF (k : Camp) (n : Nat) (v : W64) : Camp := { k with f := k.f.setIfInBounds n v }.dirty

/-- mstatus.FS is not Off. -/
def Camp.fpOn (k : Camp) : Bool := decide (field k.mstatus 13 2 ≠ 0#2)

/-- Accrued exceptions. -/
def Camp.accrue (k : Camp) (f : BitVec 7) : Camp := { k with fcsr := k.fcsr ||| BitVec.ofNat 32 (rvFlags f) }.dirty

/-- mstatus with some bits replaced. -/
def Camp.setStatus (k : Camp) (mask v : W64) : Camp := { k with mstatus := (k.mstatus &&& ~~~mask) ||| (v &&& mask) }

/-- A trap into machine mode; an interrupt is vectored where mtvec says so. -/
def Camp.trap (k : Camp) (cause tval : W64) : Camp :=
  let mie : W64 := if bitAt k.mstatus 3 then 0x80 else 0
  let mpp : W64 := if k.machine then 0x1800 else 0
  let base := k.mtvec &&& ~~~3#64
  { k.setStatus 0x1888 (mie ||| mpp) with
    mepc := k.pc &&& ~~~1#64
    mcause := cause
    mtval := tval
    machine := true
    waiting := false
    pc := if bitAt cause 63 && bitAt k.mtvec 0 then base + BitVec.ofNat 64 (4 * (cause.toNat % 2 ^ 63)) else base }

/-- MRET. -/
def Camp.mret (k : Camp) : Camp :=
  let toM := decide (field k.mstatus 11 2 = 3#2)
  { k.setStatus (if toM then 0x1888 else 0x21888) ((if bitAt k.mstatus 7 then 8 else 0) ||| 0x80) with
    machine := toM
    pc := k.mepc &&& ~~~1#64 }

/-- How an instruction of a camp core ends. -/
inductive CampEnd where
  | ok (s : State)
  | trap (cause : Nat) (tval : W64)
  deriving DecidableEq, Repr

/-- The end of an instruction: it is counted in minstret, or its trap is taken before any effect (R345). -/
def State.campDone (s : State) (n : Nat) (e : CampEnd) : State :=
  match e with
  | .ok t => t.modCamp n fun k => { k with minstret := k.minstret + 1 }
  | .trap c v => s.modCamp n fun k => k.trap (BitVec.ofNat 64 c) v

def illegalCamp (w : W32) : CampEnd := .trap 2 (if Config.campTval then zext64 w else 0)

/-! ### Local memory (R337, R339) -/

/-- Every byte lies in a window of the current episode. -/
def Camp.inWindows (k : Camp) (a n : Nat) : Bool :=
  (upTo n).all fun i => decide ((k.winA.1 ≤ a + i ∧ a + i < k.winA.1 + k.winA.2) ∨ (k.winB.1 ≤ a + i ∧ a + i < k.winB.1 + k.winB.2))

/-- n bytes from a may be accessed in a mode: in local memory, and in user mode inside the windows of the current episode. -/
def Camp.allows (k : Camp) (user : Bool) (a n : Nat) : Bool :=
  decide (a + n ≤ 131072) && (!user || k.episode.isNone || k.inWindows a n)

/-- Loads and stores run in user mode: by the mode, or by MPRV and MPP. -/
def Camp.dataUser (k : Camp) : Bool := !k.machine || (bitAt k.mstatus 17 && decide (field k.mstatus 11 2 = 0#2))

/-- The address that an access fault names: of the part that may not be accessed, where a load or store straddles a limit; of a range
of the extension, its first byte (log entry 12). -/
def Camp.faultAddress (k : Camp) (a : W64) (n : Nat) : W64 :=
  if 8 < n then a else a + BitVec.ofNat 64 (((upTo n).find? fun i => !k.allows k.dataUser (a.toNat + i) 1).getD 0)

/-- The exception of an access of n bytes that must be aligned to m: misaligned first, then the access fault. -/
def Camp.accessTrap (k : Camp) (store : Bool) (a : W64) (n m : Nat) : Option CampEnd :=
  if a.toNat % m ≠ 0 then some (.trap (if store then 6 else 4) a)
  else if !k.allows k.dataUser a.toNat n then some (.trap (if store then 7 else 5) (k.faultAddress a n))
  else none

/-- What an instruction fetch finds: its trap, or a word and its length; a compressed instruction has 2 bytes. -/
def State.campFetch (s : State) (n : Nat) : Except CampEnd (W32 × Nat) :=
  let k := s.camp n
  let a := k.pc.toNat
  if !k.allows (!k.machine) a 2 then .error (.trap 1 k.pc)
  else
    let h := s.word (.camp n) a 2
    if h % 4 ≠ 3 then .ok (BitVec.ofNat 32 h, 2)
    else if !k.allows (!k.machine) (a + 2) 2 then .error (.trap 1 (k.pc + 2))
    else .ok (BitVec.ofNat 32 (s.word (.camp n) a 4), 4)

/-! ### Control and status registers -/

/-- The CSRs that a camp core has, and their values; none for one that does not exist or that the mode may not read. -/
def Camp.csr (k : Camp) (n c : Nat) : Option W64 :=
  let fp (v : Nat) : Option W64 := if k.fpOn then some (BitVec.ofNat 64 v) else none
  let counter (bit : Nat) (v : W64) : Option W64 := if k.machine || bitAt k.mcounteren bit then some v else none
  if c = 0x001 then fp (k.fcsr.toNat % 32)
  else if c = 0x002 then fp (k.fcsr.toNat / 32 % 8)
  else if c = 0x003 then fp (k.fcsr.toNat % 256)
  else if c = 0xC00 then counter 0 k.mcycle
  else if c = 0xC02 then counter 2 k.minstret
  else if 0xC03 ≤ c ∧ c ≤ 0xC1F then (if k.machine then some 0 else none)
  else if !k.machine then none
  else if c = 0x300 then
    some ((k.mstatus &&& 0x227888#64) ||| 0x200000000#64 ||| (if field k.mstatus 13 2 = 3#2 then 0x8000000000000000#64 else 0))
  else if c = 0x301 then some 0x800000000010112D#64
  else if c = 0x304 then some k.mie
  else if c = 0x305 then some k.mtvec
  else if c = 0x306 then some k.mcounteren
  else if c = 0x30A ∨ (0x320 ≤ c ∧ c ≤ 0x33F ∧ (c = 0x320 ∨ 0x323 ≤ c)) ∨ (0xB03 ≤ c ∧ c ≤ 0xB1F) ∨ c = 0xF15 then some 0
  else if c = 0x340 then some k.mscratch
  else if c = 0x341 then some k.mepc
  else if c = 0x342 then some k.mcause
  else if c = 0x343 then some k.mtval
  else if c = 0x344 then some k.mip
  else if c = 0xB00 then some k.mcycle
  else if c = 0xB02 then some k.minstret
  else if 0xF11 ≤ c ∧ c ≤ 0xF14 then some (Config.campId c n)
  else none

/-- A write to a CSR: fields that are fixed keep their values; bit 16 of mip can only be cleared (R344). -/
def Camp.setCsr (k : Camp) (c : Nat) (v : W64) : Camp :=
  if c = 0x001 then { k with fcsr := BitVec.ofNat 32 (k.fcsr.toNat / 32 * 32 + v.toNat % 32) }.dirty
  else if c = 0x002 then { k with fcsr := BitVec.ofNat 32 (v.toNat % 8 * 32 + k.fcsr.toNat % 32) }.dirty
  else if c = 0x003 then { k with fcsr := BitVec.ofNat 32 (v.toNat % 256) }.dirty
  else if c = 0x300 then
    k.setStatus (if field v 11 2 = 0#2 ∨ field v 11 2 = 3#2 then 0x227888#64 else 0x226088#64) v
  else if c = 0x304 then { k with mie := v &&& 0x10000#64 }
  else if c = 0x305 then { k with mtvec := v &&& ~~~2#64 }
  else if c = 0x306 then { k with mcounteren := v &&& 5#64 }
  else if c = 0x340 then { k with mscratch := v }
  else if c = 0x341 then { k with mepc := v &&& ~~~1#64 }
  else if c = 0x342 then { k with mcause := v }
  else if c = 0x343 then { k with mtval := v }
  else if c = 0x344 then { k with mip := k.mip &&& v }
  else if c = 0xB00 then { k with mcycle := v }
  else if c = 0xB02 then { k with minstret := v - 1 }
  else k

/-! ### The base ISA -/

/-- A new pc, and the rest of the core's effect. -/
def State.campGo (s : State) (n : Nat) (pc : W64) (f : Camp → Camp) : CampEnd := .ok (s.modCamp n fun k => { f k with pc := pc })

/-- A result that may not exist, written to a register. -/
def State.campPut (s : State) (n : Nat) (w : W32) (next : W64) (r : Option W64) : CampEnd :=
  match r with
  | some v => s.campGo n next fun k => k.setR (field w 7 5).toNat v
  | none => illegalCamp w

/-- Alignment that a load or store of m bytes must have. -/
def dataAlign (m : Nat) : Nat := if Config.campMisaligned then 1 else m

/-- LOAD and LOAD-FP. -/
def State.campLoad (s : State) (n : Nat) (w : W32) (next : W64) (fp : Bool) : CampEnd :=
  let k := s.camp n
  let f3 := (field w 12 3).toNat
  let m := 2 ^ (f3 % 4)
  let a := k.r (field w 15 5).toNat + immI w
  if f3 = 7 ∨ (fp ∧ (f3 < 2 ∨ 3 < f3 ∨ !k.fpOn)) then illegalCamp w
  else match k.accessTrap false a m (dataAlign m) with
    | some e => e
    | none =>
      let v := s.word (.camp n) a.toNat m
      if fp then s.campGo n next fun k => k.setF (field w 7 5).toNat (box (if f3 = 2 then f32 else f64) v)
      else s.campPut n w next (some (BitVec.ofInt 64 (if f3 < 4 then sextInt v (8 * m) else v)))

/-- STORE and STORE-FP. -/
def State.campStore (s : State) (n : Nat) (w : W32) (next : W64) (fp : Bool) : CampEnd :=
  let k := s.camp n
  let f3 := (field w 12 3).toNat
  let m := 2 ^ (f3 % 4)
  let a := k.r (field w 15 5).toNat + immS w
  if 3 < f3 ∨ (fp ∧ (f3 < 2 ∨ !k.fpOn)) then illegalCamp w
  else match k.accessTrap true a m (dataAlign m) with
    | some e => e
    | none =>
      let v := if fp then k.fr (field w 20 5).toNat else k.r (field w 20 5).toNat
      (s.putBytes (.camp n) a.toNat (toBytes m v.toNat)).campGo n next id

/-- LR, SC and the AMOs on m bytes. -/
def State.campAmo (s : State) (n : Nat) (w : W32) (next : W64) : CampEnd :=
  let k := s.camp n
  let f3 := (field w 12 3).toNat
  let f5 := (field w 27 5).toNat
  let a := k.r (field w 15 5).toNat
  let v := k.r (field w 20 5).toNat
  let rd := (field w 7 5).toNat
  if f3 ≠ 2 ∧ f3 ≠ 3 ∨ (f5 = 2 ∧ field w 20 5 ≠ 0#5) then illegalCamp w
  else
    let m := 2 ^ f3
    let old := s.word (.camp n) a.toNat m
    let back : W64 := BitVec.ofInt 64 (sextInt old (8 * m))
    match k.accessTrap (decide (f5 ≠ 2)) a m m with
    | some e => e
    | none =>
      if f5 = 2 then s.campGo n next fun k => { k.setR rd back with resv := some a.toNat }
      else if f5 = 3 then
        let ok := decide (k.resv = some a.toNat)
        (if ok then s.putBytes (.camp n) a.toNat (toBytes m v.toNat) else s).campGo n next fun k =>
          { k.setR rd (if ok then 0 else 1) with resv := none }
      else
        let new := if f3 = 2 then (rvAmo f5 (BitVec.ofNat 32 old) (field v 0 32 : BitVec 32)).map BitVec.toNat
          else (rvAmo f5 (BitVec.ofNat 64 old) v).map BitVec.toNat
        match new with
        | none => illegalCamp w
        | some x => (s.putBytes (.camp n) a.toNat (toBytes m x)).campGo n next fun k => k.setR rd back

/-- OP-IMM and OP-IMM-32. -/
def State.campImm (s : State) (n : Nat) (w : W32) (next : W64) (half : Bool) : CampEnd :=
  let f3 := (field w 12 3).toNat
  let a := (s.camp n).r (field w 15 5).toNat
  let top := (field w 25 7).toNat / (if half then 1 else 2) * (if half then 1 else 2)
  let shift := decide (f3 = 1 ∨ f3 = 5)
  if shift ∧ top ≠ 0 ∧ !(decide (top = 32 ∧ f3 = 5)) then illegalCamp w
  else
    let b : W64 := if shift then zext64 (field w 20 (if half then 5 else 6)) else immI w
    let alt := shift && decide (top = 32)
    s.campPut n w next (if half then rvAluW f3 alt a b else some (rvAlu f3 alt a b))

/-- OP and OP-32. -/
def State.campOp (s : State) (n : Nat) (w : W32) (next : W64) (half : Bool) : CampEnd :=
  let f3 := (field w 12 3).toNat
  let f7 := (field w 25 7).toNat
  let a := (s.camp n).r (field w 15 5).toNat
  let b := (s.camp n).r (field w 20 5).toNat
  if f7 = 1 then s.campPut n w next (if half then rvMulW f3 a b else some (rvMul f3 a b))
  else if f7 = 0 ∨ (f7 = 32 ∧ (f3 = 0 ∨ f3 = 5)) then
    s.campPut n w next (if half then rvAluW f3 (decide (f7 = 32)) a b else some (rvAlu f3 (decide (f7 = 32)) a b))
  else illegalCamp w

/-- A floating-point result and its flags. -/
def State.campF (s : State) (n : Nat) (w : W32) (next : W64) (r : W64 × BitVec 7) : CampEnd :=
  s.campGo n next fun k => (k.setF (field w 7 5).toNat r.1).accrue r.2

/-- An integer result of a floating-point operation. -/
def State.campX (s : State) (n : Nat) (w : W32) (next : W64) (r : Option (W64 × BitVec 7)) : CampEnd :=
  match r with
  | some z => s.campGo n next fun k => (k.setR (field w 7 5).toNat z.1).accrue z.2
  | none => illegalCamp w

/-- FMADD, FMSUB, FNMSUB and FNMADD by bits [3:2] of the opcode. -/
def State.campFma (s : State) (n : Nat) (w : W32) (next : W64) : CampEnd :=
  let k := s.camp n
  match rvFmt (field w 25 2).toNat, rvRnd (field w 12 3).toNat (k.fcsr.toNat / 32 % 8) with
  | some f, some m =>
    if !k.fpOn then illegalCamp w
    else
      let v (i : Nat) : FVal := decodeF f (unbox f (k.fr (field w i 5).toNat))
      let kind := (field w 2 2).toNat
      let a := if 2 ≤ kind then (v 15).negate else v 15
      let c := if kind = 1 ∨ kind = 3 then (v 27).negate else v 27
      s.campF n w next (rvRound f m (fmaV m a (v 20) c))
  | _, _ => illegalCamp w

/-- OP-FP. -/
def State.campOpFp (s : State) (n : Nat) (w : W32) (next : W64) : CampEnd :=
  let k := s.camp n
  let f3 := (field w 12 3).toNat
  let code := (field w 20 5).toNat
  let op := (field w 27 5).toNat
  let rnd := rvRnd f3 (k.fcsr.toNat / 32 % 8)
  match rvFmt (field w 25 2).toNat with
  | none => illegalCamp w
  | some f =>
    if !k.fpOn then illegalCamp w
    else
      let xr := k.fr (field w 15 5).toNat
      let x := unbox f xr
      let y := unbox f (k.fr code)
      let a := decodeF f x
      let b := decodeF f y
      let rounded (r : Rnd → FVal × BitVec 7) : CampEnd :=
        match rnd with
        | some m => s.campF n w next (rvRound f m (r m))
        | none => illegalCamp w
      if op = 0 then rounded fun m => addV m a b
      else if op = 1 then rounded fun m => addV m a b.negate
      else if op = 2 then rounded fun _ => mulV a b
      else if op = 3 then rounded fun _ => divV a b
      else if op = 11 ∧ code = 0 then rounded fun _ => sqrtV a
      else if op = 4 then
        match rvSign f f3 x y with
        | some v => s.campF n w next (v, 0)
        | none => illegalCamp w
      else if op = 5 ∧ f3 < 2 then s.campF n w next (rvMinMax f (decide (f3 = 1)) x y)
      else if op = 8 then
        match rvFmt code with
        | some g => if g = f then illegalCamp w else
            let v := decodeF g (unbox g xr)
            rounded fun _ => (v, sigFlags [v])
        | none => illegalCamp w
      else if op = 20 then s.campX n w next (rvCompare f f3 x y)
      else if op = 24 then s.campX n w next (rnd.bind fun m => rvToInt code m a)
      else if op = 26 then
        match rvFromInt code (k.r (field w 15 5).toNat) with
        | some i => rounded fun _ => (intV i, 0)
        | none => illegalCamp w
      else if op = 28 ∧ code = 0 ∧ f3 = 0 then
        s.campPut n w next (some (if f = f32 then sext64 (field xr 0 32 : BitVec 32) else xr))
      else if op = 28 ∧ code = 0 ∧ f3 = 1 then s.campPut n w next (some (rvClass f x))
      else if op = 30 ∧ code = 0 ∧ f3 = 0 then
        s.campGo n next fun k => k.setF (field w 7 5).toNat (box f (k.r (field w 15 5).toNat).toNat)
      else illegalCamp w

/-- The CSR instructions. -/
def State.campCsr (s : State) (n : Nat) (w : W32) (next : W64) : CampEnd :=
  let k := s.camp n
  let f3 := (field w 12 3).toNat
  let c := (field w 20 12).toNat
  let rs := (field w 15 5).toNat
  let src : W64 := if 4 ≤ f3 then BitVec.ofNat 64 rs else k.r rs
  let writes := decide (f3 % 4 = 1 ∨ rs ≠ 0)
  match k.csr n c with
  | none => illegalCamp w
  | some old =>
    if f3 % 4 = 0 ∨ (writes ∧ c / 1024 = 3) then illegalCamp w
    else
      let v := if f3 % 4 = 1 then src else if f3 % 4 = 2 then old ||| src else old &&& ~~~src
      s.campGo n next fun k => (if writes then k.setCsr c v else k).setR (field w 7 5).toNat old

/-- SYSTEM with funct3 0, and the CSR instructions. -/
def State.campSystem (s : State) (n : Nat) (w : W32) (next : W64) : CampEnd :=
  let k := s.camp n
  if w = 0x00000073#32 then .trap (if k.machine then 11 else 8) 0
  else if w = 0x00100073#32 then .trap 3 (if Config.campTval then k.pc else 0)
  else if w = 0x30200073#32 ∧ k.machine then .ok (s.modCamp n Camp.mret)
  else if w = 0x10500073#32 ∧ (k.machine ∨ !bitAt k.mstatus 21) then
    s.campGo n next fun k => { k with waiting := decide (k.mip &&& k.mie = 0#64) }
  else if (field w 12 3).toNat = 0 then illegalCamp w
  else s.campCsr n w next

/-- An instruction of the base ISA, by its major opcode. -/
def State.campRun (s : State) (n : Nat) (w : W32) (len : Nat) : CampEnd :=
  let k := s.camp n
  let next := k.pc + BitVec.ofNat 64 len
  let rd := (field w 7 5).toNat
  let f3 := (field w 12 3).toNat
  match (field w 0 7).toNat with
  | 0x37 => s.campGo n next fun k => k.setR rd (immU w)
  | 0x17 => s.campGo n next fun k => k.setR rd (k.pc + immU w)
  | 0x6F => s.campGo n (k.pc + immJ w) fun k => k.setR rd next
  | 0x67 =>
    if f3 = 0 then s.campGo n ((k.r (field w 15 5).toNat + immI w) &&& ~~~1#64) fun k => k.setR rd next else illegalCamp w
  | 0x63 =>
    match rvBranch f3 (k.r (field w 15 5).toNat) (k.r (field w 20 5).toNat) with
    | some t => s.campGo n (if t then k.pc + immB w else next) id
    | none => illegalCamp w
  | 0x03 => s.campLoad n w next false
  | 0x07 => s.campLoad n w next true
  | 0x23 => s.campStore n w next false
  | 0x27 => s.campStore n w next true
  | 0x2F => s.campAmo n w next
  | 0x13 => s.campImm n w next false
  | 0x1B => s.campImm n w next true
  | 0x33 => s.campOp n w next false
  | 0x3B => s.campOp n w next true
  | 0x0F => if f3 ≤ 1 then s.campGo n next id else illegalCamp w
  | 0x43 => s.campFma n w next
  | 0x47 => s.campFma n w next
  | 0x4B => s.campFma n w next
  | 0x4F => s.campFma n w next
  | 0x53 => s.campOpFp n w next
  | 0x73 => s.campSystem n w next
  | _ => illegalCamp w

/-- A compressed instruction runs as its expansion; where it is illegal, the exception names its own 16 bits. -/
def State.campShort (s : State) (n : Nat) (w : BitVec 16) : CampEnd :=
  match expandC w with
  | none => illegalCamp (w.setWidth 32)
  | some x => match s.campRun n x 2 with
    | .trap 2 _ => illegalCamp (w.setWidth 32)
    | e => e

/-- CAMP_CORE_INSTRUCTION (R337): a word of the base ISA, compressed ones included; a custom-0 word that R345 does not assign
raises the illegal-instruction exception (R338). -/
def execCampCoreInstruction (w : BitVec 32) (s : State) : Host.Outcome State Fault Refusal :=
  let n := s.cur.id
  .next (s.campDone n (if field w 0 2 = 3#2 then s.campRun n w 4 else s.campShort n (field w 0 16)))

/-! ### The camp extension (R338, R339, R345, R346) -/

/-- The pair of a camp core's current episode. -/
def State.campPair (s : State) (n : Nat) : Nat := 16384 * (n / 32) + (s.camp n).pair.toNat

/-- The word of an instruction of the extension, for the illegal-instruction exception. -/
def campBits (f3 : Nat) (rd rs1 rs2 : BitVec 5) : W32 := rvR 0x0B f3 0 rd.toNat rs1.toNat rs2.toNat

/-- The status of R346 with the reason of an ended pair. -/
def endedStatus (p : Pair) : W64 := BitVec.ofNat 64 (3 + 16 * p.reason.toNat)

/-- A status written to rd, and the pc moved on. -/
def State.campStatus (s : State) (n : Nat) (rd : BitVec 5) (v : W64) : CampEnd :=
  s.campGo n ((s.camp n).pc + 4) fun k => k.setR rd.toNat v

/-- MB.POST (R346). -/
def State.campPost (s : State) (n : Nat) (rd rs1 rs2 : BitVec 5) : CampEnd :=
  let k := s.camp n
  let a := k.r rs1.toNat
  let b := k.r rs2.toNat
  let p := s.pair (s.campPair n)
  if k.episode.isNone then illegalCamp (campBits 0 rd rs1 rs2)
  else match k.accessTrap false a 224 32 with
    | some e => e
    | none =>
      if field b 9 55 ≠ 0#55 ∨ 224 < (field b 0 8).toNat then s.campStatus n rd 6
      else if p.state = pairENDED ∨ p.state = pairIDLE then s.campStatus n rd (endedStatus p)
      else if p.state ≠ pairOBS then s.campStatus n rd 2
      else
        let q := p.post (s.campPair n) (field b 8 1).toNat (field b 0 8).toNat (s.bytes (.camp n) a.toNat 224)
        ((s.setPair (s.campPair n) q).modCamp n fun k => { k with posted := true }).campStatus n rd 0

/-- MB_POST. -/
def execMbPost (rd rs1 rs2 : BitVec 5) (s : State) : Host.Outcome State Fault Refusal :=
  .next (s.campDone s.cur.id (s.campPost s.cur.id rd rs1 rs2))

/-- MB.TAKE (R346): the count starts again (R344). -/
def State.campTake (s : State) (n : Nat) (rd rs1 : BitVec 5) : CampEnd :=
  let k := s.camp n
  let a := k.r rs1.toNat
  let p := s.pair (s.campPair n)
  if k.episode.isNone then illegalCamp (campBits 1 rd rs1 0)
  else match k.accessTrap true a 256 32 with
    | some e => e
    | none =>
      if p.state = pairENDED ∨ p.state = pairIDLE then s.campStatus n rd (endedStatus p)
      else if p.state ≠ pairTAKE then s.campStatus n rd 1
      else (((s.setPair (s.campPair n) p.take.2).putBytes (.camp n) a.toNat p.take.1).modCamp n fun k =>
        { k with count := 0 }).campStatus n rd 0

/-- MB_TAKE. -/
def execMbTake (rd rs1 : BitVec 5) (s : State) : Host.Outcome State Fault Refusal :=
  .next (s.campDone s.cur.id (s.campTake s.cur.id rd rs1))

/-- MB_PEEK (R346, R347). -/
def execMbPeek (rd : BitVec 5) (s : State) : Host.Outcome State Fault Refusal :=
  let n := s.cur.id
  .next (s.campDone n (
    if (s.camp n).episode.isNone then illegalCamp (campBits 2 rd 0 0)
    else s.campStatus n rd (s.pair (s.campPair n)).word))

/-- A window keeps the conditions of R339. -/
def campWindowOk (b l : Nat) : Bool := decide (b % 64 = 0 ∧ l % 64 = 0 ∧ b + l ≤ 131072)

/-- A descriptor of 32 bytes that EP.SWITCH accepts (R339); with BLEN 0 there is no window B to run outside local memory. -/
def descriptorOk (d : List Byte) : Bool :=
  let g := entryField d
  decide (g 0 2 / 2 ^ 14 = 0 ∧ g 2 1 / 2 = 0 ∧ g 3 1 = 0 ∧ g 4 4 / 2 ^ 20 = 0) && campWindowOk (g 8 4) (g 12 4)
    && campWindowOk (if g 20 4 = 0 then g 16 4 % 64 else g 16 4) (g 20 4)

/-- The outgoing descriptor's WDCNT written back (R346). -/
def State.writeBackCount (s : State) (n : Nat) : State :=
  match (s.camp n).episode with
  | none => s
  | some e => s.putBytes (.camp n) (e + 24) (toBytes 4 (s.camp n).count.toNat)

/-- A descriptor made current: its windows, count and budget are loaded; a START begins a count of 0 (R344). -/
def State.enterEpisode (s : State) (n a : Nat) (start : Bool) : State :=
  let g := entryField (s.bytes (.camp n) a 32)
  s.modCamp n fun k => { k with
    episode := some a
    pair := BitVec.ofNat 14 (g 0 2)
    epid := BitVec.ofNat 20 (g 4 4)
    mode := BitVec.ofNat 1 (g 2 1)
    winA := (g 8 4, g 12 4)
    winB := (g 16 4, g 20 4)
    count := if start then 0 else BitVec.ofNat 32 (g 24 4)
    budget := BitVec.ofNat 32 (g 28 4) }

/-- EP.SWITCH (R346). -/
def State.campSwitch (s : State) (n : Nat) (rd rs1 rs2 : BitVec 5) : CampEnd :=
  let k := s.camp n
  let a := k.r rs1.toNat
  let b := k.r rs2.toNat
  if !k.machine then illegalCamp (campBits 3 rd rs1 rs2)
  else match k.accessTrap false a 32 32 with
    | some e => e
    | none =>
      let d := s.bytes (.camp n) a.toNat 32
      let start := bitAt b 0
      let np := 16384 * (n / 32) + entryField d 0 2
      if field b 1 63 ≠ 0#63 ∨ !descriptorOk d then s.campStatus n rd 6
      else if start ∧ (s.pair np).state ≠ pairIDLE then s.campStatus n rd 1
      else
        let s1 := if start then s.setPair np (startPair (BitVec.ofNat 20 (entryField d 4 4)) (BitVec.ofNat 1 (entryField d 2 1))
          (s.polver.getD (n / 32) 0)) else s
        ((s1.writeBackCount n).enterEpisode n a.toNat start).campStatus n rd 0

/-- EP_SWITCH. -/
def execEpSwitch (rd rs1 rs2 : BitVec 5) (s : State) : Host.Outcome State Fault Refusal :=
  .next (s.campDone s.cur.id (s.campSwitch s.cur.id rd rs1 rs2))

/-- EP.WDSET (R346): the budget changes in the core and in the current descriptor. -/
def State.campWdset (s : State) (n : Nat) (rd rs1 : BitVec 5) : CampEnd :=
  let k := s.camp n
  match k.episode with
  | none => illegalCamp (campBits 4 rd rs1 0)
  | some e =>
    if !k.machine then illegalCamp (campBits 4 rd rs1 0)
    else
      let v : W32 := field (k.r rs1.toNat) 0 32
      ((s.putBytes (.camp n) (e + 28) (toBytes 4 v.toNat)).modCamp n fun k => { k with budget := v }).campStatus n rd (zext64 k.budget)

/-- EP_WDSET. -/
def execEpWdset (rd rs1 : BitVec 5) (s : State) : Host.Outcome State Fault Refusal :=
  .next (s.campDone s.cur.id (s.campWdset s.cur.id rd rs1))

/-- EP_END (R346): the pair ends with reason 1. -/
def execEpEnd (rd : BitVec 5) (s : State) : Host.Outcome State Fault Refusal :=
  let n := s.cur.id
  let k := s.camp n
  let p := s.pair (s.campPair n)
  .next (s.campDone n (
    if !k.machine || k.episode.isNone then illegalCamp (campBits 5 rd 0 0)
    else if p.state = pairENDED ∨ p.state = pairIDLE then s.campStatus n rd (endedStatus p)
    else (s.setPair (s.campPair n) (p.finish (s.campPair n) 1)).campStatus n rd 0))

/-! ### The watchdog and the camp cycle (R342, R344) -/

/-- The cycle counts for the watchdog: user mode, an episode whose pair is in OBS_TURN. -/
def State.campCounts (s : State) (n : Nat) : Bool :=
  let k := s.camp n
  !k.machine && k.episode.isSome && decide ((s.pair (s.campPair n)).state = pairOBS)

/-- WATCHDOG_EXPIRY (R344): at or above a nonzero budget the pair ends with reason 2 and bit 16 of mip is set. -/
def execWatchdogExpiry (s : State) : Host.Outcome State Fault Refusal :=
  let n := s.cur.id
  let k := s.camp n
  let p := s.pair (s.campPair n)
  if k.episode.isSome ∧ p.state = pairOBS ∧ k.budget ≠ 0#32 ∧ k.budget.toNat ≤ k.count.toNat then
    .next ((s.setPair (s.campPair n) (p.finish (s.campPair n) 2)).modCamp n fun k => { k with mip := k.mip ||| 0x10000#64 })
  else .next s

/-- The end of a counted cycle: the count goes up, that of a successful MB.POST included. -/
def State.campTick (s : State) (n : Nat) (counted : Bool) : State :=
  if counted then s.modCamp n fun k => { k with count := k.count + 1 } else s

end Sys2Proof.Machine
end

