-- ==== Sys2Proof/Machine/EngineEvents.lean ====
section
/-!
DEFINITION. The events of the engines (spec/15 R203 to R217, spec/17 R229 to R236, spec/19 R243 to R259): a command starts,
works and completes. The command is the one that the cursor names; an event leaves the state as it is where it does not apply.
-/

namespace Sys2Proof.Machine

/-! ### When commands act -/

/-- The clock domain of a queue: matrix or copy (R353). -/
def queueDomain (q : Nat) : Nat := if q % 2 = 1 then 2 else 3

/-- The command is the one that its queue may serve next for its context; the weight stream serves Q3 in push order (R25). -/
def Core.atHead (k : Core) (q : Nat) (c : Cmd) : Bool :=
  if q = 3 then decide ((k.queue 3).head?.map Cmd.id = some c.id) else decide ((k.head? q c.x).map Cmd.id = some c.id)

/-- The cursor's command, where its context's commands act. -/
def State.onAwake (s : State) (p : Nat → Cmd → Bool) (f : Nat → Cmd → State) : Host.Outcome State Fault Refusal :=
  match s.myCore.cmd? s.cur.id with
  | none => .next s
  | some c =>
    let q := s.myCore.queueOf s.cur.id
    .next (if s.engineOn s.cur.core c.x && p q c then f q c else s)

/-- The same, where a cycle of the command's domain begins. -/
def State.onCmd (s : State) (p : Nat → Cmd → Bool) (f : Nat → Cmd → State) : Host.Outcome State Fault Refusal :=
  s.onAwake (fun q c => s.engineTick s.cur.core (queueDomain q) && p q c) f

/-! ### Start (R116, R148, R211, R248, R249) -/

/-- A command takes its banks, all of them in one cycle (R148); none while one of them is held. -/
def State.takeBanks (s : State) (core : Nat) (c : Cmd) : Option State :=
  if c.banksHeld then some s
  else if (s.core core).heldBanks &&& c.banks ≠ 0#32 then none
  else some (s.modCmd core c.id fun c => { c with banksHeld := true })

/-- A command of Q1 that completes at its start: an MXZERO of no row, an MXGO of an empty nest (R223, R224). -/
def Cmd.emptyWork (c : Cmd) : Bool :=
  match c.op with
  | .mxgo _ => decide ((c.shadow.getD Shadow.reset).total = 0)
  | .mxzero _ => decide (c.matrixRows = 0)
  | _ => false

/-- The start of a command of Q1 (R211): a command boundary, from which a new MXSHARE counts (R42). -/
def State.startQ1 (s : State) (core : Nat) (c : Cmd) : State :=
  if !s.mayRun core c.x then s
  else if c.emptyWork then s.finish core c.id
  else match s.takeBanks core c with
    | none => s
    | some t => (t.modCore core fun k => { k with mxshareNow := k.share }).startMatrix core c

/-- The start of a command of Q3, whose slot must be EMPTY (R204). -/
def State.startQ3 (s : State) (core : Nat) (c : Cmd) : State :=
  if (s.ctx core c.x).wslots.getD c.slotNumber .empty ≠ .empty then s
  else match s.takeBanks core c with
    | none => s
    | some t => t.startMatrix core c

/-- A channel has served a context (R25). -/
def State.served (s : State) (core q x : Nat) : State :=
  s.modCore core fun k => if q = 0 then { k with lastIn := x } else { k with lastOut := x }

/-- The start of a copy: the span test of R243, then its banks (R148); a page fault is an event of its own. One that an error has ended
already completes, and one that has nothing more to move needs no translation. -/
def State.startCopy (s : State) (core q : Nat) (c : Cmd) : State :=
  if c.faultTag.isSome || ((s.core core).queue q).any (fun d => decide (d.state = .running)) then s
  else if c.totalBytes = 0 ∨ c.err ≠ 0 then (s.served core q c.x).finish core c.id
  else
    let go (m : Option PageMap) : State :=
      match s.takeBanks core c with
      | none => s
      | some t => (t.served core q c.x).modCmd core c.id fun c => { c with state := .running, page := m }
    if !c.translated ∨ c.totalBytes ≤ c.pos then go none
    else match s.copyPage c with
      | (some m, none) =>
        if c.rejected m then ((s.served core q c.x).modCmd core c.id fun c => { c with err := 5 }).finish core c.id else go (some m)
      | _ => s

/-- What a command does at its queue's head (R248): its guard is sampled, its tokens are taken, a discarded one completes, and
another starts when it can. -/
def State.advanceCmd (s : State) (core q : Nat) (c : Cmd) : State :=
  match c.resolved (s.ctx core c.x) with
  | none => s
  | some run =>
    let s1 := s.modCmd core c.id fun c => { c with sampled := some run }
    if !c.tokensTaken && !c.tokensReady (s.ctx core c.x) q then s1
    else
      let s2 := if c.tokensTaken then s1
        else (s1.modCtx core c.x fun k => k.takeTokens c q).modCmd core c.id fun c => { c with tokensTaken := true }
      if !run then s2.finish core c.id
      else if !s.engineTick core (queueDomain q) then s2
      else match (s2.core core).cmd? c.id with
        | none => s2
        | some c => if q = 1 then s2.startQ1 core c else if q = 3 then s2.startQ3 core c else s2.startCopy core q c

/-- ENGINE_COMMAND_START (R148): guards are sampled in every reference cycle (R116), and the start itself is at a cycle of the
engine's domain. -/
def execEngineCommandStart (s : State) : Host.Outcome State Fault Refusal :=
  match s.myCore.cmd? s.cur.id with
  | none => .next s
  | some c =>
    let q := s.myCore.queueOf s.cur.id
    event (!s.frozen s.cur.core && s.clusterOn s.cur.core && s.engineOn s.cur.core c.x && s.myCore.atHead q c
        && decide (c.state = .waiting ∨ c.state = .stopped))
      (fun s => s.advanceCmd s.cur.core q c) s

/-! ### Matrix passes (R205 to R213) -/

/-- A running command of Q1 without an error whose wait is over and whose matrix cycle it is. -/
def State.ready1 (s : State) (core q : Nat) (c : Cmd) : Bool :=
  decide (q = 1 ∧ c.state = .running ∧ c.err = 0 ∧ c.wait = 0) && c.turn && !s.workDone core c

/-- The matrix error that a pass meets: the reason, and w (R205, R206). -/
def State.matrixError (s : State) (core : Nat) (c : Cmd) (reason : Nat) (w : W32) : State :=
  s.modCmd core c.id fun c => { c with err := reason, errTag := w, reload := 0 }

/-- The running MXGO's nest, and the weight address of its next pass. -/
def Cmd.nextWeight (c : Cmd) : Option (Shadow × W32) :=
  match c.op, c.shadow with
  | .mxgo _, some h => some (h, h.weight c.pos)
  | _, _ => none

/-- MATRIX_RELOAD_DONE (R205): a reload begins when its slot is no longer EMPTY, meets its error, or is over at the end of its 64th matrix
cycle. -/
def execMatrixReloadDone (s : State) : Host.Outcome State Fault Refusal :=
  s.onAwake (fun q c => s.ready1 s.cur.core q c) fun _ c =>
    let core := s.cur.core
    match c.nextWeight with
    | none => s
    | some (h, w) =>
      if c.reload ≠ 0 then (if c.reload = 1 ∧ s.engineLast core 2 then s.installTile core c.x (w.toNat % 8) c.ba else s)
      else if !s.engineTick core 2 then s
      else match (s.ctx core c.x).passStep h w with
        | .reload => s.modCmd core c.id fun c => { c with reload := 64 }
        | .error r => if ((s.ctx core c.x).tile.map Tile.tag) = some w then s else s.matrixError core c r w
        | _ => s

/-- MATRIX_PASS_INJECT (R212), or the error of a resident tile whose format does not pair (R205). -/
def execMatrixPassInject (s : State) : Host.Outcome State Fault Refusal :=
  s.onCmd (fun q c => s.ready1 s.cur.core q c && decide (c.reload = 0)) fun _ c =>
    let core := s.cur.core
    match c.nextWeight, (s.ctx core c.x).tile with
    | some (h, w), some t =>
      match (s.ctx core c.x).passStep h w with
      | .inject =>
        if (match h.operand c.pos with
          | some a => s.localArrived core c a.toNat h.rowBytes
          | none => true) then s.injectPass core c h t else s
      | .error r => if t.tag = w then s.matrixError core c r w else s
      | _ => s
    | _, _ => s

/-- The first flight of a list whose time has come, and the others. -/
def dueFlight : List Flight → Option (Flight × List Flight)
  | [] => none
  | f :: r => if f.left = 0 then some (f, r) else (dueFlight r).map fun z => (z.1, f :: z.2)

/-- The landing cycle of a flight begins: it reads its accumulator row as it stands (R213). -/
def State.beginLanding (s : State) (core : Nat) (f : Flight) : Flight :=
  if f.left = 0 ∧ f.base = none then { f with base := some (s.memStart.run (cellKey (.acc core) (512 * f.row)) 512) } else f

/-- MATRIX_PASS_LAND (R213): at the start of a matrix cycle the passes that land in it read their rows, and at its end the first pass
or drained row whose time has come lands. -/
def execMatrixPassLand (s : State) : Host.Outcome State Fault Refusal :=
  let core := s.cur.core
  let s1 := if s.engineTick core 2 then s.modCore core fun k => { k with flights := k.flights.map (s.beginLanding core) } else s
  match dueFlight s1.myCore.flights with
  | none => .next s1
  | some (f, r) =>
    event (s.engineLast core 2) (fun s =>
      let c := s.myCore.cmd? f.cmd
      (s.modCore core fun k => { k with flights := r }).landFlight core f ((c.map Cmd.old).getD s.mem)
        ((c.map Cmd.banks).getD 0)) s1

/-! ### Rows (R214, R224, R225, R230) -/

/-- A row of MXZERO. -/
def State.zeroRow (s : State) (core : Nat) (c : Cmd) : State :=
  (s.putBytes (.acc core) ((c.val 0).toNat / 512 * 512 + 512 * c.pos) (List.replicate 512 0#8)).modCmd core c.id fun c =>
    { c with pos := c.pos + 1, wait := 1 }

/-- MATRIX_ROW_STEP (R214): a row of MXZERO or MXDRAIN, or a panel row of MXNORM (R230). -/
def execMatrixRowStep (s : State) : Host.Outcome State Fault Refusal :=
  s.onCmd (fun q c => s.ready1 s.cur.core q c) fun _ c =>
    match c.op with
    | .mxzero _ => s.zeroRow s.cur.core c
    | .mxdrain _ => s.drainRow s.cur.core c
    | .mxnorm _ => if s.localArrived s.cur.core c (s.normPlace s.cur.core c).1 (2 * (s.normPlace s.cur.core c).2) then s.normRow s.cur.core c else s
    | _ => s

/-! ### Samples (R233 to R235) -/

def Cmd.sMin (c : Cmd) : Nat := (field (c.val 2) 32 16).toNat
def Cmd.sMax (c : Cmd) : Nat := (field (c.val 2) 48 16).toNat

/-- One sample (R233); the interval is 2d, and 16 more with a check (R235). -/
def State.takeSample (s : State) (core : Nat) (c : Cmd) : State :=
  let k := s.ctx core c.x
  let sp := k.sampler
  let x1 := xorshift sp.x
  let x2 := xorshift x1
  let term := sp.draw x1 x2
  let a := sp.apb.toNat + 128 * term
  let b := sp.bpb.toNat + 256 * term
  if !s.localArrived core c a (2 * sp.sm.toNat) || !s.localArrived core c b (2 * sp.sn.toNat) then s else
  let r := sp.addTerm k.msz term (s.raceRead core a (2 * sp.sm.toNat) c.old c.banks false)
    (s.raceRead core b (2 * sp.sn.toNat) c.old c.banks false)
  let t := sp.t + 1
  let check := decide (t % 16 = 0 ∨ t = c.sMax)
  ({ s with freeN := s.freeN + max a b / 16 + 20 }.modCtx core c.x fun k =>
    { (k.raise 6 r.2 c.ba) with sampler := { r.1 with x := x2, t := t } }).modCmd core c.id fun d =>
      { d with wait := 2 * s.interval core c + (if check then 16 else 0), checking := check, arrived := t }

/-- MXSMP_SAMPLE (R233). -/
def execMxsmpSample (s : State) : Host.Outcome State Fault Refusal :=
  s.onCmd (fun q c => s.ready1 s.cur.core q c && decide (c.pos = 0) && !c.checking) fun _ c =>
    match c.op with
    | .mxsmp _ => s.takeSample s.cur.core c
    | _ => s

/-- The check and its decision (R234); the product of the stop test is formed from s_min on (R233). -/
def State.runCheck (s : State) (core : Nat) (c : Cmd) : State :=
  let k := s.ctx core c.x
  let sp := k.sampler
  let r := sp.check k.msz
  let met := if c.sMin ≤ sp.t then varianceMet (field (c.val 2) 0 32) r.1 r.2.1 else (false, 0)
  let reason := if met.1 then 1 else if sp.t = c.sMax then 2 else 0
  (s.modCtx core c.x fun k =>
    { (k.raise 6 (r.2.2 ||| met.2) c.ba) with sampler := { k.sampler with f := r.1, v := r.2.1, reason := reason } }).modCmd core c.id fun c =>
      { c with checking := false, pos := if reason = 0 then 0 else 1 }

/-- The output row of the cursor's command. -/
def State.outputRow (s : State) (core id : Nat) : State :=
  match (s.core core).cmd? id with
  | none => s
  | some c => if 1 ≤ c.pos ∧ c.pos ≤ (s.ctx core c.x).sampler.sm.toNat then s.sampleRow core c else s

/-- MXSMP_CHECK (R234): the check decides at the start of a matrix cycle; from then on one output row is written at the end of each
(R235). -/
def execMxsmpCheck (s : State) : Host.Outcome State Fault Refusal :=
  s.onAwake (fun q c => s.ready1 s.cur.core q c) fun _ c =>
    match c.op with
    | .mxsmp _ =>
      let t := if c.checking && s.engineTick s.cur.core 2 then s.runCheck s.cur.core c else s
      if s.engineLast s.cur.core 2 then t.outputRow s.cur.core c.id else t
    | _ => s

/-! ### Completion of Q1 and Q3 (R204, R206, R212, R214) -/

def Core.noFlights (k : Core) (id : Nat) : Bool := k.flights.all fun f => decide (f.cmd ≠ id)

/-- What a matrix command leaves at its completion: the alias table of MSBUILD (R231), whose flags enter FPF6 then (R95; log entry 36), the
CSRs of MXSMP (R228, R233). -/
def State.endMatrix (s : State) (core : Nat) (c : Cmd) : State :=
  if c.err ≠ 0 then s.finish core c.id
  else match c.op with
    | .msbuild _ =>
      let k := s.ctx core c.x
      let (sp, z, fl, e) := buildTable k.sampler k.msz
      ((s.modCtx core c.x fun k => { (k.raise 6 fl c.ba) with sampler := sp, msz := z }).modCmd core c.id fun c =>
        { c with err := e }).finish core c.id
    | .mxsmp _ =>
      (s.modCtx core c.x fun k =>
        { k with mscnt := BitVec.ofNat 18 (k.sampler.reason * 2 ^ 16 + k.sampler.t), msfro := k.sampler.f, msvar := k.sampler.v }).finish
        core c.id
    | _ => s.finish core c.id

/-- MATRIX_COMMAND_COMPLETE (R212): at the start of a matrix cycle; a command in error at the end of the cycle of the last landing
(R206); a finished command whose signals wait tries them again (R248). -/
def execMatrixCommandComplete (s : State) : Host.Outcome State Fault Refusal :=
  let start := s.engineTick s.cur.core 2 && decide (s.stage ≠ 4)
  s.onAwake (fun q c => decide (q = 1) && ((decide (c.state = .finishing) && start)
      || (decide (c.state = .running) && s.myCore.noFlights c.id
        && ((decide (c.err ≠ 0) && (start || s.engineLast s.cur.core 2)) || (start && decide (c.wait = 0) && s.workDone s.cur.core c))))) fun _ c =>
    if c.state = .finishing then s.complete s.cur.core c.id else s.endMatrix s.cur.core c

/-- The format and tag of a weight load (R222). -/
def Cmd.tileFormat (c : Cmd) : Nat := (field c.mc.aux 0 3).toNat
def Cmd.tileTag (c : Cmd) : W32 := field (c.val 0) 0 32

def Cmd.isStream (c : Cmd) : Bool :=
  match c.op with
  | .mxwstrm _ => true
  | _ => false

/-- The device-memory place of an MXWSTRM's tile (R146, R222). -/
def State.streamPlace (s : State) (core : Nat) (c : Cmd) : Region × Nat :=
  ((s.ctx core c.x).place core 4 (c.val 1).toNat (tileBytes c.tileFormat) true false).getD (.dev, 0)

/-- The next step of a running weight load: a 256-byte read of MXWLD (R214), or the time that an MXWSTRM takes. -/
def State.weightRead (s : State) (core : Nat) (c : Cmd) : State :=
  if c.isStream then
    let (r, a) := s.streamPlace core c
    let (due, t) := s.roundTrip core (s.tileOf core r a)
    t.modCmd core c.id fun c =>
      { c with pos := c.weightReads, wait := max (c.weightReads + 4) (ceilDiv (due - s.now) ((s.core core).divisor 2)) }
  else
    let a := (c.val 1).toNat + 256 * c.pos
    let n := min 256 (tileBytes c.tileFormat - 256 * c.pos)
    if !s.localArrived core c a n then s else
    let bs := s.raceRead core a n c.old c.banks false
    let bad := s.badRun (.scratch core) a n
    { s with freeN := s.freeN + a / 16 + 20 }.modCmd core c.id fun c =>
      { c with
        buf := c.buf ++ bs, pos := c.pos + 1, wait := if c.pos + 1 = c.weightReads then 5 else 1, badRead := c.badRead || bad }

/-- The slot is filled, or FAILED where a read meets an uncorrectable error (R204). -/
def State.fillSlot (s : State) (core : Nat) (c : Cmd) (bs : List Byte) (bad : Bool) : State :=
  let v : WSlot := if bad then .failed c.tileTag else .full ⟨c.tileTag, c.tileFormat, bs⟩
  (s.modCtx core c.x fun k => { k with wslots := k.wslots.setIfInBounds c.slotNumber v }).finish core c.id

/-- The end of a weight load; that of an MXWSTRM reads the tile by strong loads that see what its push released (R277, R278). -/
def State.endWeight (s : State) (core : Nat) (c : Cmd) : Host.Outcome State Fault Refusal :=
  if !c.isStream then .next (s.fillSlot core c c.buf c.badRead)
  else
    let (r, a) := s.streamPlace core c
    let n := tileBytes c.tileFormat
    if deviceLimit < a + n then .fault (.noSuchAddress a)
    else if !s.servesRun core (r, a, n) || !s.releasedArrived core c r a n then .next s
    else .next (s.fillSlot core c (s.engineBytes core c r a n) (s.badRun r a n))

/-- WEIGHT_LOAD_COMPLETE (R204): the reads of a weight load at the end of a matrix cycle, its completion at the start of one. -/
def execWeightLoadComplete (s : State) : Host.Outcome State Fault Refusal :=
  match s.myCore.cmd? s.cur.id with
  | none => .next s
  | some c =>
    let core := s.cur.core
    if s.myCore.queueOf c.id = 3 ∧ s.engineTick core 2 ∧ s.engineOn core c.x then
      if c.state = .finishing then .next (s.complete core c.id)
      else if c.state ≠ .running ∨ c.wait ≠ 0 then .next s
      else if !s.workDone core c then .next (s.weightRead core c)
      else if s.stage = 4 then .next s
      else s.endWeight core c
    else .next s

/-! ### Copies (R243, R244, R249, R252) -/

/-- The cells that a block reads and writes lie in stores that exist (R238). -/
def CopyBlock.outOfDevice (b : CopyBlock) : Option Nat :=
  ((b.src :: b.dsts).find? fun p => decide (p.1 = .dev ∧ deviceLimit < p.2 + b.len)).map fun p => p.2

/-- COPY_BLOCK_ARRIVAL (R252): a block's source is read, or its bytes arrive. -/
def execCopyBlockArrival (s : State) : Host.Outcome State Fault Refusal :=
  let core := s.cur.core
  match s.myCore.blocks.find? fun b => decide (b.id = s.cur.id) with
  | none => .next s
  | some b =>
    let clear : Bool := match s.myCore.cmd? b.cmd with
      | some c => ((b.src :: b.dsts).all fun p => s.releasedArrived core c p.1 p.2 b.len)
          && (b.data.isNone || !(b.dsts.any fun p => p.1.isScratch) || s.releasesDone core c)
      | none => true
    if b.due ≤ s.now ∧ s.blockServed core b ∧ clear then
      match b.outOfDevice with
      | some a => .fault (.noSuchAddress a)
      | none => .next (s.arriveBlock core b)
    else .next s

/-- The copy stands at a page fault now: at a page of its transfer, or at its start (R243, R244); true where a right is missing. -/
def State.pageFaultAt (s : State) (core q : Nat) (c : Cmd) : Option Bool :=
  if !c.isCopy || !c.translated || c.cancelled || decide (c.totalBytes ≤ c.pos) || decide (c.err ≠ 0) then none
  else if c.state = .running then (s.copyPage c).2
  else if (c.state = .waiting ∨ c.state = .stopped) ∧ c.sampled = some true ∧ c.tokensTaken ∧ (s.core core).atHead q c
      ∧ ((s.core core).queue q).all (fun d => decide (d.state ≠ .running)) then (s.copyPage c).2
  else none

/-- COPY_PAGE_FAULT (R244, R245): the command parks and its fault enters the queue, where both have room; one whose fault the queue
already has, as after a restore, parks where a slot has freed (R333). -/
def execCopyPageFault (s : State) : Host.Outcome State Fault Refusal :=
  s.onCmd (fun _ c => decide (s.parked s.cur.core < 64)
      && (if c.faultTag.isSome then decide (c.state = .waiting ∨ c.state = .stopped) else s.faultRoom)) fun q c =>
    let core := s.cur.core
    if c.faultTag.isSome then s.modCmd core c.id fun c => { c with state := .parked }
    else match s.pageFaultAt core q c with
    | none => s
    | some nr =>
      let tag := faultTag c.gen core c.x false (!c.inward) nr c.tok
      let f : OpenFault := { tag := tag, core := core, x := c.x, gen := c.gen, token := some c.tok }
      (s.pushFault (c.farAt c.pos).1 tag (s.ctx core c.x).taskid f).modCmd core c.id fun c =>
        { c with state := .parked, faultTag := some tag, page := none }

/-- COPY_COMMAND_COMPLETE (R249); a cancelled command ends with error 4 (R264). -/
def execCopyCommandComplete (s : State) : Host.Outcome State Fault Refusal :=
  match s.myCore.cmd? s.cur.id with
  | none => .next s
  | some c =>
    event (c.isCopy && !s.frozen s.cur.core && s.engineOn s.cur.core c.x)
      (fun s => if c.state = .finishing then s.complete s.cur.core c.id
        else if s.myCore.copyDone c then
          (s.modCmd s.cur.core c.id fun c => { c with err := if c.err = 0 ∧ c.cancelled then 4 else c.err }).finish s.cur.core c.id
        else s) s

/-- A copy in progress uses the host port: its next bytes, or a block on its way, lie in host memory (R241). -/
def State.usesHost (s : State) (core : Nat) (c : Cmd) : Bool :=
  (match c.page with
    | some m => decide (m.home = 1 ∧ c.pos < c.totalBytes)
    | none => false)
  || (s.core core).blocks.any fun b => decide (b.cmd = c.id) && (b.src :: b.dsts).any fun p => decide (p.1 = .host)

/-- HOST_PORT_UNCORRECTABLE_ERROR (R252): a copy that uses the host port ends with error 3. -/
def execHostPortUncorrectableError (core cmd : Nat) (s : State) : Host.Outcome State Fault Refusal :=
  match (s.core core).cmd? cmd with
  | none => .next s
  | some c => event (c.isCopy && decide (c.state = .running ∨ c.state = .parked) && s.usesHost core c) (fun s => s.failCopy core cmd 3) s

end Sys2Proof.Machine
end

