-- ==== Sys2Proof/Machine/Translate.lean ====
section
/-!
DEFINITION. The scheduler's translation at dispatch and what a dispatch sets (spec/23 R286, R289, R293 to R295; spec/11 R143,
R145): extent entries, peer window tables, registers, and the choice of a work unit (R298, R299).
-/

namespace Sys2Proof.Machine

/-! ### Extent entries (R293) -/

/-- What the translation of a unit's ranges finds. -/
inductive Translation where
  | ok (l : List Extent)
  /-- a page that is not present, or (true) lacks a right; true last where the range declares writes -/
  | missing (va : Nat) (right wr : Bool)
  /-- more entries than the table or a tile may have -/
  | tooMany
  deriving DecidableEq, Repr

/-- A run of one page added to the entries of its range, newest first: consecutive pages that are physically contiguous share
an entry, and pages outside device memory enter none. -/
def addRun (acc : List Extent) (m : PageMap) (va n : Nat) (r w : Bool) : List Extent :=
  if m.home ≠ 0 then acc else
  let p := m.pbase + (va - m.vbase)
  match acc with
  | e :: rest => if e.vbase + e.len = va ∧ e.pbase + e.len = p then { e with len := e.len + n } :: rest
      else ⟨va, n, p, w, r⟩ :: e :: rest
  | [] => [⟨va, n, p, w, r⟩]

/-- The entries of a run of bytes, newest first. -/
def State.translateRun (s : State) (r w : Bool) : (fuel va left : Nat) → List Extent → Translation
  | 0, _, _, acc => .ok acc
  | f + 1, va, left, acc =>
    if left = 0 then .ok acc
    else match s.pageOf va with
      | none => .missing va false w
      | some m =>
        if (r && !m.r) || (w && !m.w) then .missing va true w
        else
          let v := va % 2 ^ 57
          let n := min left (m.vbase + m.size - v)
          s.translateRun r w f (va + n) (left - n) (addRun acc m v n r w)

/-- The entries of n bytes from va, in ascending addresses. -/
def State.translateSpan (s : State) (r w : Bool) (va n : Nat) : Translation :=
  match s.translateRun r w (n / 4096 + 2) va n [] with
  | .ok l => .ok l.reverse
  | t => t

/-- The base, a canonical 57-bit address, the length and the rights of an operand range (R285). -/
def rangeSpan (v : W64) : Nat × Nat × Bool × Bool :=
  ((sext64 ((field v 0 45 : BitVec 45) ++ (0 : BitVec 12))).toNat, (field v 49 15).toNat * pageSize (field v 45 2).toNat, bitAt v 47, bitAt v 48)

/-- The ranges of a record in order. -/
def State.translateRanges (s : State) : List W64 → Translation
  | [] => .ok []
  | v :: rest =>
    let (va, n, r, w) := rangeSpan v
    match s.translateSpan r w va n with
    | .ok l => match s.translateRanges rest with
      | .ok m => .ok (l ++ m)
      | t => t
    | t => t

/-- An entry that the table does not use. -/
def Extent.empty : Extent := ⟨0, 0, 0, false, false⟩

/-- A list of entries as the table. -/
def extentTable (l : List Extent) : Vector Extent 8 := Vector.ofFn fun i : Fin 8 => l.getD i.val Extent.empty

/-- One tile, or the block itself, which must fill exactly one entry. -/
def State.translateTile (s : State) (va n : Nat) (r w : Bool) : Translation :=
  match s.translateSpan r w va n with
  | .ok [e] => .ok [e]
  | .ok _ => .tooMany
  | t => t

/-- Entries of a step's tiles at their descriptors' places, from entry i on; entry 4 is the block (R291). -/
def State.translateTiles (s : State) (u : WorkUnit) : (n i : Nat) → Translation
  | 0, _ => .ok []
  | n + 1, i =>
    let here : Translation :=
      if i = 4 then s.translateTile u.blockVa.toNat 256 true false
      else match u.tiles.find? fun t => decide (t.1 = i) with
        | some t => s.translateTile t.2.1.toNat t.2.2.1 (t.2.2.2.2.getLsbD 0) (t.2.2.2.2.getLsbD 1)
        | none => .ok [Extent.empty]
    match here with
    | .ok l => match s.translateTiles u n (i + 1) with
      | .ok m => .ok (l ++ m)
      | t => t
    | t => t

/-- The entries of the first record: buffers 0 to 6 with both rights, and the loader's region (R295). -/
def Image.entries (im : Image) : List Extent :=
  (upTo 7).map (fun i => match im.buffers[i]? with
    | some b => ⟨b.1, b.2.2, b.2.1, true, true⟩
    | none => Extent.empty) ++ [⟨im.region.2, 65536, im.region.1, false, true⟩]

/-- The extent entries of a unit (R291, R293, R295). -/
def State.translateUnit (s : State) (u : WorkUnit) : Translation :=
  if u.first then .ok ((s.image.map Image.entries).getD [])
  else if u.isStep then s.translateTiles u 5 0
  else match s.translateRanges u.rngs with
    | .ok l => if 8 < l.length then .tooMany else .ok l
    | t => t

/-- A retirement holds a walk of the pages of n bytes (R240). -/
def State.spanHeld (s : State) : (fuel va left : Nat) → Bool
  | 0, _, _ => false
  | f + 1, va, left =>
    if left = 0 then false
    else s.pageHeld va || (match s.pageOf va with
      | none => false
      | some m =>
        let n := min left (m.vbase + m.size - va % 2 ^ 57)
        s.spanHeld f (va + n) (left - n))

/-- A retirement holds a walk of the translation of a unit (R240). -/
def State.unitHeld (s : State) (u : WorkUnit) : Bool :=
  !s.retiring.isEmpty && !u.first
    && (if u.isStep then s.spanHeld 3 u.blockVa.toNat 256 || u.tiles.any fun t => s.spanHeld (t.2.2.1 / 4096 + 2) t.2.1.toNat t.2.2.1
      else u.rngs.any fun v => s.spanHeld ((rangeSpan v).2.1 / 4096 + 2) (rangeSpan v).1 (rangeSpan v).2.1)

/-- The pages that n bytes from va lie in, as they are translated now. -/
def State.pagesIn (s : State) : (fuel va left : Nat) → List PageMap
  | 0, _, _ => []
  | f + 1, va, left =>
    if left = 0 then []
    else match s.pageOf va with
      | none => []
      | some m =>
        let n := min left (m.vbase + m.size - va)
        m :: s.pagesIn f (va + n) (left - n)

/-- The pages of a table's entries are pinned with the translations that the entries rest on (R293). -/
def State.pinPages (s : State) (l : List Extent) : State :=
  let pages := l.flatMap fun e => s.pagesIn (e.len / 4096 + 2) e.vbase e.len
  { s with pages := (s.pages.filter fun m => pages.all fun p => decide (p.vbase ≠ m.vbase)) ++ pages }

/-! ### Peer window tables (R294) -/

/-- The windows of a context: SBASE, SLIM, ABASE, ALIM (R295). -/
def State.windowsOf (s : State) (core x : Nat) : Nat × Nat × Nat × Nat :=
  (s.launch.bind fun c => c.windows[2 * core + x]?).getD (0, 0, 0, 0)

/-- An entry of the default table. -/
def State.peerWord (s : State) (x core : Nat) : W64 :=
  let w := s.windowsOf core x
  BitVec.ofNat 64 (2 ^ 63 + w.2.1 * 2 ^ 29 + w.1 * 2 ^ 8 + core)

/-- The table that PWSEL selects; steps have the default one. -/
def State.peerTable (s : State) (core x : Nat) (u : WorkUnit) : Vector W64 8 :=
  let l : List W64 :=
    if u.isStep ∨ u.pwsel = 0 then ((upTo 256).filter fun c => decide (clusterOf c = clusterOf core)).map (s.peerWord x)
    else (s.launch.bind fun c => c.peers[u.pwsel - 1]?).getD []
  Vector.ofFn fun i : Fin 8 => l.getD i.val 0

/-! ### Registers at dispatch (R286, R295) -/

/-- The scalar registers of a unit as pairs of number and value. -/
def State.firstRegs (s : State) (u : WorkUnit) : List (Nat × W64) :=
  if u.first then
    match s.image with
    | none => []
    | some im => (1, BitVec.ofNat 64 im.region.2) :: (2, BitVec.ofNat 64 im.buffers.length)
        :: (upTo 7).filterMap fun i => (im.buffers[i]?).map fun b => (8 + i, BitVec.ofNat 64 b.1)
  else if u.isStep then
    (upTo 6).map (fun l => (l + 1, BitVec.ofNat 64 (u.levels.getD l 0))) ++ [(7, u.blockVa), (8, u.arg)]
  else [(1, u.frame), (2, u.arg), (3, BitVec.ofNat 64 u.jaddr)]

/-- A context as a new unit finds it (R21, R120, R143, R166, R204, R207, R250, R286). -/
def State.dispatched (s : State) (core x : Nat) (u : WorkUnit) (l : List Extent) (due : Nat) : Ctx :=
  let old := s.ctx core x
  let w := s.windowsOf core x
  let base := { Ctx.reset with
    state := .starting due
    unit := some { u with hasRun := true, home := (core, x) }
    gen := old.slotGen + 1
    slotGen := old.slotGen + 1
    strands := [Strand.lockstep old.nextStrand u.code (some false)]
    nextStrand := old.nextStrand + 1
    taskid := u.taskid
    scrbase := BitVec.ofNat 21 w.1
    scrlim := BitVec.ofNat 22 w.2.1
    accbase := BitVec.ofNat 22 w.2.2.1
    acclim := BitVec.ofNat 22 w.2.2.2
    extents := extentTable l
    peers := s.peerTable core x u
    snap := s.mem
    relWord := u.relWord
    ranSince := s.now
    ranE := u.eff s.now }
  (s.firstRegs u).foldl (fun k r => k.setS r.1 r.2) base

/-- The full/empty bits of a window cleared (R143). -/
def State.emptyWindow (s : State) (core : Nat) (k : Ctx) : State :=
  let lo := cellKey (.fe core) (k.scrbase.toNat / 16)
  let hi := cellKey (.fe core) (k.scrlim.toNat / 16)
  { s with mem := s.mem.filter fun c => decide (c.1 < lo ∨ hi ≤ c.1) }

/-! ### The choice of a unit (R298, R299) -/

/-- The units of a core, on chip and spilled (R297). -/
def State.queued (s : State) (core : Nat) : List WorkUnit :=
  (s.core core).ready ++ (s.spills.filter fun e => decide (e.2.1 = core)).map fun e => e.2.2

/-- The unit may run in a context (R299), and its push lies in an earlier cycle (R298). -/
def WorkUnit.eligible (u : WorkUnit) (x now : Nat) : Bool :=
  decide (u.stamp < now) && (u.scalar || decide (x = 0)) && (u.saved.isNone || decide (u.home.2 = x))

/-- u is chosen before v: by e, then a pre-empted unit, the last one first, then the earlier stamp. -/
def WorkUnit.beats (u v : WorkUnit) (now : Nat) : Bool :=
  if u.eff now ≠ v.eff now then decide (u.eff now < v.eff now)
  else if u.ahead ≠ v.ahead then u.ahead
  else if u.ahead then decide (v.stamp < u.stamp)
  else decide (u.stamp < v.stamp)

/-- The unit that a context chooses. -/
def State.choose (s : State) (core x : Nat) : Option WorkUnit :=
  ((s.queued core).filter fun u => u.eligible x s.now).foldl (fun b u =>
    match b with
    | none => some u
    | some v => if u.beats v s.now then some u else some v) none

/-- A list without the first element equal to u. -/
def eraseUnit (u : WorkUnit) : List WorkUnit → List WorkUnit
  | [] => []
  | v :: r => if v = u then r else v :: eraseUnit u r

/-- A unit taken out of its core's queue. -/
def State.unqueue (s : State) (core : Nat) (u : WorkUnit) : State :=
  if (s.core core).ready.contains u then s.modCore core fun k => { k with ready := eraseUnit u k.ready }
  else { s with spills := s.spills.erase (dieOf core, core, u) }

end Sys2Proof.Machine
end

