-- ==== Sys2Proof/Machine/TaskEvents.lean ====
section
/-!
DEFINITION. The events of the schedulers and walkers (spec/23 R291 to R305, R308 to R311; spec/25 R322 to R334): dispatch,
pre-emption, save and restore, block acceptance and walks, ends of tasks, decrements, spills and averaging.
-/

namespace Sys2Proof.Machine

/-! ### Dispatch (R293, R298 to R300) -/

/-- A fault for the held unit of a context waits for its reply (R293). -/
def State.heldFault (s : State) (core x : Nat) : Bool :=
  s.openFaults.any fun f => decide (f.core = core ∧ f.x = x ∧ f.token = none)

/-- The tag of a held unit's fault: its generation is the one that the dispatch will give it (R245). -/
def State.heldTag (s : State) (core x : Nat) (wr nr : Bool) : W64 :=
  faultTag ((s.ctx core x).slotGen + 1) core x true wr nr 0

/-- The unit ends without running, as a fault under KILL (R293): its counter receives FAULTED, its record is written, and the
management core is told. The manual states no cause, value or address for the record. -/
def State.endUntranslated (s : State) (core x : Nat) (u : WorkUnit) : State :=
  let n := s.freeN
  let e : Ending := ⟨Config.openWord n, Config.openWord (n + 1), Config.openWord (n + 2), 1, false⟩
  let s1 := ({ s with freeN := n + 3 }.unitDecrement core u true false).notify (.unitEnd u.taskid)
  s1.recordAndFree core x (recordBytes u.taskid e (s.cycleOf core) 0 ((s.ctx core x).slotGen + 1) 0 u.handler core x) false

/-- The first bundle's cycle for a context that has just chosen (R300). -/
def State.dispatchDue (s : State) (core x : Nat) (u : WorkUnit) : Nat :=
  max ((s.ctx core x).ranSince) (u.stamp + 1) + Config.dispatchCycles

/-- A dispatch of R300 takes exactly its 32 cycles: an on-chip record without pages. -/
def State.prompt (s : State) (core : Nat) (u : WorkUnit) : Bool :=
  (s.core core).ready.contains u && !u.isStep && u.rngs.all fun r => decide (field r 49 15 = 0#15)

/-- A context translates its unit and starts it, or holds it (R293). -/
def State.startUnit (s : State) (core x : Nat) (u : WorkUnit) (due : Nat) : State :=
  match s.translateUnit u with
  | .ok l =>
    let k := s.dispatched core x u l due
    ((s.pinPages l).emptyWindow core k).setCtx core x k
  | .tooMany => (s.modCtx core x fun k => { k with state := .held, unit := some u }).endUntranslated core x u
  | .missing va nr wr =>
    let held := s.modCtx core x fun k => { k with state := .held, unit := some u }
    if !s.faultRoom then held
    else
      let tag := s.heldTag core x wr nr
      held.pushFault va tag u.taskid { tag := tag, core := core, x := x, gen := (s.ctx core x).slotGen + 1, token := none }

/-- How much of the places from lo up to hi some runs of first place and length cover together. -/
def coveredLen (lo hi : Nat) (runs : List (Nat × Nat)) : Nat :=
  ((sortOn (fun r => r.1) runs).foldl (fun (z : Nat × Nat) r =>
    let a := max z.1 r.1
    let e := min hi (r.1 + r.2)
    if a < e then (e, z.2 + (e - a)) else z) (lo, 0)).2

/-- Bytes of a saved window that its area holds: the discarded ones left out, the live accumulator rows, and the full/empty bits; entries
act as their union (R126, R334). -/
def Ctx.keptBytes (k : Ctx) : Nat :=
  let runs (v : Vector (W64 × W64) 8) : List (Nat × Nat) := v.toList.map fun d => (d.1.toNat, d.2.toNat)
  let win := k.scrlim.toNat - k.scrbase.toNat
  let gone := coveredLen k.scrbase.toNat k.scrlim.toNat (runs k.discards)
  let rows := coveredLen 0 ((k.acclim.toNat - k.accbase.toNat) / 512) (runs k.lives)
  roundUp (win - gone) 64 + roundUp (win / 128) 64 + 512 * rows

/-- Bytes that a restore reads (R334). -/
def Saved.readBytes (v : Saved) : Nat :=
  0x5F000 + roundUp v.ctx.pendImage.length 64 + roundUp (queueImage v.ctx v.cmds).length 64 + 512 + v.ctx.keptBytes

/-- The area lies in the near memory of the core's die (R238). -/
def Saved.near (v : Saved) : Bool :=
  decide (v.addr / 412316860416 = dieOf v.core ∧ v.addr % 412316860416 < 206158430208)

/-- Another save or restore of the core is running (R334). -/
def State.saving (s : State) (core x : Nat) : Bool :=
  match (s.ctx core (1 - x)).state with
  | .stopping _ _ _ => true
  | .starting due => decide (s.now < due) && (((s.ctx core (1 - x)).unit.bind WorkUnit.saved).isSome)
  | _ => false

/-- The end of a restore (R300, R334), and the free values it asks for. -/
def State.restoreDue (s : State) (core x : Nat) (u : WorkUnit) (onChip : Bool) : Nat :=
  match u.saved.bind fun a => s.saves.find? fun v => decide (v.addr = a) with
  | none => s.dispatchDue core x u
  | some v =>
    s.dispatchDue core x u + Config.restoreCycles + ceilDiv v.readBytes 64
      + (if onChip && v.near && !s.saving core x then 0 else Config.delay s.freeN)

/-- A saved unit's context while its area is read. -/
def State.reserve (s : State) (core x : Nat) (u : WorkUnit) (onChip : Bool) : State :=
  let k := s.ctx core x
  let gen := ((u.saved.bind fun a => s.saves.find? fun v => decide (v.addr = a)).map fun v => v.ctx.gen).getD k.gen
  { s.setCtx core x { Ctx.reset with
      state := .starting (max s.now (s.restoreDue core x u onChip)), unit := some u, gen := gen, slotGen := k.slotGen,
      nextStrand := k.nextStrand, ranSince := s.now, ranE := u.eff s.now } with freeN := s.freeN + 1 }

/-- DISPATCH (R300): a free context chooses a unit; a held one translates again once its fault has been answered. -/
def execDispatch (s : State) : Host.Outcome State Fault Refusal :=
  let core := s.cur.core
  let x := s.cur.x
  match s.me.state with
  | .free =>
    match s.choose core x with
    | none => .next s
    | some u =>
      event (s.takesWork core && (u.saved.isSome || !s.unitHeld u)) (fun s =>
        let t := s.unqueue core u
        if u.saved.isSome then t.reserve core x u ((s.core core).ready.contains u)
        else
          let due := max s.now (s.dispatchDue core x u + if s.prompt core u then 0 else Config.delay s.freeN)
          { t with freeN := t.freeN + 1 }.startUnit core x u due) s
  | .held =>
    match s.me.unit with
    | none => .next s
    | some u =>
      event (s.takesWork core && !s.heldFault core x && !s.unitHeld u)
        (fun s => { s with freeN := s.freeN + 1 }.startUnit core x u (s.now + Config.dispatchCycles + Config.delay s.freeN)) s
  | _ => .next s

/-! ### Pre-emption and saving (R299, R301, R324) -/

/-- A unit that has been dispatched and has not issued its first bundle yet. -/
def Ctx.aboutToStart (k : Ctx) : Bool :=
  (match k.state with
    | .starting _ => true
    | _ => false) && (k.unit.map fun u => u.saved.isNone).getD false

/-- A drain that a save keeps: of a CLKDIV or a TRET that has issued (R122, R124); a crossing bundle drains again (R38). -/
def Drain.saved : Drain → Drain
  | .crossing => .none
  | .yield => .none
  | d => d

/-- A context stops for a save (R324). -/
def State.stopContext (s : State) (core x : Nat) (yielded : Bool) : State :=
  let k := s.ctx core x
  if k.running || decide (k.state = .halted) || k.aboutToStart then
    (s.stopCommands core x).modCtx core x fun k =>
      { k with state := .stopping yielded (decide (k.state = .halted)) (s.cycleOf core), drain := k.drain.saved, leaving := false }
  else s

/-- A context is pre-empted: a running one at its next boundary, where a fault goes first (R320, R324). -/
def State.preempt (s : State) (core x : Nat) : State :=
  if (s.ctx core x).running then s.modCtx core x fun k => { k with leaving := true } else s.stopContext core x false

/-- A context that is about to take a queued unit: free, or stopping for its save. -/
def CtxState.isVacating : CtxState → Bool
  | .free => true
  | .stopping _ _ _ => true
  | _ => false

/-- A unit is queued that has a lower e than the running one had at its dispatch (R301); a unit that the other context is about
to take pre-empts no second one. -/
def State.outranked (s : State) (core x : Nat) : Bool :=
  let k := s.ctx core x
  let l := (s.queued core).filter fun u => u.eligible x s.now && decide (u.eff s.now < k.ranE)
  let spare := if (s.ctx core (1 - x)).state.isVacating && l.any (fun u => u.eligible (1 - x) s.now) then 1 else 0
  (k.running || (decide (k.state = .halted) && k.unit.isSome)) && decide (k.ranSince + Config.preemptAfter ≤ s.now)
    && decide (spare < l.length) && s.saveRoom core x

/-- SCHEDULER_PREEMPT (R301): of two contexts that qualify, context 1 stops. -/
def execSchedulerPreempt (s : State) : Host.Outcome State Fault Refusal :=
  let core := s.cur.core
  event (s.takesWork core && !s.frozen core && s.outranked core s.cur.x && !(decide (s.cur.x = 0) && s.outranked core 1))
    (fun s => s.preempt core s.cur.x) s

/-- An MXSTAT of a stopping context, whose commands the stop holds (R237). -/
def Access.isMxstat (a : Access) : Bool :=
  match a.kind with
  | .mxstat _ _ _ => true
  | _ => false

/-- Accesses of a context's unit. -/
def State.accsOf (s : State) (core x : Nat) : List Access :=
  s.accs.filter fun a => decide (a.core = core ∧ a.x = x ∧ a.gen = (s.ctx core x).gen)

/-- The save area holds the context; its unit is queued again and the context is free (R299, R311, R324). -/
def State.saveContext (s : State) (core x : Nat) (u : WorkUnit) (yielded halted : Bool) (stop : Nat) : State :=
  let gen := (s.ctx core x).gen
  let keep := (s.accsOf core x).filter Access.isMxstat
  let (s1, a) := (s.modCtx core x fun k =>
    { k.loadTables (fun _ => true) with state := if halted then .halted else .running }).writeArea core x false stop
  let s2 := { s1 with
    saves := s1.saves.map (fun (v : Saved) => if v.addr = a then { v with waiting := keep } else v)
    accs := s1.accs.filter fun (c : Access) => !(decide (c.core = core ∧ c.x = x ∧ c.gen = gen) && c.isMxstat) }
  let s3 : State := State.modCore s2 core fun k => { k with queues := k.queues.map fun l => l.filter fun c => decide (c.x ≠ x) }
  (s3.freeContext core x).pushUnit core
    { u with saved := some a, home := (core, x), ahead := !yielded, hasRun := true, wSince := s.now }

/-- A stopped context has nothing more to land: its variable-latency results are written, its stores accepted, and nothing of its
engine commands is on its way (R324). -/
def State.landed (s : State) (core x : Nat) : Bool :=
  (s.accsOf core x).all Access.isMxstat && ((s.ctx core x).pend.all fun p => !p.inter) && (s.core core).enginesQuiet x

/-- CONTEXT_SAVE (R324): results have landed, stores are accepted, nothing of the engines is on its way. -/
def execContextSave (s : State) : Host.Outcome State Fault Refusal :=
  let core := s.cur.core
  let x := s.cur.x
  match s.me.state, s.me.unit with
  | .stopping y h stop, some u =>
    event (s.landed core x && s.clusterOn core && s.saveRoom core x && s.areaServed core x && s.pushRoom core)
      (fun s => s.saveContext core x u y h stop) s
  | _, _ => .next s

/-! ### Restore (R333, R334) -/

/-- The cells of a window replaced by those of its area; what the area does not hold reads as zero, and the granules of discarded bytes
are empty (R334). -/
def State.putWindow (s : State) (core : Nat) (k : Ctx) (cells : Memory) : State :=
  let sc := cellKey (.scratch core) 0
  let ac := cellKey (.acc core) 0
  let fe := cellKey (.fe core) 0
  let inside (c : Host.Cell) : Bool :=
    decide ((sc + k.scrbase.toNat ≤ c.1 ∧ c.1 < sc + k.scrlim.toNat) ∨ (ac + k.accbase.toNat ≤ c.1 ∧ c.1 < ac + k.acclim.toNat)
      ∨ (fe + k.scrbase.toNat / 16 ≤ c.1 ∧ c.1 < fe + k.scrlim.toNat / 16))
  let back := cells.filter fun c => !(decide (fe ≤ c.1) && k.discarded ((c.1 - fe) * 16))
  { s with mem := back.foldl (fun m c => Memory.put m c.1 c.2) (s.mem.filter fun c => !inside c) }

/-- A saved command enters its queue again, with what the reply log says of it (R333). -/
def Cmd.restored (c : Cmd) (log : List (BitVec 16 × Bool)) : Cmd :=
  let d := { c with banksHeld := false, page := none }
  match log.find? fun r => c.isCopy && decide (r.1 = c.tok) with
  | some (_, refused) =>
    if refused then { d with state := .running, err := 2, faultTag := none } else { d with state := d.unparked, faultTag := none }
  | none => d

/-- The saved entries re-enter the queues behind what stands there (R25), whether or not that takes a queue above its 32 entries or the
secondary context's above 8 (log entry 36); an unlogged parked copy takes a park slot where one
is free (R333). -/
def State.requeue (s : State) (core : Nat) (cmds : Vector (List Cmd) 4) (log : List (BitVec 16 × Bool)) : State :=
  (upTo 4).foldl (fun s q => (cmds.getD q []).foldl (fun s c =>
    let d := c.restored log
    let d := if d.state = .parked ∧ 64 ≤ s.parked core then { d with state := d.unparked } else d
    s.modCore core fun k => k.setQueue q (k.queue q ++ [d])) s) s

/-- G is recomputed (R329). -/
def Sampler.remake (sp : Sampler) : Sampler :=
  let na := sp.na.toArray
  let nb := sp.nb.toArray
  { sp with g := (upTo sp.sk.toNat).map fun k => (mulF32 (w32At na k) (w32At nb k)).1 }

/-- The area of a restored unit is freed, and what it held is back in place (R334). -/
def State.restoreContext (s : State) (core x : Nat) (u : WorkUnit) (v : Saved) (due : Nat) : State :=
  let k := s.ctx core x
  let back := { v.ctx with
    state := if v.ctx.state = .halted then .halted else .starting due
    unit := some { u with saved := none, ahead := false }
    slotGen := k.slotGen
    nextStrand := max k.nextStrand v.ctx.nextStrand
    clkReq := false
    replyLog := []
    sampler := v.ctx.sampler.remake
    ranSince := s.now
    ranE := k.ranE
    resume := if v.cmds.toList.any fun l => l.any fun c => decide (c.state = .stopped ∧ 0 < c.cad) then some v.stop else none }
  let s1 := ({ s with saves := s.saves.filter (fun w => decide (w.addr ≠ v.addr)), accs := s.accs ++ v.waiting }.setCtx core x
    back).putWindow core back v.cells
  ((s1.requeue core v.cmds v.ctx.replyLog).snapshot core x).setReq core x v.ctx.clkReq s.now

/-- CONTEXT_RESTORE (R334): the area has been read; the first bundle may issue. -/
def execContextRestore (s : State) : Host.Outcome State Fault Refusal :=
  match s.me.state, s.me.unit with
  | .starting due, some u =>
    match u.saved.bind fun a => s.saves.find? fun v => decide (v.addr = a) with
    | some v => event (s.takesWork s.cur.core && decide (due ≤ s.now) && !s.quiesced v.addr v.size) (fun s => s.restoreContext s.cur.core s.cur.x u v due) s
    | none => .next s
  | _, _ => .next s

/-! ### Fault records (R322) -/

/-- FAULT_RECORD_WRITE (R319, R322): the engines of a unit that ends under KILL have let go, or a place has freed; the record is written
and the context freed. A step lost in retention is
queued again (R336). A cursor on no such context is for the records of units that were not bound. -/
def execFaultRecordWrite (s : State) : Host.Outcome State Fault Refusal :=
  let core := s.cur.core
  match s.me.state with
  | .ending _ _ _ _ => .next (s.finishEnd core s.cur.x)
  | .recording bs requeue =>
    event (s.recordRoom && (!requeue || s.pushRoom core)) (fun s => s.recordAndFree core s.cur.x bs requeue) s
  | _ =>
    match s.records with
    | [] => .next s
    | bs :: rest => event s.recordRoom (fun s => { s with records := rest }.writeRecord bs) s

/-! ### Ends (R309, R310) -/

/-- Everything that FENCE.ALL waits for has completed (R118, R309). -/
def State.workOver (s : State) (core x : Nat) : Bool :=
  ((s.ctx core x).pend.all fun p => p.frozen) && (s.accsOf core x).isEmpty && s.idleQueues core x

/-- A unit ends: its stores are published, its step marked or its counter decremented, or its continuation pushed, and its
context freed (R309, R310). -/
def State.endUnit (s : State) (core x : Nat) (u : WorkUnit) (cont : Option WorkUnit) : State :=
  let k := s.ctx core x
  let s1 := s.publishWhere fun h => h.ofUnit core x k.gen
  let s2 := match cont with
    | some c =>
      let (id, t) := s1.newTaskid (dieOf core)
      t.pushUnit core { c with taskid := id, wSince := s.now }
    | none => if u.isStep then (s1.markStep u).stepEnded u false false else s1.unitDecrement core u false false
  s2.freeContext core x

/-- TASK_END (R309). -/
def execTaskEnd (s : State) : Host.Outcome State Fault Refusal :=
  let core := s.cur.core
  let x := s.cur.x
  match s.myStrand.waits, s.me.unit with
  | [.tend cont], some u =>
    event (s.controlTick core && s.me.running && s.workOver core x && (cont.isNone || s.pushRoom core))
      (fun s => s.endUnit core x u cont) s
  | _, _ => .next s

/-! ### Blocks (R291, R292, R308) -/

/-- The dies of a block's set, ascending (R288). -/
def blockDies (bs : List Byte) (die : Nat) : List Nat :=
  let m : BitVec 4 := field (blockWord bs 104) 52 4
  if m = 0#4 then [die] else bitsOf m 4

/-- The block-table slots in use on a die (R292). -/
def State.slotsUsed (s : State) (die : Nat) : List Nat :=
  s.blocks.flatMap fun b => b.dies.filterMap fun d => if d.1 = die then some d.2.1 else none

/-- A free slot of a die. -/
def State.freeSlot (s : State) (die : Nat) : Option Nat := (upTo 64).find? fun i => !(s.slotsUsed die).contains i

/-- BLOCK_ACCEPT (R308): what precedes the SPAWNOP is published (R268), and the block is accepted by the walkers of its set; one
without steps completes at once (R292). -/
def execBlockAccept (s : State) : Host.Outcome State Fault Refusal :=
  let core := s.cur.core
  let x := s.cur.x
  let t := s.myStrand
  match t.waits.find? fun w => match w with | .block _ _ _ _ => true | _ => false with
  | some (.block va bs due before) =>
    let dies := blockDies bs (dieOf core)
    event (s.controlTick core && s.me.running && decide (due ≤ s.now) && (dies.all fun d => (s.freeSlot d).isSome)
        && s.allPerformed core x before)
      (fun s =>
        let s1 := s.publish core x s.me.gen before
        let b : Block := {
          id := s1.seqN, dies := dies.map fun d => (d, (s.freeSlot d).getD 0, 0), va := va, bytes := bs, left := blockSteps bs,
          faulted := false, killed := false }
        let s2 := { s1 with blocks := s1.blocks ++ [b], seqN := s1.seqN + 1 }.closeBlock b.id
        s2.endWait t (.block va bs due before)) s
  | _ => .next s

/-- The product of the COUNTs of levels with one mark. -/
def markCount (bs : List Byte) (mark : BitVec 2) : Nat :=
  (upTo 6).foldl (fun n l => if (blockLevel bs l).mark = mark then n * (blockLevel bs l).count.toNat else n) 1

/-- The index of level l among the levels of its mark, of which q is the flat index. -/
def markIndex (bs : List Byte) (mark : BitVec 2) (q l : Nat) : Nat :=
  q / (upTo l).foldl (fun n j => if (blockLevel bs j).mark = mark then n * (blockLevel bs j).count.toNat else n) 1
    % (blockLevel bs l).count.toNat

/-- The core set of a block on a die, ascending (R291). -/
def coreSet (bs : List Byte) (die : Nat) : List Nat :=
  let m : BitVec 8 := field (blockWord bs 104) 56 8
  (upTo 256).filter fun c => decide (dieOf c = die) && (decide (m = 0#8) || m.getLsbD (clusterOf c % 8))

/-- The level indices of a step (B levels 0), from the flat indices of the D, C and T levels. -/
def stepIndices (bs : List Byte) (qD qC qT : Nat) : List Nat :=
  (upTo 6).map fun l =>
    match (blockLevel bs l).mark.toNat with
    | 3 => markIndex bs 3 qD l
    | 2 => markIndex bs 2 qC l
    | 1 => markIndex bs 1 qT l
    | _ => 0

/-- The step number: the flat index over the walked levels, level 5 most significant (R292). -/
def stepNumber (bs : List Byte) (idx : List Nat) : Nat :=
  ((upTo 6).foldl (fun (z : Nat × Nat) l =>
    let v := blockLevel bs l
    if v.walked then (z.1 + idx.getD l 0 * z.2, z.2 * v.count.toNat) else z) (0, 1)).1

/-- The tile of descriptor n: its index, base, length, page size and rights (R289). -/
def stepTile (bs : List Byte) (idx : List Nat) (n : Nat) : Option (Nat × W64 × Nat × Nat × BitVec 2) :=
  let d := blockTensor bs n
  let len := (field d 64 40).toNat
  if len = 0 then none else
  let off := (upTo 6).foldl (fun a l => a + idx.getD l 0 * (field d (128 + 20 * l) 20).toNat) 0
  let base := sext64 (field d 0 57 : BitVec 57) + BitVec.ofNat 64 (off * 2 ^ (field d 104 5).toNat)
  some (n, base, len, (field d 57 2).toNat, field d 59 2)

/-- The step at a position of a die's walk and its core; none past its last (R291). -/
def Block.stepAt (b : Block) (die slot pos : Nat) (k n : Nat) : Option (WorkUnit × Nat) :=
  let bs := b.bytes
  let nC := markCount bs 2
  let nT := markCount bs 1
  let cores := coreSet bs die
  if nC * nT = 0 then none else
  let qD := k + n * (pos / (nC * nT))
  if markCount bs 3 ≤ qD then none else
  let qC := pos / nT % nC
  let idx := stepIndices bs qD qC (pos % nT)
  let no := stepNumber bs idx
  let ctl := (b.bctl &&& 0xB7FFFFFFF#64) ||| 0x400000000#64
  some ({
    taskid := BitVec.ofNat 64 (2 ^ 63 + die * 2 ^ 48 + slot * 2 ^ 40 + no % 2 ^ 32), isStep := true, first := false,
    code := b.word 96, frame := 0, arg := b.word 120, ctl := ctl, rngs := [], block := b.id, stepNo := no,
    levels := (upTo 6).map fun l => if (blockLevel bs l).walked then idx.getD l 0 else (blockLevel bs l).count.toNat,
    tiles := (upTo 4).filterMap (stepTile bs idx), blockVa := b.va, saved := none, home := (0, 0), ahead := false,
    hasRun := false, wSince := 0, stamp := 0, relWord := 0 }, cores.getD (qC % cores.length) 0)

/-- The next step of a block on a die. -/
def Block.nextStep (b : Block) (die : Nat) : Option (WorkUnit × Nat) :=
  let ds := b.dies.map fun d => d.1
  match b.dies.find? fun d => decide (d.1 = die) with
  | none => none
  | some (_, slot, pos) => b.stepAt die slot pos (ds.findIdx fun d => decide (d = die)) ds.length

/-- The position of a die's walk advanced. -/
def Block.advance (b : Block) (die : Nat) : Block :=
  { b with dies := b.dies.map fun d => if d.1 = die then (d.1, d.2.1, d.2.2 + 1) else d }

/-- WALKER_STEP_PUSH (R291): at most one step every two cycles into the queue of its core, of the oldest block that has one left on the die,
in even reference cycles (log entry 36); the cursor's core names the die. -/
def execWalkerStepPush (s : State) : Host.Outcome State Fault Refusal :=
  let die := s.cur.core
  match s.blocks.findSome? fun b => (b.nextStep die).map fun n => (b, n) with
  | none => .next s
  | some (b, u, core) =>
    event (decide (s.now % 2 = 0) && s.pushRoom core && s.clusterOn core) (fun s =>
      { s with blocks := s.blocks.map fun (c : Block) => if c.id = b.id then c.advance die else c }.pushUnit core { u with wSince := s.now }) s

/-! ### Queues and transit (R297, R302, R304, R307) -/

/-- SPILL_RETURN (R297): the oldest spilled unit of the core. -/
def execSpillReturn (s : State) : Host.Outcome State Fault Refusal :=
  let core := s.cur.core
  match s.spills.find? fun e => decide (e.2.1 = core) with
  | none => .next s
  | some e =>
    event (decide (s.myCore.ready.length < 64) && s.clusterOn core)
      (fun s => { s with spills := s.spills.erase e }.modCore core fun k => { k with ready := k.ready ++ [e.2.2] }) s

/-- A movable unit (R302). -/
def WorkUnit.movable (u : WorkUnit) : Bool := !u.isStep && !u.aff && !u.hasRun && u.saved.isNone

/-- The mesh neighbours of a core, ascending (R9). -/
def neighbours (core : Nat) : List Nat :=
  (if 16 ≤ core then [core - 16] else []) ++ (if core % 16 ≠ 0 then [core - 1] else [])
    ++ (if core % 16 ≠ 15 then [core + 1] else []) ++ (if core < 240 then [core + 16] else [])

/-- The units that a core's free contexts choose in this cycle, context 1 first (R299). -/
def State.takenNow (s : State) (core : Nat) : List WorkUnit :=
  if !s.takesWork core then [] else
  let pick (t : State) (x : Nat) : Option WorkUnit := if (t.ctx core x).state = .free then t.choose core x else none
  match pick s 1 with
  | none => (pick s 0).toList
  | some u => u :: (pick (s.unqueue core u) 0).toList

/-- The unit that a core sends first: of its highest e the latest stamp, the last one pushed where stamps agree; one that the core
dispatches in this cycle does not move. -/
def State.sendNext (s : State) (core : Nat) (taken : List WorkUnit) : Option WorkUnit :=
  ((s.core core).ready.filter fun u => u.movable && !taken.contains u).foldl (fun b u =>
    match b with
    | none => some u
    | some v => if v.eff s.now < u.eff s.now ∨ (v.eff s.now = u.eff s.now ∧ v.stamp ≤ u.stamp) then some u else some v) none

/-- n units sent to a neighbour. -/
def State.sendUnits (s : State) (core dest : Nat) (taken : List WorkUnit) : Nat → State
  | 0 => s
  | n + 1 =>
    match s.sendNext core taken with
    | none => s
    | some u =>
      ((s.modCore core fun k => { k with ready := eraseUnit u k.ready }).sendUnit core dest u).sendUnits core dest taken n

/-- NEIGHBOUR_AVERAGING (R302): all cores decide on the counts of this cycle, before its dispatches. -/
def execNeighbourAveraging (s : State) : Host.Outcome State Fault Refusal :=
  event (decide (s.now % Config.averagePeriod = 0)) (fun s =>
    let counts := ((s.cores.filter fun c => s.clusterOn c.1).map fun c => (c.1, (c.2.ready.filter WorkUnit.movable).length))
    let count (c : Nat) : Nat := lookupD 0 counts c
    counts.foldl (fun s c =>
      let taken := s.takenNow c.1
      (neighbours c.1).foldl (fun s n =>
        let d := c.2 - count n
        if 2 ≤ d then s.sendUnits c.1 n taken (min (d / 4) 4) else s) s) s) s

/-- WORK_UNIT_ARRIVAL (R302, R307). -/
def execWorkUnitArrival (s : State) : Host.Outcome State Fault Refusal :=
  match s.transits.find? fun t => decide (t.id = s.cur.id) with
  | none => .next s
  | some t =>
    event (decide (t.due ≤ s.now) && s.pushRoom t.core && s.clusterOn t.core)
      (fun s => { s with transits := s.transits.filter fun v => decide (v.id ≠ t.id) }.pushUnit t.core t.unit) s

/-- JOIN_COUNTER_DECREMENT (R304). -/
def execJoinCounterDecrement (s : State) : Host.Outcome State Fault Refusal :=
  match s.decs.find? fun d => decide (d.id = s.cur.id) with
  | none => .next s
  | some d =>
    event (decide (d.due ≤ s.now))
      (fun s => { s with decs := s.decs.filter fun e => decide (e.id ≠ d.id) }.decrement d.addr d.f d.k) s

end Sys2Proof.Machine
end

