-- ==== Sys2Proof/Machine/PowerEvents.lean ====
section
/-!
DEFINITION. Clocks, power and retention (spec/29 R355, R358 to R362; spec/25 R335, R336): cadence writes, the power monitor,
alerts, supply droops, and the retention and gating of clusters.
-/

namespace Sys2Proof.Machine

/-! ### Cadence and power (R358 to R360) -/

/-- MXCAD_WRITE (R358): a value from 1 to 16; while the hold of R359 lasts, one lower than the backstop's 16 is ignored. -/
def execMxcadWrite (core value : Nat) (s : State) : Host.Outcome State Fault Refusal :=
  event (decide (core < 256 ∧ 1 ≤ value ∧ value ≤ 16) && !((s.core core).cadHold.isSome && decide (value < 16)))
    (fun s => s.modCore core fun k => { k with mxcad := BitVec.ofNat 5 value }) s

/-- The average over the last 10 ms, as the sum of its ten averages over 1 ms, reaches the envelope (R19, R359). -/
def State.overEnvelope (s : State) : Bool :=
  decide (s.supply.length = 91 ∧ 10 * Config.envelopeMilliwatts ≤ (upTo 10).foldl (fun a i => a + s.supply.getD (10 * i) 0) 0)

/-- A junction sensor has reached its limit (R359). -/
def State.overheated (s : State) : Bool :=
  (upTo 4).any fun d => (upTo 16).any fun i => decide (Config.junctionLimit ≤ Config.junction s.now d i)

/-- POWER_MONITOR_REPORT (R359): the management core is told the average of the last 1 ms; the backstop acts where that of the last
10 ms has reached the envelope. -/
def execPowerMonitorReport (milliwatts : Nat) (s : State) : Host.Outcome State Fault Refusal :=
  let t := { s with supply := (milliwatts :: s.supply).take 91 }.notify (.power milliwatts)
  .next (if t.overEnvelope then { t with agenda := .event .powerBackstop 0 0 0 0 0 :: t.agenda } else t)

/-- POWER_BACKSTOP (R19, R359): at a limit of power or temperature MXCAD := 16 in every core, held for 1 ms. -/
def execPowerBackstop (s : State) : Host.Outcome State Fault Refusal :=
  event (s.overEnvelope || s.overheated) (fun s => (upTo 256).foldl (fun s c => s.modCore c fun k =>
    { k with mxcad := 16, cadHold := some (s.now + Config.millisecond) }) s) s

/-- BACKSTOP_HOLD_END (R359). -/
def execBackstopHoldEnd (core : Nat) (s : State) : Host.Outcome State Fault Refusal :=
  event (match (s.core core).cadHold with
      | some e => decide (e ≤ s.now)
      | none => false)
    (fun s => s.modCore core fun k => { k with cadHold := none }) s

/-- What a sensor's reading says of a threshold that it has crossed since the last cycle (R360): true where it has risen to it. -/
def State.crossing (s : State) (die sensor threshold : Nat) : Option Bool :=
  let was := decide (threshold ≤ Config.junction (s.now - 1) die sensor)
  let is := decide (threshold ≤ Config.junction s.now die sensor)
  if was = is then none else some is

/-- THERMAL_ALERT (R360): one of the 16 sensors of a die crosses 95 or 100 degrees; the device raises it where its sensors' readings do
(`State.crossing`). -/
def execThermalAlert (die sensor threshold : Nat) (upward : Bool) (s : State) : Host.Outcome State Fault Refusal :=
  event (decide (die < 4 ∧ sensor < 16 ∧ (threshold = 95 ∨ threshold = 100))) (fun s => s.notify (.thermal die sensor threshold upward)) s

/-- SUPPLY_DROOP (R355): in elastic mode the next cycle of a domain is stretched; whether the stretch makes it lose a reference cycle
against the other domains is open. -/
def execSupplyDroop (core domain : Nat) (s : State) : Host.Outcome State Fault Refusal :=
  event (!(s.core core).pinned && decide (core < 256 ∧ domain < 4)) (fun s =>
    { s.modCore core fun k => if Config.choice s.freeN then { k with droops := k.droops ||| BitVec.ofNat 4 (2 ^ domain) } else k
      with freeN := s.freeN + 1 }) s

/-! ### Retention (R335, R336, R361) -/

/-- The cores of a cluster, ascending. -/
def coresOf (cluster : Nat) : List Nat := (upTo 256).filter fun c => decide (clusterOf c = cluster)

def State.setPower (s : State) (cluster : Nat) (p : Power) : State := { s with powers := insertKey s.powers cluster p }

/-- The contexts of a cluster that run, are halted or are about to run stop as at a pre-emption (R324, R361); one whose area is still
being read has no state in the cluster yet, and is restored after the exit. -/
def State.stopCluster (s : State) (cluster : Nat) : State :=
  (coresOf cluster).foldl (fun s c => [0, 1].foldl (fun s x =>
    let k := s.ctx c x
    if k.running || (decide (k.state = .halted) && k.unit.isSome) || k.aboutToStart then
      (s.stopCommands c x).modCtx c x fun k => { k with state := .retained (decide (k.state = .halted)) }
    else s) s) s

/-- A context has nothing more to land before the clocks stop. -/
def State.ctxQuiet (s : State) (core x : Nat) : Bool :=
  match (s.ctx core x).state with
  | .running => false
  | .halted => false
  | .stopping _ _ _ => false
  | .ending _ _ _ _ => false
  | .retained _ => s.landed core x
  | _ => true

/-- RETENTION_ENTRY (R361): the contexts of the cluster stop; once their results have landed, the clocks stop. -/
def execRetentionEntry (cluster : Nat) (s : State) : Host.Outcome State Fault Refusal :=
  event (decide (s.powerOf cluster = .on ∨ s.powerOf cluster = .entering)) (fun s =>
    let t := s.stopCluster cluster
    let quiet := (coresOf cluster).all fun c => t.ctxQuiet c 0 && t.ctxQuiet c 1
    t.setPower cluster (if quiet then .retained else .entering)) s

/-- A context of an exiting cluster runs on, or is saved where system software has pre-empted it in retention; a parity failure is
posted to it (R335). -/
def State.wakeContext (s : State) (core x : Nat) (lost : BitVec 6) : State :=
  let post (s : State) : State := if lost = 0#6 then s else s.postFault core x causeRETENTION 7 (zext64 lost)
  match (s.ctx core x).state with
  | .retained h => post (s.modCtx core x fun k => { k with state := if h then .halted else .starting s.now })
  | .stopping _ _ _ => post s
  | _ => s

/-- RETENTION_EXIT (R361): the exit is complete; `parity` names the structures that failed, by core and context. -/
def execRetentionExit (cluster : Nat) (parity : List (Nat × Nat × BitVec 6)) (s : State) : Host.Outcome State Fault Refusal :=
  event (match s.powerOf cluster with
      | .exiting due => decide (due ≤ s.now)
      | _ => false)
    (fun s => (coresOf cluster).foldl (fun s c => [0, 1].foldl (fun s x =>
      s.wakeContext c x (((parity.find? fun p => decide (p.1 = c ∧ p.2.1 = x)).map fun p => p.2.2).getD 0)) s)
      (s.setPower cluster .on)) s

/-- A command reaches a core; a cluster in retention begins its exit (R361; log entry 32). -/
def State.reachCluster (s : State) (core : Nat) : State :=
  if s.powerOf (clusterOf core) = .retained then
    { s.setPower (clusterOf core) (.exiting s.later) with freeN := s.freeN + 1 }
  else s

/-! ### Gating (R362) -/

/-- A cluster may be gated: no context bound, no unit queued on chip, no parked copy. -/
def State.gateable (s : State) (cluster : Nat) : Bool :=
  (coresOf cluster).all fun c =>
    (s.ctx c 0).unit.isNone && (s.ctx c 1).unit.isNone && (s.core c).ready.isEmpty && (s.core c).cmds.isEmpty

/-- A request of a core enters a place by a cluster (R144, R362). -/
def entersCluster (core cluster : Nat) (r : Region) : Bool := (entryCore core r).any fun c => decide (clusterOf c = cluster)

def Access.enters (a : Access) (cluster : Nat) : Bool := a.runs.any fun r => entersCluster a.core cluster r.1

def CopyBlock.enters (b : CopyBlock) (core cluster : Nat) : Bool :=
  match b.data with
  | none => entersCluster core cluster b.src.1
  | some _ => b.dsts.any fun d => entersCluster core cluster d.1

/-- The cluster's mesh in-flight counter: accesses, records and copy blocks on their way to it. -/
def State.flying (s : State) (cluster : Nat) : Nat :=
  (s.accs.filter fun a => !a.done && a.enters cluster).length
    + (s.transits.filter fun t => decide (clusterOf t.core = cluster)).length
    + s.cores.foldl (fun n c => n + (c.2.blocks.filter fun b => b.enters c.1 cluster).length) 0

/-- Something reaches a cluster now: an access, a copy block, a record in transit, a walker's step, a spilled unit, a released
continuation, the first record of a START (R295, R361, R362). -/
def State.reachedNow (s : State) (cluster : Nat) : Bool :=
  let here (c : Nat) : Bool := decide (clusterOf c = cluster)
  (s.accs.any fun a => !a.done && decide (a.due ≤ s.now) && a.enters cluster)
    || (s.cores.any fun c => c.2.blocks.any fun b => decide (b.due ≤ s.now) && b.enters c.1 cluster)
    || (s.transits.any fun t => decide (t.due ≤ s.now) && here t.core)
    || (s.spills.any fun e => here e.2.1)
    || (here 0 && (match s.cmdRun with | some (due, .start) => decide (due ≤ s.now) | _ => false))
    || (s.blocks.any fun b => b.dies.any fun d => match b.nextStep d.1 with
      | some n => here n.2
      | none => false)
    || s.decs.any fun d => decide (d.due ≤ s.now)
      && (let w := s.word (poolPlace d.addr).1 (poolPlace d.addr).2 8
          (s.conts.find? fun c => decide (c.die = d.addr / 67108864 ∧ c.index = w / 2 ^ 40)).any fun c => here c.core)

/-- CLUSTER_GATE (R362): gating commits in the first cycle in which the counter reads zero; an arrival before it cancels. -/
def execClusterGate (cluster : Nat) (s : State) : Host.Outcome State Fault Refusal :=
  let next : Power := if s.flying cluster = 0 then .gated else .gating
  match s.powerOf cluster with
  | .on => event (s.gateable cluster) (fun s => s.setPower cluster next) s
  | .gating => .next (s.setPower cluster (if !s.gateable cluster ∨ s.reachedNow cluster then .on else next))
  | _ => .next s

/-- The stores and registers of a core cleared by a wake; the generations stay with the scheduler (R332). -/
def State.clearCore (s : State) (core : Nat) : State :=
  let mine (r : Region) (c : Host.Cell) : Bool := decide (c.1 / 18446744073709551616 = r.index)
  let s1 := { s with mem := s.mem.filter fun c => !(mine (.scratch core) c || mine (.acc core) c || mine (.fe core) c) }
  let s2 := s1.setCore core { Core.reset with cadHold := (s.core core).cadHold }
  [0, 1].foldl (fun s x =>
    let k := s.ctx core x
    s.setCtx core x { Ctx.reset with gen := k.gen, slotGen := k.slotGen, ranSince := s.now, nextStrand := k.nextStrand }) s2

/-- CLUSTER_WAKE (R362). -/
def execClusterWake (cluster : Nat) (s : State) : Host.Outcome State Fault Refusal :=
  event (match s.powerOf cluster with
      | .waking due => decide (due ≤ s.now)
      | _ => false)
    (fun s => (coresOf cluster).foldl State.clearCore (s.setPower cluster .on)) s

/-- Clusters in retention or gated that something has reached begin their exit or their wake. -/
def State.rouse (s : State) : State :=
  s.powers.foldl (fun s p =>
    if !s.reachedNow p.1 then s
    else match p.2 with
      | .retained => { s.setPower p.1 (.exiting s.later) with freeN := s.freeN + 1 }
      | .gated => { s.setPower p.1 (.waking s.later) with freeN := s.freeN + 1 }
      | _ => s) s

end Sys2Proof.Machine
end

