-- ==== Sys2Proof/Machine/Loader.lean ====
section
/-!
DEFINITION. The loader and the launch configuration (spec/05 R81 to R83, spec/13 R185 and R186, spec/19 R242, spec/23 R295 and
R296, spec/31 R367 and R368): LOAD_IMAGE, CONFIG and START.
-/

namespace Sys2Proof.Machine

/-! ### Results of commands (R364, R367) -/

/-- A command is over: its code and result stand in CMDSTAT. -/
def State.result (s : State) (code r : Nat) : State :=
  { s with cmdRun := none, cmdCode := BitVec.ofNat 8 code, cmdResult := BitVec.ofNat 8 r }

/-! ### The check code (R81) -/

/-- n bits of CRC-32C, least significant first. -/
def crcBits : (n c : Nat) → Nat
  | 0, c => c
  | n + 1, c => crcBits n (if c % 2 = 1 then Nat.xor (c / 2) 0x82F63B78 else c / 2)

/-- CRC-32C. -/
def crc32c (bs : List Byte) : Nat :=
  Nat.xor (bs.foldl (fun c b => crcBits 8 (Nat.xor c b.toNat)) 0xFFFFFFFF) 0xFFFFFFFF

/-! ### The image (R81 to R83) -/

/-- A buffer table entry (R82). -/
structure BufferEntry where
  size : Nat
  init : Nat
  initLen : Nat
  pgsz : Nat
  flags : Nat
  name : Nat
  /-- bytes 22 and 23, and 28 to 31 -/
  rsv : Nat × Nat
  deriving DecidableEq, Repr

/-- INIT of a buffer without initial contents. -/
def noInit : Nat := 0xFFFFFFFFFFFFFFFF

def bufferEntry (bs : List Byte) (o : Nat) : BufferEntry :=
  { size := entryField bs o 8, init := entryField bs (o + 8) 8, initLen := entryField bs (o + 16) 4, pgsz := entryField bs (o + 20) 1,
    flags := entryField bs (o + 21) 1, name := entryField bs (o + 24) 4, rsv := (entryField bs (o + 22) 2, entryField bs (o + 28) 4) }

/-- The buffer table. -/
def imageBuffers (bs : List Byte) : List BufferEntry :=
  (upTo (entryField bs 0x30 4)).map fun i => bufferEntry bs (entryField bs 0x28 8 + 32 * i)

/-- An offset and a size run outside n bytes, or a count is outside its range. -/
def rangeBroken (bs : List Byte) (n : Nat) : Bool :=
  let g := entryField bs
  decide (1024 < g 0x30 4 ∨ n < g 0x10 8 + g 0x18 8 ∨ n < g 0x28 8 + 32 * g 0x30 4 ∨ n < g 0x38 8 + g 0x40 8
      ∨ n < g 0x48 8 + g 0x50 8)
    || (imageBuffers bs).any fun b => decide (b.size < b.initLen ∨ n < g 0x48 8 + b.name
      ∨ (b.init ≠ noInit ∧ n < g 0x38 8 + b.init + b.initLen))

/-- An alignment of R81 or R82 is broken, or a size is zero that must not be. -/
def alignBroken (bs : List Byte) : Bool :=
  let g := entryField bs
  decide (g 0x10 8 % 8 ≠ 0 ∨ g 0x18 8 % 8 ≠ 0 ∨ g 0x18 8 = 0 ∨ g 0x20 8 % 8 ≠ 0 ∨ g 0x28 8 % 8 ≠ 0)
    || (imageBuffers bs).any fun b => decide (b.size = 0 ∨ (b.pgsz ≤ 3 ∧ b.size % pageSize b.pgsz ≠ 0))

/-- A reserved field is nonzero, or a reserved code stands in a field. -/
def reservedBroken (bs : List Byte) : Bool :=
  let g := entryField bs
  decide (g 0x34 4 / 2 ≠ 0 ∨ g 0x5C 36 ≠ 0)
    || (imageBuffers bs).any fun b => decide (3 < b.pgsz ∨ b.flags / 2 ≠ 0 ∨ b.rsv ≠ (0, 0))

/-- The refusal of the loader for the bytes of an image, 0 for none (R83, R367). -/
def imageRefusal (bs : List Byte) : Nat :=
  let g := entryField bs
  let n := g 8 8
  if g 0 4 ≠ 0x4B575A4F ∨ g 4 2 ≠ 1 ∨ g 6 2 ≠ 128 then 1
  else if n < 128 ∨ bs.length < n then 3
  else if crc32c (bs.take 0x58 ++ List.replicate 4 0#8 ++ (bs.take n).drop 0x5C) ≠ g 0x58 4 then 2
  else if rangeBroken bs n then 3
  else if alignBroken bs then 4
  else if reservedBroken bs then 5
  else if g 0x18 8 ≤ g 0x20 8 then 6
  else 0

/-! ### Places (R83) -/

/-- n bytes at a meet none of the runs taken. -/
def clearOf (taken : List (Nat × Nat)) (a n : Nat) : Bool := taken.all fun t => decide (t.2 = 0 ∨ a + n ≤ t.1 ∨ t.1 + t.2 ≤ a)

/-- A place for n bytes below a limit: the one hinted at where it is clear, else the first clear one after a run taken. -/
def findPlace (taken : List (Nat × Nat)) (limit align' n hint : Nat) : Option Nat :=
  (((hint % limit) :: 0 :: taken.map fun t => t.1 + t.2).map fun a => roundUp a align').find? fun a =>
    decide (a + n ≤ limit) && clearOf taken a n

/-- Tables and pages of the page table below a table that maps addresses from va on (R242). -/
def State.mappedFrom (s : State) : (level table va : Nat) → List Nat × List PageMap
  | 0, t, va => ([t], (upTo 512).filterMap fun i =>
      match readEntry (s.word .dev (t + 8 * i) 8) 0 (va + i * 4096) with
      | .page m => some m
      | _ => none)
  | l + 1, t, va =>
    let sub := (upTo 512).map fun i =>
      match readEntry (s.word .dev (t + 8 * i) 8) (l + 1) (va + i * 2 ^ (12 + 9 * (l + 1))) with
      | .table u => s.mappedFrom l u (va + i * 2 ^ (12 + 9 * (l + 1)))
      | .page m => ([], [m])
      | .bad => ([], [])
    (t :: sub.flatMap (·.1), sub.flatMap (·.2))

/-- The regions that a launch configuration names (R296): base and size, empty ones left out. -/
def Launch.regions (c : Launch) : List (Nat × Nat) :=
  ((c.asroot, if c.asroot = 0 then 0 else 4096) :: (c.fqbase, 131072) :: (c.frbase, 64 * c.frcap)
    :: c.dies.flatMap fun d => [(d.spbase, 128 * d.spcap), (d.csbase, 64 * d.cscap), (d.btbase, 32768), (d.svbase, d.svsize)]).filter
    fun r => decide (r.2 ≠ 0)

/-- What the loader works on: the machine, and what is taken of device memory and of virtual addresses. -/
structure Loader where
  s : State
  phys : List (Nat × Nat)
  virt : List (Nat × Nat)
  deriving DecidableEq, Repr

def State.loader (s : State) (c : Launch) : Loader :=
  let (ts, ps) := s.mappedFrom 4 c.asroot 0
  { s := s
    phys := c.regions ++ s.allocated ++ ts.map (fun t => (t, 4096))
      ++ (ps.filter fun p => decide (p.home = 0)).map fun p => (p.pbase, p.size)
    virt := s.codes ++ ps.map fun p => (p.vbase, p.size) }

/-- n bytes of device memory. -/
def Loader.takeMemory (l : Loader) (align' n : Nat) : Option (Nat × Loader) :=
  (findPlace l.phys deviceLimit align' n (Config.placeBase l.s.freeN)).map fun a =>
    (a, { l with phys := l.phys ++ [(a, n)]
                 s := { l.s with freeN := l.s.freeN + 1, allocated := l.s.allocated ++ [(a, n)] } })

/-- n bytes of virtual addresses. -/
def Loader.takeVirtual (l : Loader) (align' n : Nat) : Option (Nat × Loader) :=
  (findPlace l.virt (2 ^ 56) align' n (Config.placeBase l.s.freeN)).map fun a =>
    (a, { l with virt := l.virt ++ [(a, n)], s := { l.s with freeN := l.s.freeN + 1 } })

/-- A run of device memory set to zero, its blocks recoded (R247): a block of zeros fits. -/
def State.zeroDevice (s : State) (a n : Nat) : State :=
  let gone (r : Region) (lo m : Nat) (c : Host.Cell) : Bool := decide (cellKey r lo ≤ c.1 ∧ c.1 < cellKey r lo + m)
  { s with mem := s.mem.filter fun c => !(gone .dev a n c || gone .bxr (a / 64) (ceilDiv n 64) c) }

/-- Entries that describe one page at the level of its leaf (R242). -/
def leafEntries (pgsz : Nat) : Nat :=
  match pgsz with
  | 1 => 16
  | 3 => 32
  | _ => 1

/-- The entries of a page written into their table, all alike. -/
def State.putLeaf (s : State) (table va level pgsz pte : Nat) : State :=
  let n := leafEntries pgsz
  let i := va / 2 ^ (12 + 9 * level) % 512 / n * n
  s.devPut (table + 8 * i) ((List.replicate n (toBytes 8 pte)).flatten)

/-- A page mapped below a table at a level; a table that the walk does not find is allocated (R83). -/
def Loader.map (va pgsz pte : Nat) : (level table : Nat) → Loader → Option Loader
  | 0, t, l => some { l with s := l.s.putLeaf t va 0 pgsz pte }
  | n + 1, t, l =>
    if n = 0 ∧ 2 ≤ pgsz then some { l with s := l.s.putLeaf t va 1 pgsz pte }
    else
      let at' := t + va / 2 ^ (12 + 9 * (n + 1)) % 512 * 8
      match readEntry (l.s.word .dev at' 8) (n + 1) va with
      | .table u => Loader.map va pgsz pte n u l
      | _ => (l.takeMemory 4096 4096).bind fun (u, l1) =>
        Loader.map va pgsz pte n u { l1 with s := (l1.s.zeroDevice u 4096).devPut at' (toBytes 8 (2 ^ 63 + u)) }

/-- A leaf entry of device memory. -/
def leafWord (pgsz pa : Nat) (comp w r : Bool) : Nat :=
  2 ^ 63 + 2 ^ 62 + pgsz * 2 ^ 60 + pa + (if comp then 4 else 0) + (if w then 2 else 0) + (if r then 1 else 0)

/-- n pages mapped from va to pa. -/
def Loader.mapRun (root pgsz : Nat) (comp w : Bool) : (n va pa : Nat) → Loader → Option Loader
  | 0, _, _, l => some l
  | n + 1, va, pa, l =>
    (Loader.map va pgsz (leafWord pgsz pa comp w true) 4 root l).bind
      (Loader.mapRun root pgsz comp w n (va + pageSize pgsz) (pa + pageSize pgsz))

/-- A run of device memory placed, filled and mapped: its virtual and physical base. -/
def Loader.place (l : Loader) (root pgsz size : Nat) (comp w : Bool) (bs : List Byte) : Option ((Nat × Nat) × Loader) :=
  (l.takeMemory (pageSize pgsz) size).bind fun (pa, l1) =>
    (l1.takeVirtual (pageSize pgsz) size).bind fun (va, l2) =>
      (Loader.mapRun root pgsz comp w (size / pageSize pgsz) va pa { l2 with s := (l2.s.zeroDevice pa size).devPut pa bs }).map
        fun l3 => ((va, pa), l3)

/-- The initial contents of a buffer: none with INIT none, whatever INITLEN (R82; log entry 36). -/
def initBytes (bs : List Byte) (b : BufferEntry) : List Byte :=
  if b.init = noInit then [] else (bs.drop (entryField bs 0x38 8 + b.init)).take b.initLen

/-- The buffers placed in order: virtual and physical base and size of each. -/
def Loader.placeBuffers (root : Nat) (bs : List Byte) : List BufferEntry → Loader → Option (List (Nat × Nat × Nat) × Loader)
  | [], l => some ([], l)
  | b :: r, l =>
    (l.place root b.pgsz b.size (decide (b.flags % 2 = 1)) true (initBytes bs b)).bind fun (p, l1) =>
      (Loader.placeBuffers root bs r l1).map fun (ps, l2) => ((p.1, p.2, b.size) :: ps, l2)

/-! ### The default tables (R186) -/

/-- LO, INVW, BELOW and ABOVE of a default table. -/
def tableHead (t : Nat) : List Nat :=
  ([[0xC1800000, 0x40800000, 0, 0x3F800000], [0x3F800000, 0x42800000, 0x7FC00000, 0x3F800000],
    [0x3F800000, 0x42800000, 0x7FC00000, 0x3F000000], [0x3F800000, 0x41AAAAAB, 0x7FC00000, 0x3F000000],
    [0xC1000000, 0x40800000, 0, 0x3F800000], [0xC0800000, 0x41000000, 0xBF800000, 0x3F800000],
    [0xC0800000, 0x41000000, 0xBF800000, 0x3F800000], [0, 0x42800000, 0x7FC00000, 0]] : List (List Nat)).getD t []

/-- Word w of default table t: the coefficients are part of the firmware, the reserved words zero (R185). -/
def tableWordAt (t w : Nat) : Nat :=
  if w < 4 then (tableHead t).getD w 0 else if w % 4 = 3 then 0 else (Config.tableWord t w).toNat

/-- The 64 KiB region of the first record (R295, R186). -/
def regionBytes (bases : List Nat) : List Byte :=
  padTo 0x2000 (bases.flatMap (toBytes 8)) ++ (upTo 8).flatMap fun t => (upTo 260).flatMap fun w => toBytes 4 (tableWordAt t w)

/-! ### LOAD_IMAGE -/

/-- The image placed and mapped; none where device memory does not suffice (R83, R295). -/
def State.placeImage (s : State) (c : Launch) (bs : List Byte) : Option State :=
  let g := entryField bs
  (Loader.placeBuffers c.asroot bs (imageBuffers bs) (s.loader c)).bind fun (ps, l1) =>
    (l1.place c.asroot 1 65536 false false (regionBytes (ps.map (·.1)))).bind fun (r, l2) =>
      (l2.takeVirtual 8 (g 0x18 8)).map fun (cb, l3) =>
        { l3.s.putBytes .code cb ((bs.drop (g 0x10 8)).take (g 0x18 8)) with
          codes := l3.s.codes ++ [(cb, g 0x18 8)]
          image := some { entry := BitVec.ofNat 64 (cb + g 0x20 8), buffers := ps, region := (r.2, r.1) } }

/-- LOAD_IMAGE (R83, R368). Default tables that the firmware has refused are placed nowhere (R186, R372). While a pseudo-channel is being
retired the command stays busy, since requests of its may be held (R240). -/
def execLoadImage (host size : Nat) (s : State) : Host.Outcome State Fault Refusal :=
  match s.launch with
  | none => .next (s.result 1 0x10)
  | some c =>
    if c.asroot = 0 then .next (s.result 1 0x10)
    else if s.retiring ≠ [] then .next s
    else
      let bs := s.bytes .host host size
      let r := imageRefusal bs
      if r ≠ 0 then .next (s.result 1 r)
      else if !s.tables then .next (s.result 1 0x11)
      else match s.placeImage c bs with
        | none => .next (s.result 1 7)
        | some t => .next (t.result 1 0)

/-! ### CONFIG (R295, R296) -/

/-- The launch configuration that 9,472 bytes hold. -/
def launchOf (bs : List Byte) : Launch :=
  let g := entryField bs
  { asroot := g 0x10 8
    fqbase := g 0x18 8
    frbase := g 0x20 8
    frcap := g 0x28 4
    dies := (upTo 4).map fun d =>
      let o := 0x40 + 64 * d
      { spbase := g o 8, spcap := g (o + 8) 4, cscap := g (o + 12) 4, csbase := g (o + 16) 8, btbase := g (o + 24) 8,
        svbase := g (o + 32) 8, svsize := g (o + 40) 8 }
    peers := (upTo 15).map fun t => (upTo 8).map fun i => BitVec.ofNat 64 (g (0x140 + 64 * t + 8 * i) 8)
    windows := (upTo 512).map fun i =>
      let o := 0x500 + 16 * i
      (g o 4, g (o + 4) 4, g (o + 8) 4, g (o + 12) 4) }

/-- A die record's alignments and ranges. -/
def DieConfig.ok (d : DieConfig) : Bool :=
  decide (d.spbase % 4096 = 0 ∧ 64 ≤ d.spcap ∧ d.spcap ≤ 16777216 ∧ 1 ≤ d.cscap ∧ d.cscap ≤ 16777216 ∧ d.csbase % 64 = 0
    ∧ d.btbase % 4096 = 0 ∧ d.svbase % 4096 = 0 ∧ d.svsize % 4096 = 0)

/-- A context's windows keep the constraints of R120. -/
def windowOk (w : Nat × Nat × Nat × Nat) : Bool :=
  decide (w.1 % 64 = 0 ∧ w.1 < 2097152 ∧ w.1 ≤ w.2.1 ∧ w.2.1 ≤ 2097152 ∧ w.2.2.1 % 512 = 0 ∧ w.2.2.2 % 512 = 0
    ∧ w.2.2.1 ≤ w.2.2.2 ∧ w.2.2.2 ≤ 3145728)

/-- The windows of the two contexts of a core are disjoint; an empty one overlaps nothing. -/
def windowsApart (v w : Nat × Nat × Nat × Nat) : Bool :=
  (decide (w.1 = w.2.1) || clearOf [(v.1, v.2.1 - v.1)] w.1 (w.2.1 - w.1))
    && (decide (w.2.2.1 = w.2.2.2) || clearOf [(v.2.2.1, v.2.2.2 - v.2.2.1)] w.2.2.1 (w.2.2.2 - w.2.2.1))

/-- Regions that do not meet each other. -/
def apart : List (Nat × Nat) → Bool
  | [] => true
  | r :: rest => clearOf rest r.1 r.2 && apart rest

/-- A well-formed launch configuration (R296). -/
def configOk (bs : List Byte) : Bool :=
  let g := entryField bs
  let c := launchOf bs
  decide (g 0 4 = 0x47464E43 ∧ g 4 2 = 1 ∧ g 6 2 = 0 ∧ g 8 8 = 9472 ∧ g 0x2C 20 = 0)
    && ((upTo 4).all fun d => decide (g (0x40 + 64 * d + 0x30) 16 = 0))
    && (c.peers.all fun t => t.all fun w => decide (field w 51 12 = 0#12))
    && decide (c.asroot % 4096 = 0 ∧ c.fqbase % 4096 = 0 ∧ c.frbase % 64 = 0 ∧ 1 ≤ c.frcap ∧ c.frcap ≤ 1048576)
    && c.dies.all DieConfig.ok
    && c.windows.all windowOk
    && ((upTo 256).all fun i => windowsApart (c.windows.getD (2 * i) (0, 0, 0, 0)) (c.windows.getD (2 * i + 1) (0, 0, 0, 0)))
    && apart c.regions
    && c.regions.all fun r => decide (r.1 + r.2 ≤ deviceLimit)

/-- Before the first START, with no work unit bound or queued, nor one on its way to a queue (R296). -/
def State.noWork (s : State) : Bool :=
  !s.started && (s.ctxs.all fun k => k.2.unit.isNone) && (s.cores.all fun k => k.2.ready.isEmpty) && s.spills.isEmpty
    && s.transits.isEmpty

/-- CONFIG (R296). -/
def execConfig (host : Nat) (s : State) : Host.Outcome State Fault Refusal :=
  let bs := s.bytes .host host 9472
  if s.noWork && configOk bs then
    .next ({ s with launch := some (launchOf bs), fqprod := 0, fqcons := 0, frprod := 0, frcons := 0 }.result 2 0)
  else .next (s.result 2 0x10)

/-! ### START (R295) -/

/-- The first record of a launch: TENSOR, PRIO 0, AFF 1, KILL, JV 0. -/
def firstUnit (entry : W64) : WorkUnit :=
  { unitOfRecord (word8 entry ++ toBytes 8 0 ++ toBytes 8 (2 ^ 34) ++ List.replicate 40 0#8) with first := true }

/-- START: the first record enters the queue of core 0; with that queue full, or while the core's cluster wakes (R361, R362), the command
stays busy. -/
def execStart (s : State) : Host.Outcome State Fault Refusal :=
  match s.image, s.launch with
  | some im, some _ =>
    if s.pushRoom 0 && s.clusterOn 0 then
      let (id, t) := s.newTaskid 0
      .next (({ t with started := true }.pushUnit 0 { firstUnit im.entry with taskid := id, wSince := s.now }).result 3 0)
    else .next s
  | _, _ => .next (s.result 3 0x10)

end Sys2Proof.Machine
end

