-- ==== Sys2Proof/Machine/Host.lean ====
section
/-!
DEFINITION. The host's side of the device (spec/31 R363 to R374; spec/25 R320, R327, R332; spec/19 R240, R245): ownership, the
control block, the commands that act on units, pages and camp cores, host accesses, links, retirements and resets.
-/

namespace Sys2Proof.Machine

/-! ### Ownership (R364 to R366) -/

/-- The priority that stands for a master's next claim. -/
def State.priorityOf (s : State) (m : BitVec 8) : BitVec 8 := ((s.claimPri.find? fun p => decide (p.1 = m)).map (·.2)).getD 0

/-- A claim: the latest of each master counts, and the first opens the window (R365). -/
def State.claim (s : State) (m : BitVec 8) (nonce : W64) : State :=
  if s.owner.isSome then s
  else { s with
    claims := (s.claims.filter fun c => decide (c.1 ≠ m)) ++ [(m, s.priorityOf m, nonce)]
    election := some (s.election.getD (s.now + Config.millisecond)) }

/-- A master's priority for its next claim (R365). -/
def State.claimPriority (s : State) (m : BitVec 8) (pri : W64) : State :=
  if s.owner.isSome then s
  else { s with claimPri := (s.claimPri.filter fun c => decide (c.1 ≠ m)) ++ [(m, field pri 0 8)] }

/-- The claim that wins: the highest priority, and of equal ones the lowest master ID. -/
def winner : List (BitVec 8 × BitVec 8 × W64) → Option (BitVec 8 × BitVec 8 × W64)
  | [] => none
  | c :: r =>
    match winner r with
    | none => some c
    | some w => if w.2.1 < c.2.1 ∨ (w.2.1 = c.2.1 ∧ c.1 < w.1) then some c else some w

/-- The owner hands over: a successor that is present owns at once (R366). -/
def State.handOver (s : State) (m successor : BitVec 8) : State :=
  if s.owner = some m then
    { s with owner := if successor ≠ 0xFF#8 ∧ Config.masterPresent successor.toNat then some successor else none }
  else s

/-- CLAIM (R365). -/
def execClaim (master : BitVec 8) (nonce : BitVec 64) (s : State) : Host.Outcome State Fault Refusal := .next (s.claim master nonce)

/-- CLAIMPRI (R365). -/
def execClaimpri (master : BitVec 8) (pri : BitVec 64) (s : State) : Host.Outcome State Fault Refusal := .next (s.claimPriority master pri)

/-- ELECTION_WINDOW_END (R365). -/
def execElectionWindowEnd (s : State) : Host.Outcome State Fault Refusal :=
  match s.election with
  | none => .next s
  | some e =>
    if s.now < e then .next s
    else match winner s.claims with
      | none => .next { s with election := none }
      | some w => .next { s with election := none, claims := [], owner := some w.1, nonce := w.2.2 }

/-- OWNER_RELEASE (R366). -/
def execOwnerRelease (master successor : BitVec 8) (s : State) : Host.Outcome State Fault Refusal := .next (s.handOver master successor)

/-! ### The command channel (R367, R368) -/

/-- The command that the 64 bytes of CMD hold, arguments in 8-byte words from byte 8 on in the order of R368; none for a code
that R368 does not list. KILL names its context, or with a core or context that does not exist the TASKID. -/
def commandOf (bs : List Byte) : Option Instr :=
  let a (i : Nat) : Nat := entryField bs (8 + 8 * i) 8
  match entryField bs 0 8 with
  | 1 => some (.loadImage (a 0) (a 1))
  | 2 => some (.config (a 0))
  | 3 => some .start
  | 4 => some (.setPolver (a 0) (BitVec.ofNat 16 (a 1)))
  | 5 => some (.resume (a 0) (a 1))
  | 6 => some (.kill (if a 0 < 256 ∧ a 1 < 2 then .context (a 0) (a 1) else .task (BitVec.ofNat 64 (a 2))) (BitVec.ofNat 64 (a 3)))
  | 7 => some (.preempt (a 0) (a 1))
  | 8 => some (.loadCamp (a 0) (a 1) (a 2))
  | 9 => some (.migrate (a 0) (a 1))
  | 10 => some (.attest (BitVec.ofNat 256 (entryField bs 8 32)) (a 4))
  | 11 => some .warmReset
  | 12 => some (.faultReply (BitVec.ofNat 64 (a 0)) (decide (a 1 ≠ 0)))
  | 13 => some (.releaseSave (a 0))
  | _ => none

/-- A doorbell: CMD is submitted unless a command is busy; it takes a time that the manual leaves open (R367). Without firmware, whose
signature the boot ROM has refused, a command does nothing and returns 0x11 (R372; log entry 37). -/
def State.doorbell (s : State) : State :=
  if s.cmdRun.isSome then s
  else
    let code := entryField s.cmd 0 8
    if !s.firmware then s.result code 0x11
    else match commandOf s.cmd with
    | none => s.result code 0x10
    | some i => { s with cmdRun := some (s.later, i), cmdCode := BitVec.ofNat 8 code, freeN := s.freeN + 1 }

/-- Bytes written into a run of bytes at an offset; what falls outside is dropped. -/
def overwrite (old : List Byte) (o : Nat) (bs : List Byte) : List Byte :=
  (upTo old.length).map fun i => if o ≤ i ∧ i < o + bs.length then bs.getD (i - o) 0#8 else old.getD i 0#8

/-- CONTROL_BLOCK_WRITE (R364, R365): CLAIM and CLAIMPRI from any master, every other register from the owner alone. -/
def execControlBlockWrite (master : BitVec 8) (offset : Nat) (value : BitVec 64) (s : State) : Host.Outcome State Fault Refusal :=
  if offset = 0x008 then .next (s.claim master value)
  else if offset = 0x010 then .next (s.claimPriority master value)
  else if s.owner ≠ some master then .next s
  else if offset = 0x018 then .next (s.handOver master (field value 0 8))
  else if offset = 0x048 then .next { s with fqcons := field value 0 32 }
  else if offset = 0x058 then .next { s with frcons := field value 0 32 }
  else if 0x100 ≤ offset ∧ offset < 0x140 then .next { s with cmd := overwrite s.cmd (offset - 0x100) (word8 value) }
  else if offset = 0x140 then .next s.doorbell
  else .next s

/-- OWNSTAT (R364). -/
def State.ownStat (s : State) : W64 :=
  BitVec.ofNat 64 ((s.owner.getD 0xFF#8).toNat * 2 ^ 8 + (if s.election.isSome then 2 else 0) + (if s.owner.isSome then 1 else 0))

/-- DEVSTAT (R364). -/
def State.devStat (s : State) : W64 := BitVec.ofNat 64 ((if s.memready then 1 else 0) + (if s.resetting then 2 else 0))

/-- CMDSTAT (R364). -/
def State.cmdStat (s : State) : W64 :=
  BitVec.ofNat 64 ((if s.cmdRun.isSome then 2 ^ 63 else 0) + s.cmdCode.toNat * 2 ^ 8 + s.cmdResult.toNat)

/-- What every master reads at an 8-byte offset of the control block, during a reset too (R364, R366, R374); write-only registers and
what R364 does not list read as zero (R2, R6). A read changes nothing, and no operation of the device stands for it. -/
def State.controlBlock (s : State) (offset : Nat) : W64 :=
  if offset = 0x000 then s.ownStat
  else if offset = 0x020 then s.devStat
  else if offset = 0x028 then s.nonce
  else if offset = 0x040 then zext64 s.fqprod
  else if offset = 0x048 then zext64 s.fqcons
  else if offset = 0x050 then zext64 s.frprod
  else if offset = 0x058 then zext64 s.frcons
  else if 0x100 ≤ offset ∧ offset < 0x140 then BitVec.ofNat 64 (entryField s.cmd (offset - 0x100) 8)
  else if offset = 0x148 then s.cmdStat
  else 0

/-! ### Commands on contexts and units (R123, R301, R320, R343) -/

/-- SET_POLVER (R343). -/
def execSetPolver (die : Nat) (version : BitVec 16) (s : State) : Host.Outcome State Fault Refusal :=
  if die < 4 then .next ({ s with polver := s.polver.setIfInBounds die version }.result 4 0) else .next (s.result 4 0x10)

/-- What a halted context becomes when it is resumed; one that is being saved or is in retention runs on afterwards (log entry 32). -/
def CtxState.resumed : CtxState → Option CtxState
  | .halted => some .running
  | .stopping y true c => some (.stopping y false c)
  | .retained true => some (.retained false)
  | _ => none

/-- RESUME (R123): a halted context issues its next bundle. -/
def execResume (core x : Nat) (s : State) : Host.Outcome State Fault Refusal :=
  match (if core < 256 ∧ x < 2 then (s.ctx core x).state.resumed else none) with
  | some st =>
    let t := s.modCtx core x fun k => { k with state := st }
    .next ((match st with
      | .retained _ => t.reachCluster core
      | _ => t).result 5 0)
  | none => .next (s.result 5 0x10)

/-- A context in retention is pre-empted: it has stopped already, and is saved once its cluster is on again (R301, R361; log entry 32). -/
def State.preemptRetained (s : State) (core x : Nat) (halted : Bool) : State :=
  (s.modCtx core x fun k => { k with state := .stopping false halted (s.cycleOf core) }).reachCluster core

/-- PREEMPT (R301): the context stops and is saved, where the save region has room (R327). -/
def execPreempt (core x : Nat) (s : State) : Host.Outcome State Fault Refusal :=
  if core < 256 ∧ x < 2 then
    .next ((if s.saveRoom core x then (match (s.ctx core x).state with
        | .retained h => s.preemptRetained core x h
        | _ => s.preempt core x) else s).result 7 0)
  else .next (s.result 7 0x10)

/-- The area of a killed unit becomes FINAL and stays until system software has read it (R320, R327). -/
def State.finalArea (s : State) (a : Nat) : State :=
  { s with saves := s.saves.map fun (v : Saved) => if v.addr = a then { v with final := true } else v }.devPut (a + 6)
    [s.byte .dev (a + 6) ||| 1#8]

/-- Faults of a unit that await replies are withdrawn (R319, R332). -/
def State.dropFaults (s : State) (core x : Nat) (gen : W32) : State :=
  { s with openFaults := s.openFaults.filter fun f => !decide (f.core = core ∧ f.x = x ∧ f.gen = gen) }

/-- The end of a saved unit by a kill, and its record (R320). -/
def State.killSaved (s : State) (u : WorkUnit) (v : Saved) (reason : W64) : State × List Byte :=
  let tepc := ((sortStrands v.ctx.strands).head?.map Strand.resumePc).getD 0
  let e : Ending := ⟨s.killCause, reason, tepc, 3, false⟩
  ((({ s with freeN := s.freeN + 1 }.finalArea v.addr).dropFaults v.core v.x v.ctx.gen).endKilled v.core v.x v.ctx.gen u,
    recordBytes u.taskid e v.stop v.addr v.ctx.gen v.ctx.posted.length u.handler v.core v.x)

/-- The end of a unit that never ran, and its record (R320); the address at its stop is open. -/
def State.killFresh (s : State) (core x : Nat) (gen : W32) (u : WorkUnit) (reason : W64) : State × List Byte :=
  let e : Ending := ⟨s.killCause, reason, Config.openWord (s.freeN + 1), 3, false⟩
  (({ s with freeN := s.freeN + 2 }).endKilled core x gen u, recordBytes u.taskid e s.now 0 gen 0 u.handler core x)

def State.areaOf (s : State) (u : WorkUnit) : Option Saved := u.saved.bind fun a => s.saves.find? fun v => decide (v.addr = a)

/-- The kill of the unit bound to a context (R320): held, being restored, a step that waits to be queued again, whose record of that is
written all the same, or running in any state. -/
def State.killBound (s : State) (core x : Nat) (u : WorkUnit) (reason : W64) : State :=
  let k := s.ctx core x
  let running : State :=
    let tepc := ((sortStrands k.strands).head?.map Strand.resumePc).getD 0
    { s with freeN := s.freeN + 1 }.killUnit core x ⟨s.killCause, reason, tepc, 3, false⟩ false true
  match k.state, s.areaOf u with
  | .recording _ false, _ => s
  | .ending _ _ _ _, _ => s
  | .recording bs true, _ =>
    let (t, mine) := s.killFresh core x k.gen u reason
    (t.writeOrWait bs).recordAndFree core x mine false
  | .held, _ =>
    let (t, bs) := s.killFresh core x (k.slotGen + 1) u reason
    (t.dropFaults core x (k.slotGen + 1)).recordAndFree core x bs false
  | .starting _, some v =>
    let (t, bs) := s.killSaved u v reason
    t.recordAndFree core x bs false
  | _, _ => running

/-- Queued units with the core whose queue holds them, or to which they travel. -/
def State.allQueued (s : State) : List (Nat × WorkUnit) :=
  (s.cores.flatMap fun c => c.2.ready.map fun u => (c.1, u)) ++ (s.spills.map fun e => (e.2.1, e.2.2))
    ++ s.transits.map fun t => (t.core, t.unit)

/-- A unit removed from its queue, or from its way to one. -/
def State.removeUnit (s : State) (core : Nat) (u : WorkUnit) : State :=
  if s.transits.any fun t => decide (t.core = core ∧ t.unit = u) then
    { s with transits := s.transits.filter fun t => !decide (t.core = core ∧ t.unit = u) }
  else s.unqueue core u

/-- The kill of a queued or saved unit (R320). -/
def State.killWaiting (s : State) (core : Nat) (u : WorkUnit) (reason : W64) : State :=
  let t := s.removeUnit core u
  let r := match s.areaOf u with
    | some v => t.killSaved u v reason
    | none => t.killFresh core 0 0 u reason
  r.1.writeOrWait r.2

/-- A retirement holds the mark that a kill makes in the save area of a unit (R240, R320). -/
def State.markHeld (s : State) (u : WorkUnit) : Bool := (s.areaOf u).any fun v => s.quiesced v.addr 64

/-- KILL (R320, R368). The command stays busy while a retirement holds the area of the unit (R240). -/
def execKill (target : KillTarget) (reason : BitVec 64) (s : State) : Host.Outcome State Fault Refusal :=
  match target with
  | .context core x =>
    match (s.ctx core x).unit with
    | some u =>
      if core < 256 ∧ x < 2 then .next (if s.markHeld u then s else (s.killBound core x u reason).result 6 0) else .next (s.result 6 0x10)
    | none => .next (s.result 6 0x10)
  | .task id =>
    match s.allQueued.find? fun e => decide (e.2.taskid = id) with
    | some e => .next (if s.markHeld e.2 then s else (s.killWaiting e.1 e.2 reason).result 6 0)
    | none => .next (s.result 6 0x10)

/-- RELEASE_SAVE (R327): a FINAL area is freed. -/
def execReleaseSave (addr : Nat) (s : State) : Host.Outcome State Fault Refusal :=
  if s.saves.any fun v => decide (v.addr = addr) && v.final then
    .next ({ s with saves := s.saves.filter fun v => decide (v.addr ≠ addr) }.result 13 0)
  else .next (s.result 13 0x10)

/-! ### Fault replies (R245, R293, R332) -/

/-- The command of a context that a fault's token names. -/
def Core.copyOf (k : Core) (x : Nat) (tok : BitVec 16) : Option Cmd :=
  k.cmds.find? fun c => decide (c.x = x ∧ c.tok = tok) && c.isCopy

/-- A reply reaches a resident copy: mapped, it resumes and translates again; refused, it completes with error 2 (R244). -/
def State.replyCopy (s : State) (core x : Nat) (tok : BitVec 16) (refused : Bool) : State :=
  match (s.core core).copyOf x tok with
  | none => s
  | some c => s.modCmd core c.id fun c =>
      if refused then { c with state := .running, err := 2, faultTag := none }
      else { c with state := if c.state = .parked then c.unparked else c.state, page := none, faultTag := none }

/-- The saved unit of a context and generation. -/
def State.savedUnit (s : State) (core x : Nat) (gen : W32) : Option Saved :=
  s.saves.find? fun v => decide (v.core = core ∧ v.x = x ∧ v.ctx.gen = gen) && !v.final

/-- A reply recorded in a saved unit's log, which its area carries (R332, R333). -/
def State.logReply (s : State) (v : Saved) (tok : BitVec 16) (refused : Bool) : State :=
  let v' := { v with ctx := { v.ctx with replyLog := v.ctx.replyLog ++ [(tok, refused)] } }
  { s.putArea v.addr v.size v.core v.final v.stop v'.ctx v'.cmds v'.cells with
    saves := s.saves.map fun w => if w.addr = v.addr then v' else w }

/-- A reply for an outstanding fault acts by exactly one row of R332; the fault is then answered. -/
def State.answerFault (s : State) (f : OpenFault) (refused : Bool) : State :=
  let k := s.ctx f.core f.x
  let t := { s with openFaults := s.openFaults.filter fun g => decide (g.tag ≠ f.tag) }
  match f.token with
  | none =>
    match k.state, k.unit, refused with
    | .held, some u, true => t.endUntranslated f.core f.x u
    | _, _, _ => t
  | some tok =>
    match s.savedUnit f.core f.x f.gen with
    | some v => t.logReply v tok refused
    | none =>
      if k.unit.isSome ∧ k.gen = f.gen then
        match k.state with
        | .stopping _ _ _ => t.modCtx f.core f.x fun k => { k with replyLog := k.replyLog ++ [(tok, refused)] }
        | _ => t.replyCopy f.core f.x tok refused
      else t

/-- FAULT_REPLY (R245): a tag that matches no outstanding fault is dropped. The command stays busy while a retirement holds the log of a
saved unit (R240, R332). -/
def execFaultReply (tag : BitVec 64) (refused : Bool) (s : State) : Host.Outcome State Fault Refusal :=
  match s.openFaults.find? fun f => decide (f.tag = tag) with
  | some f =>
    if (s.savedUnit f.core f.x f.gen).any fun v => s.quiesced v.addr v.size then .next s
    else .next ((s.answerFault f refused).result 12 0)
  | none => .next (s.result 12 0)

/-! ### Migration (R370) -/

/-- The window in which a page may migrate four times, and the time for which it is settled, in reference cycles. -/
def migrationWindow : Nat := 16777216
def settleTime : Nat := 67108864

/-- The leaf entry of a page in the table of a store: its address there, its level and its value. -/
def State.leafOf (s : State) (r : Region) (va : Nat) : (level table : Nat) → Option (Nat × Nat × Nat)
  | 0, t => some (t + va / 4096 % 512 * 8, 0, s.word r (t + va / 4096 % 512 * 8) 8)
  | l + 1, t =>
    let a := t + va / 2 ^ (12 + 9 * (l + 1)) % 512 * 8
    let e := s.word r a 8
    match readEntry e (l + 1) va with
    | .table u => s.leafOf r va l u
    | _ => some (a, l + 1, e)

/-- Every entry that describes a page in a store's table rewritten by one rule. -/
def State.rewriteLeaf (s : State) (r : Region) (root va : Nat) (f : Nat → Nat) : State :=
  match s.leafOf r (va % 2 ^ 57) 4 root with
  | none => s
  | some (a, level, e) =>
    let n := leafEntries (e / 2 ^ 60 % 4)
    let first := a / 4096 * 4096 + va / 2 ^ (12 + 9 * level) % 512 / n * n * 8
    s.write r first ((List.replicate n (toBytes 8 (f e))).flatten)

/-- A page's entries in this device's table rewritten. -/
def State.rewriteOwn (s : State) (va : Nat) (f : Nat → Nat) : State :=
  match s.launch with
  | none => s
  | some c => s.rewriteLeaf .dev c.asroot va f

/-- SETTLED set or cleared in an entry. -/
def settleWord (on : Bool) (e : Nat) : Nat := e / 16 * 16 + (if on then 8 else 0) + e % 8

/-- Both devices' entries of a page show whether it is settled (R370); the other device's table maps it at the same address (log
entry 31). -/
def State.showSettled (s : State) (page device : Nat) (on : Bool) : State :=
  let t := s.rewriteOwn page (settleWord on)
  if device = Config.selfDevice then t else t.rewriteLeaf (.peer device) (Config.peerRoot device) page (settleWord on)

/-- A page is settled now. -/
def State.isSettled (s : State) (page : Nat) : Bool := s.settled.any fun p => decide (p.1 = page ∧ s.now < p.2.1)

/-- The other device of a migration: its target, or the page's home where this device is the target. -/
def PageMap.otherDevice (m : PageMap) (device : Nat) : Nat :=
  if device = Config.selfDevice ∧ m.home = 3 then m.peer else device

/-- The copy of an outstanding fault stands at a page; it is resident or saved. -/
def State.waitsFor (s : State) (m : PageMap) (f : OpenFault) : Bool :=
  match f.token with
  | none => false
  | some tok =>
    let stands (c : Cmd) : Bool :=
      decide (c.x = f.x ∧ c.tok = tok ∧ m.vbase ≤ (c.farAt c.pos).1 % 2 ^ 57 ∧ (c.farAt c.pos).1 % 2 ^ 57 < m.vbase + m.size)
    match s.savedUnit f.core f.x f.gen with
    | some v => v.cmds.toList.flatten.any stands
    | none => decide ((s.ctx f.core f.x).gen = f.gen) && (s.core f.core).cmds.any stands

/-- A page that settles stays at its home: a migration of it that is under way ends, and the copies that wait for it have their mapped
replies (R370). -/
def State.settlePage (s : State) (m : PageMap) (device : Nat) : State :=
  let s1 := { s with
    settled := s.settled ++ [(m.vbase, s.now + settleTime, device)]
    migrating := s.migrating.filter fun q => decide (q.1 ≠ m.vbase) }.showSettled m.vbase device true
  (s1.openFaults.filter (s1.waitsFor m)).foldl (fun s f => s.answerFault f false) s1

/-- MIGRATE (R370): the page begins to migrate; a fifth request within the window settles it, and a settled page is refused. While a
pseudo-channel is being retired the command stays busy, since the page table's requests may be held (R240). -/
def execMigrate (page device : Nat) (s : State) : Host.Outcome State Fault Refusal :=
  if s.retiring ≠ [] then .next s
  else match s.pageOf page with
  | none => .next (s.result 9 0x10)
  | some m =>
    if 256 ≤ device then .next (s.result 9 0x10)
    else if s.isSettled m.vbase then .next (s.result 9 0x12)
    else if 4 ≤ (s.migrated.filter fun p => decide (p.1 = m.vbase ∧ s.now < p.2 + migrationWindow)).length then
      .next ((s.settlePage m (m.otherDevice device)).result 9 0x12)
    else .next ({ s with
      migrating := (s.migrating.filter fun (p : Nat × Nat × Option Nat) => decide (p.1 ≠ m.vbase)) ++ [(m.vbase, device, none)]
      migrated := s.migrated ++ [(m.vbase, s.now)] }.result 9 0)

/-- A copy holds the translation of a page, whether it runs or is stopped, or one of its blocks is on its way there (R244). -/
def State.pageInUse (s : State) (m : PageMap) : Bool :=
  let p := m.place m.vbase
  let hit (q : Region × Nat) (n : Nat) : Bool := decide (q.1 = p.1 ∧ q.2 < p.2 + m.size ∧ p.2 < q.2 + n)
  s.cores.any fun k =>
    (k.2.cmds.any fun c => (c.page.map fun g => decide (g.vbase = m.vbase)).getD false && decide (c.state = .running ∨ c.state = .stopped))
      || k.2.blocks.any fun b => hit b.src b.len || b.dsts.any fun d => hit d b.len

/-- Where a migrating page goes: a free place of this device's memory, or of the target's, which this device does not see. -/
def State.migrationPlace (s : State) (m : PageMap) (device : Nat) : Option (Region × Nat) :=
  match s.launch with
  | none => none
  | some c =>
    if device = Config.selfDevice then
      (findPlace (s.loader c).phys deviceLimit m.size m.size (Config.placeBase s.freeN)).map fun a => (.dev, a)
    else some (.peer device, Config.placeBase s.freeN % 2 ^ 40 / m.size * m.size)

/-- The page's bytes move, its entries name the new home, and the copies that wait for it have their mapped replies. -/
def State.movePage (s : State) (m : PageMap) (r : Region) (a device : Nat) : State :=
  let p := m.place m.vbase
  let s1 := { s with freeN := s.freeN + 1, migrating := s.migrating.filter fun q => decide (q.1 ≠ m.vbase) }.write r a
    (s.bytes p.1 p.2 m.size)
  let home (e : Nat) : Nat := match r with
    | .dev => e / 2 ^ 60 * 2 ^ 60 + a + e % 16
    | _ => e / 2 ^ 60 * 2 ^ 60 + 3 * 2 ^ 58 + a + device * 16 + e % 16 / 8 * 8 + e % 4
  let s2 := s1.rewriteOwn m.vbase home
  (s2.openFaults.filter (s2.waitsFor m)).foldl (fun s f => s.answerFault f false) s2

/-- The wait of a migration is over: from here on copies that translate the page fault. -/
def State.startMove (s : State) (page : Nat) : State :=
  { s with
    freeN := s.freeN + 1
    migrating := s.migrating.map fun p => if p.1 = page then (p.1, p.2.1, some s.later) else p }

/-- MIGRATION_COMPLETE (R370): a migration waits until nothing pins the page and no copy holds its translation; the move then takes a
time that the manual leaves open. -/
def execMigrationComplete (page : Nat) (s : State) : Host.Outcome State Fault Refusal :=
  if s.retiring ≠ [] ∨ s.isSettled page then .next s
  else match s.migrating.find? fun p => decide (p.1 = page), s.pageOf page with
  | some (_, device, phase), some m =>
    match phase with
    | none => .next (if s.pins m ∨ s.pageInUse m then s else s.startMove page)
    | some due =>
      if s.now < due ∨ s.pins m then .next s
      else match s.migrationPlace m device with
        | none => .next s
        | some (r, a) => .next (s.movePage m r a device)
  | some g, none => .next { s with migrating := s.migrating.filter fun q => decide (q ≠ g) }
  | none, _ => .next s

/-- SETTLE_EXPIRY (R370). -/
def execSettleExpiry (page : Nat) (s : State) : Host.Outcome State Fault Refusal :=
  if s.retiring ≠ [] then .next s
  else match s.settled.find? fun p => decide (p.1 = page ∧ p.2.1 ≤ s.now) with
  | some p =>
    .next ({ s with settled := s.settled.filter fun p => decide (p.1 ≠ page) }.showSettled page p.2.2 false)
  | none => .next s

/-! ### Signed code (R372, R373) -/

/-- LOAD_CAMP (R368, R372): a verified image is loaded and its core starts at the entry in machine mode. -/
def execLoadCamp (die camp host : Nat) (s : State) : Host.Outcome State Fault Refusal :=
  if 4 ≤ die ∨ 32 ≤ camp then .next (s.result 8 0x10)
  else
    let bs := s.bytes .host host (Config.campImageSize host)
    if !imageVerified bs then .next (s.result 8 0x11)
    else
      let n := 32 * die + camp
      .next (((s.putBytes (.camp n) 0 ((Config.campPayload bs).take 131072)).setCamp n
        { Camp.reset with running := true, pc := BitVec.ofNat 64 (Config.campEntry bs), digest := sha256 bs }).result 8 0)

/-- The report that the device makes now for a nonce; its salt is open. -/
def State.attestation (s : State) (nonce : BitVec 256) : List Byte :=
  report s.identityKey nonce (reportContent ((s.camps.filter fun c => c.2.running).map fun c => c.2.digest) s.polver.toList)
    ((upTo 4).flatMap fun i => word8 (Config.openWord (s.freeN + i)))

/-- ATTEST (R373): the report is written to the host's buffer, and a session key is derived for it. -/
def execAttest (nonce : BitVec 256) (host : Nat) (s : State) : Host.Outcome State Fault Refusal :=
  let r := s.attestation nonce
  .next (({ s with sessions := s.sessions ++ [Config.sessionKey r], freeN := s.freeN + 4 }.putBytes .host host r).result 10 0)

/-! ### Host accesses (R363, R374) -/

/-- An input that has been served leaves the list: the first one that has come and asks for this. -/
def State.dropInput (s : State) (i : Instr) : State :=
  match s.inputs.find? fun e => decide (e.1 ≤ s.now ∧ e.2 = i) with
  | some e => { s with inputs := s.inputs.erase e }
  | none => s

/-- HOST_BAR2_ACCESS (R363, R374): before MEMREADY and outside the window it completes with Unsupported Request; a request to a
quiesced pseudo-channel is held, and keeps its place in the order of arrival (R240). -/
def execHostBar2Access (pa : Nat) (write : Option (List (BitVec 8))) (len : Nat) (s : State) : Host.Outcome State Fault Refusal :=
  let n := (write.map List.length).getD len
  let t := s.dropInput (.hostBar2Access pa write len)
  if !s.memready ∨ deviceLimit < pa + n then .next { t with hostReads := s.hostReads ++ [none] }
  else if s.quiesced pa n then .next s
  else match write with
    | some bs => .next (t.devPut pa bs)
    | none => .next { t with hostReads := s.hostReads ++ [some (s.bytes .dev pa len)] }

/-! ### Links (R369) -/

/-- A copy in progress uses a port: its page lies on a peer of that port, or a block of it travels there. -/
def State.usesPort (s : State) (k : Core) (c : Cmd) (port : Nat) : Bool :=
  let peer (r : Region) : Bool := decide (s.portOf r = some port)
  (match c.page with
    | some m => decide (m.home = 3 ∧ s.route m.peer = some port ∧ c.pos < c.totalBytes)
    | none => false)
  || k.blocks.any fun b => decide (b.cmd = c.id) && (peer b.src.1 || b.dsts.any fun d => peer d.1)

/-- SKORN_LINK_FAILURE (R369, R252): copies in progress over the link of one of the 16 ports end with error 3. -/
def execSkornLinkFailure (port : Nat) (s : State) : Host.Outcome State Fault Refusal :=
  event (decide (port < 16)) (fun s =>
    s.cores.foldl (fun t k => (k.2.cmds.filter fun c => c.isCopy && decide (c.state = .running) && s.usesPort k.2 c port).foldl
      (fun t c => t.failCopy k.1 c.id 3) t) { s with failedLinks := s.failedLinks ++ [port] }) s

/-! ### Retirement (R239, R240) -/

/-- The first spare of a stack that serves no pseudo-channel. -/
def State.spareOf (s : State) (stack : Nat) : Option Nat :=
  (upTo 8).find? fun i => !((s.repaired ++ s.fusedRepairs).any fun q => decide (q.1 = stack ∧ q.2.2 = i))

/-- PSEUDO_CHANNEL_RETIRE (R240): the pseudo-channel is quiesced. -/
def execPseudoChannelRetire (stack pc : Nat) (s : State) : Host.Outcome State Fault Refusal :=
  if stack < 24 ∧ pc < 256 ∧ (stack, pc) ∉ s.retiring ∧ (s.spareOf stack).isSome then
    .next { s with retiring := s.retiring ++ [(stack, pc)] }
  else .next s

/-- RETIREMENT_SWITCH (R240): the spare serves the pseudo-channel's addresses, and what was held is served. -/
def execRetirementSwitch (stack pc : Nat) (s : State) : Host.Outcome State Fault Refusal :=
  let t := s.dropInput (.retirementSwitch stack pc)
  match s.spareOf stack with
  | none => .next t
  | some i =>
    if (stack, pc) ∈ s.retiring then
      .next { t with
        retiring := s.retiring.filter fun q => decide (q ≠ (stack, pc))
        repaired := (s.repaired.filter fun q => !decide (q.1 = stack ∧ q.2.1 = pc)) ++ [(stack, pc, i)] }
    else .next t

/-! ### Reset (R374) -/

/-- Memory that a reset keeps: what is not of the device, and its own memory where `hbm` says so. -/
def State.keptMemory (s : State) (hbm : Bool) : Memory :=
  s.mem.filter fun c =>
    let i := c.1 / 18446744073709551616
    decide (i = 2 ∨ i = 3 ∨ 1024 ≤ i) || (hbm && decide (i = 1 ∨ i = 4))

/-- The machine after a reset; the world outside it goes on. -/
def State.resetWith (s : State) (hbm : Bool) (strap : BitVec 1) : State :=
  { State.reset with
    mem := s.keptMemory hbm
    memStart := s.keptMemory hbm
    strap := strap
    repaired := if hbm then s.repaired else []
    fusedRepairs := s.fusedRepairs
    identityKey := s.identityKey
    failedLinks := []
    notices := s.notices
    hostReads := s.hostReads
    inputs := s.inputs.map fun i => (i.1 - s.now, i.2)
    freeN := s.freeN
    seqN := s.seqN }

/-- COLD_RESET (R363, R374): the strap is read. -/
def execColdReset (strap : BitVec 1) (s : State) : Host.Outcome State Fault Refusal := .next (s.resetWith false strap)

/-- WARM_RESET (R374). -/
def execWarmReset (s : State) : Host.Outcome State Fault Refusal := .next (s.resetWith true s.strap)

/-- MEMREADY (R374): the memory links are trained and device memory accepts accesses. -/
def execMemready (s : State) : Host.Outcome State Fault Refusal := .next { s with memready := true, resetting := false }

end Sys2Proof.Machine
end

