-- ==== Sys2Proof/Machine/Sequencer.lean ====
section
/-!
DEFINITION. The sequencer operations (spec/09 R103 to R109): NOP, branches, hardware loops, loop counters and REP. What they
decide is recorded in the cursor and takes effect at the end of their bundle (R41).
-/

namespace Sys2Proof.Machine

/-- ba + 8·OFF, mod 2^64 (R104). -/
def SQ_target (s : State) (off : BitVec 32) : W64 := s.cur.ba + sext64 off * 8#64

/-- The address of the sequential successor, ba + 8·nw. -/
def State.successor (s : State) : W64 := s.cur.ba + BitVec.ofNat 64 (8 * s.cur.nw)

/-- NOP has no effect (R103). -/
def execNop (_ : SQ) (s : State) : Host.Outcome State Fault Refusal := runOp { eff := id } s

/-- BR (R104). -/
def execBr (f : SQ) (s : State) : Host.Outcome State Fault Refusal :=
  runOp { eff := fun t => t.act (.jump s.cur.slot (SQ_target s f.off)) } s

/-- CALL (R104): the link is written with the branch at the end of the bundle, where R41 may suppress both. -/
def execCall (f : SQ) (s : State) : Host.Outcome State Fault Refusal :=
  runOp {
    writes := [sreg f.reg]
    eff := fun t => t.act (.call s.cur.slot (SQ_target s f.off) f.reg.toNat s.successor) } s

/-- A register target must be a multiple of 8 (R104). -/
def targetAlign (a : W64) : Option (Nat × W64) := if a.toNat % 8 = 0 then none else some (causeALIGN, a)

/-- RET (R104). -/
def execRet (f : SQ) (s : State) : Host.Outcome State Fault Refusal :=
  runOp {
    reads := [sreg f.reg]
    before := targetAlign (s.rs f.reg)
    eff := fun t => t.act (.jump s.cur.slot (s.rs f.reg)) } s

/-- BRI (R104). -/
def execBri (f : SQ) (s : State) : Host.Outcome State Fault Refusal :=
  let a := s.rs f.reg + sext64 f.off * 8#64
  runOp {
    reads := [sreg f.reg]
    before := targetAlign a
    eff := fun t => t.act (.jump s.cur.slot a) } s

/-- A branch on the popped entry of a condition queue, taken where the entry is `want` (R105). -/
def branchOnQueue (f : SQ) (want : Bool) (s : State) : OpSem where
  hold := s.popHold f.cq.toNat
  eff := fun t =>
    let q := f.cq.toNat
    let t' := t.modMe fun k => k.popCq q
    if (t.me.cq q).headD false = want then t'.act (.jump s.cur.slot (SQ_target s f.off)) else t'

/-- BRC.T (R105). -/
def execBrcT (f : SQ) (s : State) : Host.Outcome State Fault Refusal := runOp (branchOnQueue f true s) s

/-- BRC.F (R105). -/
def execBrcF (f : SQ) (s : State) : Host.Outcome State Fault Refusal := runOp (branchOnQueue f false s) s

/-- The two ILLEGAL cases of LOOP and LOOPI: an exit ba + 8·OFF at or below the start ba + 8·nw, and the last bundle of an active
body (R106). -/
def loopCheck (s : State) (off : BitVec 32) : Option (Nat × W64) :=
  if off.toInt ≤ s.cur.nw ∨ (s.myStrand.loops.toList.any fun l => l.active && decide (l.ex = s.successor)) then some s.illegal
  else none

/-- LOOP and LOOPI with count n (R106). -/
def startLoop (reads : List (Nat × Nat)) (lvl : Nat) (n : W32) (off : BitVec 32) (s : State) : OpSem where
  reads := reads
  before := loopCheck s off
  eff := fun t =>
    if n = 0#32 then t.act (.loopSkip s.cur.slot lvl (SQ_target s off))
    else t.act (.loop s.cur.slot lvl n s.successor (SQ_target s off))

/-- LOOP (R106). -/
def execLoop (f : SQ) (s : State) : Host.Outcome State Fault Refusal :=
  runOp (startLoop [sreg f.reg] f.lvl.toNat (field (s.rs f.reg) 0 32) f.off s) s

/-- LOOPI (R106). -/
def execLoopi (f : SLoopi) (s : State) : Host.Outcome State Fault Refusal :=
  runOp (startLoop [] f.lvl.toNat (BitVec.ofNat 32 f.trip.toNat) f.off s) s

/-- LCRD (R108): the counter as it stands, never a pending value. -/
def execLcrd (f : SQ) (s : State) : Host.Outcome State Fault Refusal :=
  runOp {
    writes := [sreg f.reg]
    eff := fun t => t.putScalar f.reg (zext64 (s.myStrand.loops.getD f.lvl.toNat Loop.reset).lc) 1 0 } s

/-- LCWR (R108). -/
def execLcwr (f : SQ) (s : State) : Host.Outcome State Fault Refusal :=
  runOp {
    reads := [sreg f.reg]
    eff := fun t => t.act (.lcwr s.cur.slot f.lvl.toNat (field (s.rs f.reg) 0 32)) } s

/-- REP arms a repeat for its slot at the end of its bundle (R109). -/
def execRep (f : SRep) (s : State) : Host.Outcome State Fault Refusal :=
  runOp { eff := fun t => { t with cur := { t.cur with arms := t.cur.arms ++ [(s.cur.slot, f.cnt.toNat + 1, f.step)] } } } s

end Sys2Proof.Machine
end

