-- ==== Sys2Proof/Machine/Dispatch.lean ====
section
/-!
DEFINITION. The dispatch: one arm per constructor of Instr, in the order of spec/opcode_table.json's families.
-/

namespace Sys2Proof.Machine

/-- The meaning of an instruction (spec/95): operations of bundles, camp instructions, and the device's own events. -/
def exec (i : Instr) (s : State) : Host.Outcome State Fault Refusal :=
  match i with
  | .nop f => Sys2Proof.Machine.execNop f s
  | .br f => Sys2Proof.Machine.execBr f s
  | .call f => Sys2Proof.Machine.execCall f s
  | .ret f => Sys2Proof.Machine.execRet f s
  | .bri f => Sys2Proof.Machine.execBri f s
  | .brcT f => Sys2Proof.Machine.execBrcT f s
  | .brcF f => Sys2Proof.Machine.execBrcF f s
  | .loop f => Sys2Proof.Machine.execLoop f s
  | .loopi f => Sys2Proof.Machine.execLoopi f s
  | .lcrd f => Sys2Proof.Machine.execLcrd f s
  | .lcwr f => Sys2Proof.Machine.execLcwr f s
  | .rep f => Sys2Proof.Machine.execRep f s
  | .fork f => Sys2Proof.Machine.execFork f s
  | .join f => Sys2Proof.Machine.execJoin f s
  | .cbset f => Sys2Proof.Machine.execCbset f s
  | .cbclr f => Sys2Proof.Machine.execCbclr f s
  | .cbwait f => Sys2Proof.Machine.execCbwait f s
  | .cqpush f => Sys2Proof.Machine.execCqpush f s
  | .cqpop f => Sys2Proof.Machine.execCqpop f s
  | .cqcnt f => Sys2Proof.Machine.execCqcnt f s
  | .gsetQ f => Sys2Proof.Machine.execGsetQ f s
  | .gsetS f => Sys2Proof.Machine.execGsetS f s
  | .gclr f => Sys2Proof.Machine.execGclr f s
  | .waitcnt f => Sys2Proof.Machine.execWaitcnt f s
  | .fenceAll f => Sys2Proof.Machine.execFenceAll f s
  | .fence f => Sys2Proof.Machine.execFence f s
  | .phase f => Sys2Proof.Machine.execPhase f s
  | .csrr f => Sys2Proof.Machine.execCsrr f s
  | .csrw f => Sys2Proof.Machine.execCsrw f s
  | .csrs f => Sys2Proof.Machine.execCsrs f s
  | .csrc f => Sys2Proof.Machine.execCsrc f s
  | .trap f => Sys2Proof.Machine.execTrap f s
  | .tret f => Sys2Proof.Machine.execTret f s
  | .halt f => Sys2Proof.Machine.execHalt f s
  | .clkdiv f => Sys2Proof.Machine.execClkdiv f s
  | .clkmode f => Sys2Proof.Machine.execClkmode f s
  | .discard f => Sys2Proof.Machine.execDiscard f s
  | .acclive f => Sys2Proof.Machine.execAcclive f s
  | .add f => Sys2Proof.Machine.execAdd f s
  | .sub f => Sys2Proof.Machine.execSub f s
  | .and f => Sys2Proof.Machine.execAnd f s
  | .or f => Sys2Proof.Machine.execOr f s
  | .xor f => Sys2Proof.Machine.execXor f s
  | .andn f => Sys2Proof.Machine.execAndn f s
  | .shl f => Sys2Proof.Machine.execShl f s
  | .shr f => Sys2Proof.Machine.execShr f s
  | .sar f => Sys2Proof.Machine.execSar f s
  | .min f => Sys2Proof.Machine.execMin f s
  | .max f => Sys2Proof.Machine.execMax f s
  | .minu f => Sys2Proof.Machine.execMinu f s
  | .maxu f => Sys2Proof.Machine.execMaxu f s
  | .addi f => Sys2Proof.Machine.execAddi f s
  | .andi f => Sys2Proof.Machine.execAndi f s
  | .ori f => Sys2Proof.Machine.execOri f s
  | .xori f => Sys2Proof.Machine.execXori f s
  | .shli f => Sys2Proof.Machine.execShli f s
  | .shri f => Sys2Proof.Machine.execShri f s
  | .sari f => Sys2Proof.Machine.execSari f s
  | .li f => Sys2Proof.Machine.execLi f s
  | .lih f => Sys2Proof.Machine.execLih f s
  | .mul f => Sys2Proof.Machine.execMul f s
  | .mulh f => Sys2Proof.Machine.execMulh f s
  | .mulhu f => Sys2Proof.Machine.execMulhu f s
  | .mad f => Sys2Proof.Machine.execMad f s
  | .div f => Sys2Proof.Machine.execDiv f s
  | .divu f => Sys2Proof.Machine.execDivu f s
  | .rem f => Sys2Proof.Machine.execRem f s
  | .remu f => Sys2Proof.Machine.execRemu f s
  | .cmp f => Sys2Proof.Machine.execCmp f s
  | .cmpq f => Sys2Proof.Machine.execCmpq f s
  | .clz f => Sys2Proof.Machine.execClz f s
  | .ctz f => Sys2Proof.Machine.execCtz f s
  | .popc f => Sys2Proof.Machine.execPopc f s
  | .bfe f => Sys2Proof.Machine.execBfe f s
  | .bfi f => Sys2Proof.Machine.execBfi f s
  | .brev f => Sys2Proof.Machine.execBrev f s
  | .sel f => Sys2Proof.Machine.execSel f s
  | .fadd f => Sys2Proof.Machine.execFadd f s
  | .fsub f => Sys2Proof.Machine.execFsub f s
  | .fmul f => Sys2Proof.Machine.execFmul f s
  | .fmin f => Sys2Proof.Machine.execFmin f s
  | .fmax f => Sys2Proof.Machine.execFmax f s
  | .ffma f => Sys2Proof.Machine.execFfma f s
  | .fcmp f => Sys2Proof.Machine.execFcmp f s
  | .fcmpq f => Sys2Proof.Machine.execFcmpq f s
  | .fcvt f => Sys2Proof.Machine.execFcvt f s
  | .fclass f => Sys2Proof.Machine.execFclass f s
  | .ld f => Sys2Proof.Machine.execLd f s
  | .st f => Sys2Proof.Machine.execSt f s
  | .amoadd f => Sys2Proof.Machine.execAmoadd f s
  | .amoand f => Sys2Proof.Machine.execAmoand f s
  | .amoor f => Sys2Proof.Machine.execAmoor f s
  | .amoxor f => Sys2Proof.Machine.execAmoxor f s
  | .amomin f => Sys2Proof.Machine.execAmomin f s
  | .amomax f => Sys2Proof.Machine.execAmomax f s
  | .amominu f => Sys2Proof.Machine.execAmominu f s
  | .amomaxu f => Sys2Proof.Machine.execAmomaxu f s
  | .amoswp f => Sys2Proof.Machine.execAmoswp f s
  | .amocas f => Sys2Proof.Machine.execAmocas f s
  | .amofadd f => Sys2Proof.Machine.execAmofadd f s
  | .feset f => Sys2Proof.Machine.execFeset f s
  | .feclr f => Sys2Proof.Machine.execFeclr f s
  | .feq f => Sys2Proof.Machine.execFeq f s
  | .pooladd f => Sys2Proof.Machine.execPooladd f s
  | .poolmax f => Sys2Proof.Machine.execPoolmax f s
  | .poolred f => Sys2Proof.Machine.execPoolred f s
  | .poolfill f => Sys2Proof.Machine.execPoolfill f s
  | .extq f => Sys2Proof.Machine.execExtq f s
  | .vadd f => Sys2Proof.Machine.execVadd f s
  | .vsub f => Sys2Proof.Machine.execVsub f s
  | .vmul f => Sys2Proof.Machine.execVmul f s
  | .vmin f => Sys2Proof.Machine.execVmin f s
  | .vmax f => Sys2Proof.Machine.execVmax f s
  | .vand f => Sys2Proof.Machine.execVand f s
  | .vor f => Sys2Proof.Machine.execVor f s
  | .vxor f => Sys2Proof.Machine.execVxor f s
  | .vshl f => Sys2Proof.Machine.execVshl f s
  | .vshr f => Sys2Proof.Machine.execVshr f s
  | .vsar f => Sys2Proof.Machine.execVsar f s
  | .vfma f => Sys2Proof.Machine.execVfma f s
  | .vcmp f => Sys2Proof.Machine.execVcmp f s
  | .vcmpqAny f => Sys2Proof.Machine.execVcmpqAny f s
  | .vcmpqAll f => Sys2Proof.Machine.execVcmpqAll f s
  | .vsel f => Sys2Proof.Machine.execVsel f s
  | .vcvt f => Sys2Proof.Machine.execVcvt f s
  | .vmov f => Sys2Proof.Machine.execVmov f s
  | .vmovs f => Sys2Proof.Machine.execVmovs f s
  | .vmovx f => Sys2Proof.Machine.execVmovx f s
  | .viota f => Sys2Proof.Machine.execViota f s
  | .mand f => Sys2Proof.Machine.execMand f s
  | .mor f => Sys2Proof.Machine.execMor f s
  | .mxor f => Sys2Proof.Machine.execMxor f s
  | .mnot f => Sys2Proof.Machine.execMnot f s
  | .mpop f => Sys2Proof.Machine.execMpop f s
  | .vquant f => Sys2Proof.Machine.execVquant f s
  | .vdeq f => Sys2Proof.Machine.execVdeq f s
  | .vrotR f => Sys2Proof.Machine.execVrotR f s
  | .vrotC f => Sys2Proof.Machine.execVrotC f s
  | .vbcR f => Sys2Proof.Machine.execVbcR f s
  | .vbcC f => Sys2Proof.Machine.execVbcC f s
  | .vredR f => Sys2Proof.Machine.execVredR f s
  | .vredC f => Sys2Proof.Machine.execVredC f s
  | .vshuf f => Sys2Proof.Machine.execVshuf f s
  | .vsfu f => Sys2Proof.Machine.execVsfu f s
  | .vsftab f => Sys2Proof.Machine.execVsftab f s
  | .vld f => Sys2Proof.Machine.execVld f s
  | .vst f => Sys2Proof.Machine.execVst f s
  | .vldx f => Sys2Proof.Machine.execVldx f s
  | .vstx f => Sys2Proof.Machine.execVstx f s
  | .vlda f => Sys2Proof.Machine.execVlda f s
  | .vsta f => Sys2Proof.Machine.execVsta f s
  | .vstr f => Sys2Proof.Machine.execVstr f s
  | .vstrRel f => Sys2Proof.Machine.execVstrRel f s
  | .bfxp f => Sys2Proof.Machine.execBfxp f s
  | .mxloop f => Sys2Proof.Machine.execMxloop f s
  | .mxaddr f => Sys2Proof.Machine.execMxaddr f s
  | .mxfmt f => Sys2Proof.Machine.execMxfmt f s
  | .mxidx f => Sys2Proof.Machine.execMxidx f s
  | .mxwld f => Sys2Proof.Machine.execMxwld f s
  | .mxwstrm f => Sys2Proof.Machine.execMxwstrm f s
  | .mxgo f => Sys2Proof.Machine.execMxgo f s
  | .mxzero f => Sys2Proof.Machine.execMxzero f s
  | .mxdrain f => Sys2Proof.Machine.execMxdrain f s
  | .mxnorm f => Sys2Proof.Machine.execMxnorm f s
  | .msbuild f => Sys2Proof.Machine.execMsbuild f s
  | .mxsmp f => Sys2Proof.Machine.execMxsmp f s
  | .mxstat f => Sys2Proof.Machine.execMxstat f s
  | .cpin f => Sys2Proof.Machine.execCpin f s
  | .cpout f => Sys2Proof.Machine.execCpout f s
  | .cp2d f => Sys2Proof.Machine.execCp2d f s
  | .cpmc f => Sys2Proof.Machine.execCpmc f s
  | .cprs f => Sys2Proof.Machine.execCprs f s
  | .barinit f => Sys2Proof.Machine.execBarinit f s
  | .barexp f => Sys2Proof.Machine.execBarexp f s
  | .barwait f => Sys2Proof.Machine.execBarwait f s
  | .barwaitT f => Sys2Proof.Machine.execBarwaitT f s
  | .barq f => Sys2Proof.Machine.execBarq f s
  | .tokwait f => Sys2Proof.Machine.execTokwait f s
  | .toktest f => Sys2Proof.Machine.execToktest f s
  | .cpcan f => Sys2Proof.Machine.execCpcan f s
  | .spawn f => Sys2Proof.Machine.execSpawn f s
  | .spawnD f => Sys2Proof.Machine.execSpawnD f s
  | .spawnop f => Sys2Proof.Machine.execSpawnop f s
  | .tend f => Sys2Proof.Machine.execTend f s
  | .tcont f => Sys2Proof.Machine.execTcont f s
  | .tyield f => Sys2Proof.Machine.execTyield f s
  | .tstat f => Sys2Proof.Machine.execTstat f s
  | .jcnew f => Sys2Proof.Machine.execJcnew f s
  | .jcadd f => Sys2Proof.Machine.execJcadd f s
  | .mbrecv f => Sys2Proof.Machine.execMbrecv f s
  | .mbsend f => Sys2Proof.Machine.execMbsend f s
  | .mbstat f => Sys2Proof.Machine.execMbstat f s
  | .mbPost rd rs1 rs2 => Sys2Proof.Machine.execMbPost rd rs1 rs2 s
  | .mbTake rd rs1 => Sys2Proof.Machine.execMbTake rd rs1 s
  | .mbPeek rd => Sys2Proof.Machine.execMbPeek rd s
  | .epSwitch rd rs1 rs2 => Sys2Proof.Machine.execEpSwitch rd rs1 rs2 s
  | .epWdset rd rs1 => Sys2Proof.Machine.execEpWdset rd rs1 s
  | .epEnd rd => Sys2Proof.Machine.execEpEnd rd s
  | .claim master nonce => Sys2Proof.Machine.execClaim master nonce s
  | .claimpri master pri => Sys2Proof.Machine.execClaimpri master pri s
  | .ownerRelease master successor => Sys2Proof.Machine.execOwnerRelease master successor s
  | .controlBlockWrite master offset value => Sys2Proof.Machine.execControlBlockWrite master offset value s
  | .loadImage host size => Sys2Proof.Machine.execLoadImage host size s
  | .config host => Sys2Proof.Machine.execConfig host s
  | .setPolver die version => Sys2Proof.Machine.execSetPolver die version s
  | .resume core x => Sys2Proof.Machine.execResume core x s
  | .kill target reason => Sys2Proof.Machine.execKill target reason s
  | .preempt core x => Sys2Proof.Machine.execPreempt core x s
  | .loadCamp die camp host => Sys2Proof.Machine.execLoadCamp die camp host s
  | .migrate page device => Sys2Proof.Machine.execMigrate page device s
  | .migrationComplete page => Sys2Proof.Machine.execMigrationComplete page s
  | .settleExpiry page => Sys2Proof.Machine.execSettleExpiry page s
  | .attest nonce host => Sys2Proof.Machine.execAttest nonce host s
  | .faultReply tag refused => Sys2Proof.Machine.execFaultReply tag refused s
  | .releaseSave addr => Sys2Proof.Machine.execReleaseSave addr s
  | .coldReset strap => Sys2Proof.Machine.execColdReset strap s
  | .hostBar2Access pa write len => Sys2Proof.Machine.execHostBar2Access pa write len s
  | .skornLinkFailure port => Sys2Proof.Machine.execSkornLinkFailure port s
  | .pseudoChannelRetire stack pc => Sys2Proof.Machine.execPseudoChannelRetire stack pc s
  | .retirementSwitch stack pc => Sys2Proof.Machine.execRetirementSwitch stack pc s
  | .mxcadWrite core value => Sys2Proof.Machine.execMxcadWrite core value s
  | .powerMonitorReport milliwatts => Sys2Proof.Machine.execPowerMonitorReport milliwatts s
  | .backstopHoldEnd core => Sys2Proof.Machine.execBackstopHoldEnd core s
  | .thermalAlert die sensor threshold upward => Sys2Proof.Machine.execThermalAlert die sensor threshold upward s
  | .supplyDroop core domain => Sys2Proof.Machine.execSupplyDroop core domain s
  | .retentionEntry cluster => Sys2Proof.Machine.execRetentionEntry cluster s
  | .retentionExit cluster parity => Sys2Proof.Machine.execRetentionExit cluster parity s
  | .clusterGate cluster => Sys2Proof.Machine.execClusterGate cluster s
  | .clusterWake cluster => Sys2Proof.Machine.execClusterWake cluster s
  | .campCoreInstruction w => Sys2Proof.Machine.execCampCoreInstruction w s
  | .unassignedEncoding w => Sys2Proof.Machine.execUnassignedEncoding w s
  | .hostPortUncorrectableError core cmd => Sys2Proof.Machine.execHostPortUncorrectableError core cmd s
  | .repRepeatIssue => Sys2Proof.Machine.execRepRepeatIssue s
  | .tretResume => Sys2Proof.Machine.execTretResume s
  | .clkdivApply => Sys2Proof.Machine.execClkdivApply s
  | .clockModeSwitchDone => Sys2Proof.Machine.execClockModeSwitchDone s
  | .sfuTableReady => Sys2Proof.Machine.execSfuTableReady s
  | .barwaitTimeout => Sys2Proof.Machine.execBarwaitTimeout s
  | .blockAccept => Sys2Proof.Machine.execBlockAccept s
  | .taskEnd => Sys2Proof.Machine.execTaskEnd s
  | .watchdogExpiry => Sys2Proof.Machine.execWatchdogExpiry s
  | .writebackLand => Sys2Proof.Machine.execWritebackLand s
  | .variableResultLand => Sys2Proof.Machine.execVariableResultLand s
  | .destinationAccept => Sys2Proof.Machine.execDestinationAccept s
  | .completionWaitEnd => Sys2Proof.Machine.execCompletionWaitEnd s
  | .crossingDrainEnd => Sys2Proof.Machine.execCrossingDrainEnd s
  | .secondaryStarvationRelief => Sys2Proof.Machine.execSecondaryStarvationRelief s
  | .engineCommandStart => Sys2Proof.Machine.execEngineCommandStart s
  | .matrixReloadDone => Sys2Proof.Machine.execMatrixReloadDone s
  | .matrixPassInject => Sys2Proof.Machine.execMatrixPassInject s
  | .matrixPassLand => Sys2Proof.Machine.execMatrixPassLand s
  | .matrixRowStep => Sys2Proof.Machine.execMatrixRowStep s
  | .matrixCommandComplete => Sys2Proof.Machine.execMatrixCommandComplete s
  | .weightLoadComplete => Sys2Proof.Machine.execWeightLoadComplete s
  | .mxsmpSample => Sys2Proof.Machine.execMxsmpSample s
  | .mxsmpCheck => Sys2Proof.Machine.execMxsmpCheck s
  | .copyBlockArrival => Sys2Proof.Machine.execCopyBlockArrival s
  | .copyPageFault => Sys2Proof.Machine.execCopyPageFault s
  | .copyCommandComplete => Sys2Proof.Machine.execCopyCommandComplete s
  | .networkPortAccess => Sys2Proof.Machine.execNetworkPortAccess s
  | .poolBankAccess => Sys2Proof.Machine.execPoolBankAccess s
  | .deviceMemoryAccess => Sys2Proof.Machine.execDeviceMemoryAccess s
  | .postedFaultTaken => Sys2Proof.Machine.execPostedFaultTaken s
  | .dispatch => Sys2Proof.Machine.execDispatch s
  | .schedulerPreempt => Sys2Proof.Machine.execSchedulerPreempt s
  | .contextSave => Sys2Proof.Machine.execContextSave s
  | .contextRestore => Sys2Proof.Machine.execContextRestore s
  | .faultRecordWrite => Sys2Proof.Machine.execFaultRecordWrite s
  | .joinCounterDecrement => Sys2Proof.Machine.execJoinCounterDecrement s
  | .walkerStepPush => Sys2Proof.Machine.execWalkerStepPush s
  | .spillReturn => Sys2Proof.Machine.execSpillReturn s
  | .neighbourAveraging => Sys2Proof.Machine.execNeighbourAveraging s
  | .workUnitArrival => Sys2Proof.Machine.execWorkUnitArrival s
  | .electionWindowEnd => Sys2Proof.Machine.execElectionWindowEnd s
  | .start => Sys2Proof.Machine.execStart s
  | .warmReset => Sys2Proof.Machine.execWarmReset s
  | .memready => Sys2Proof.Machine.execMemready s
  | .powerBackstop => Sys2Proof.Machine.execPowerBackstop s

end Sys2Proof.Machine
end

