-- ==== Sys2Proof/Machine/Issue.lean ====
section
/-!
DEFINITION. The issue of a context in one reference cycle (spec/03 R22 to R45, spec/05 R66, R67, spec/09 R107 to R111, R121 to R123,
R375): what its strands offer, what is held, what faults, what issues, and what follows the bundles that issued.
-/

namespace Sys2Proof.Machine

/-- An outcome carried on. -/
def andThen {α β : Type} (r : Host.Outcome α Fault Refusal) (f : α → Host.Outcome β Fault Refusal) : Host.Outcome β Fault Refusal :=
  match r with
  | .next a => f a
  | .fault e => .fault e
  | .refused e => .refused e

/-! ### Cursors and checks -/

/-- The operations of an offer by slot. -/
def Offer.instrs (o : Offer) : List (Nat × Instr) := o.ops.map fun p => (p.1, p.2.1)

/-- The place of an offer among those of its cycle: by its strand's lowest slot, and by its own where a strand has several. -/
def Offer.order (o : Offer) : Nat := 16 * o.strand.low + leastOr 8 (o.ops.map fun p => p.1)

/-- The cursor with which the operations of an offer run. -/
def State.cursorOf (s : State) (core x : Nat) (o : Offer) (others : List (Nat × Instr)) (mode : Mode) : Cursor :=
  { Cursor.reset with
    core := core, x := x, strand := o.strand.id, ba := o.ba, nw := o.nw, exposed := o.x, bundle := o.instrs, others := others,
    mode := mode, isRepeat := o.rep, seq0 := s.seqN }

/-- An operation run with a cursor. -/
def State.runWith (s : State) (c : Cursor) (p : Nat × Instr × W64) : Host.Outcome State Fault Refusal :=
  exec p.2.1 { s with cur := { c with slot := p.1, word := p.2.2 } }

/-- What the checks of an operation say. -/
def verdictOf (r : Host.Outcome State Fault Refusal) : Verdict :=
  match r with
  | .next t => t.cur.verdict
  | _ => .ok

/-- What the checks of a bundle say: a stall, then a hold, then the fault of the lowest slot (R36, R66, R375). -/
def joinVerdicts (l : List Verdict) : Verdict :=
  if l.any fun v => decide (v = .held true) then .held true
  else if l.any fun v => decide (v = .held false) then .held false
  else (l.find? fun v => decide (v ≠ .ok)).getD .ok

/-- What stands in the way of an offer: a fault of its words or of its crossing, a hold, or a fault of its operations. -/
def State.judge (s : State) (core x : Nat) (others : List (Nat × Instr)) (o : Offer) : Verdict :=
  match o.bad with
  | some e => .faulted e
  | none =>
    match (if o.crosses then s.crossingFault core x o else none) with
    | some e => .faulted e
    | none => joinVerdicts (o.ops.map fun p => verdictOf (s.runWith (s.cursorOf core x o others .probe) p))

/-- A crossing that passes its checks and has not been drained for: nobody issues until it is (R38). -/
def State.mustDrain (s : State) (core x : Nat) (o : Offer) : Bool :=
  o.crosses && (s.crossingFault core x o).isNone && !s.drained core x

/-! ### Refusals of the secondary context (R22, R23) -/

/-- An operation of issue interval above 1 (R70). VLDX counts in LOCAL alone: R23 names it without a space, and R70 and the entry of R198
give it interval 8 only there (log entry 36). -/
def slowOp (w : W64) (i : Instr) : Bool :=
  let maj := (field w 52 7).toNat
  decide (maj = 0x40 ∨ maj = 0x41 ∨ maj = 0x44 ∨ maj = 0x48)
    || (match i with
      | .vldx f => decide (f.space = 0#3)
      | .vstx _ => true
      | .vsfu _ => true
      | _ => false)

/-- A slot of the offer holds a primary operation of this cycle (R22). -/
def State.taken (s : State) (core x : Nat) (o : Offer) : Bool := decide (x = 1 ∧ o.slots &&& (s.core core).occupied ≠ 0#8)

/-- The offer may not issue beside the primary context (R22, R23). -/
def State.refuses (s : State) (core x : Nat) (o : Offer) : Bool :=
  s.taken core x o || (decide (x = 1) && s.primaryExposed core && o.ops.any fun p => slowOp p.2.2 p.2.1)

/-- The cycles for which the ready bundles of secondary strands have been refused under R22 (R45). -/
def State.starve (s : State) (core x : Nat) (refused : List Offer) : State :=
  if x ≠ 1 ∨ (refused.isEmpty ∧ (s.core core).starved.isEmpty) then s
  else s.modCore core fun k => { k with
    starved := refused.map fun o => (o.strand.id, lookupD 0 k.starved o.strand.id + k.divisor 0) }

/-! ### Effects -/

/-- A state, and the cursors of the offers that issue. -/
abbrev Issuing := State × List (Offer × Cursor)

/-- The operation in one slot takes effect. -/
def commitSlot (z : Issuing) (slot : Nat) : Host.Outcome Issuing Fault Refusal :=
  match z.2.find? fun e => e.1.ops.any fun p => decide (p.1 = slot) with
  | none => .next z
  | some e =>
    match e.1.ops.find? fun p => decide (p.1 = slot) with
    | none => .next z
    | some p => andThen (z.1.runWith e.2 p) fun t => .next (t, z.2.map fun q => if q.1.slots = e.1.slots then (q.1, t.cur) else q)

/-- The operations of a cycle take effect, slot by slot. -/
def commitSlots : List Nat → Issuing → Host.Outcome Issuing Fault Refusal
  | [], z => .next z
  | i :: r, z => andThen (commitSlot z i) (commitSlots r)

/-- The operations of several offers but those of one. -/
def othersOf (os : List Offer) (o : Offer) : List (Nat × Instr) := (os.filter fun q => decide (q.slots ≠ o.slots)).flatMap Offer.instrs

/-- The operations of several offers take effect. -/
def State.commit (s : State) (core x : Nat) (os : List Offer) : Host.Outcome Issuing Fault Refusal :=
  commitSlots (upTo 8) (s, os.map fun o => (o, s.cursorOf core x o (othersOf os o) .commit))

/-- With these offers issued, the pending-writeback queue holds more than its 64 entries, the links of their CALLs among
them (R40). -/
def tooMany (z : Issuing) (core x : Nat) (o : Offer) : Bool :=
  let links := (z.2.flatMap fun e => if e.1.x then (settleActs e.2.acts).1.filter SeqAct.isCall else []).length
  o.x && decide (64 < (z.1.ctx core x).pendingCount + links)

/-- The slot of the operation with which an offer overflows the pending-writeback queue. -/
def State.overflowSlot (s : State) (core x : Nat) (before : List Offer) (o : Offer) : Nat :=
  ((o.ops.find? fun p =>
    match s.commit core x (before ++ [{ o with ops := o.ops.filter fun q => decide (q.1 ≤ p.1) }]) with
    | .next z => tooMany z core x o
    | _ => false).map fun p => p.1).getD o.strand.low

/-- The fault of an offer that overflows the pending-writeback queue behind the offers of lower slots (R40). -/
def State.overflow (s : State) (core x : Nat) (before : List Offer) (o : Offer) : Option Exn :=
  if !o.x then none
  else match s.commit core x (before ++ [o]) with
    | .next z => if tooMany z core x o then some ⟨causeOVERFLOW, 0xFF#64, s.overflowSlot core x before o⟩ else none
    | _ => none

/-- What stands in the way of an offer beside those that issue with it (R32, R34, R36, R40, R66). -/
def State.judgeBeside (s : State) (core x : Nat) (l : List Offer) (o : Offer) : Verdict :=
  match s.judge core x (othersOf l o) o with
  | .ok => match s.overflow core x (l.filter fun q => decide (q.order < o.order)) o with
    | some e => .faulted e
    | none => .ok
  | v => v

/-- The parts of a list, those with its first entries first. -/
def choices {α : Type} : List α → List (List α)
  | [] => [[]]
  | a :: r => (choices r).map (a :: ·) ++ choices r

/-- A set of offers issues exactly those of the cycle that pass beside it. -/
def State.consistent (s : State) (core x : Nat) (os l : List Offer) : Bool :=
  os.all fun o => decide (s.judgeBeside core x l o = .ok) == l.any fun q => decide (q.slots = o.slots)

/-- The offers that issue together: what one of them pops, pushes or joins counts for the others exactly where it issues (R32, R34,
R36). Of several such sets it is the one that favours the lower slots, and where there is none the offers are taken one by one in
ascending slots (log entry 36). -/
def State.together (s : State) (core x : Nat) (os : List Offer) : List Offer :=
  ((choices os).find? (s.consistent core x os)).getD
    (os.foldl (fun l o => if s.judgeBeside core x l o = .ok then l ++ [o] else l) [])

/-- The faults of the offers that do not issue beside the others. -/
def State.faultsBeside (s : State) (core x : Nat) (os l : List Offer) : List (Offer × Exn) :=
  os.filterMap fun o => match s.judgeBeside core x l o with
    | .faulted e => some (o, e)
    | _ => none

/-! ### After the bundles -/

/-- A bundle or a repeat has issued: its repeat is counted, and its end is made (R107 to R111). -/
def State.afterOffer (s : State) (e : Offer × Cursor) : State :=
  let t := { s with cur := e.2 }
  match e.1.rep, exec .repRepeatIssue t with
  | true, .next u => State.endBundle { u with cur := e.2 } e.1
  | _, _ => t.endBundle e.1

/-- A fault that a strand may take in this cycle: its lowest slot, the strand, cause, slot, TVAL, TEPC, and the repeat that it
disarms. -/
structure Candidate where
  low : Nat
  strand : Nat
  exn : Exn
  tepc : W64
  disarm : Option Nat
  deriving DecidableEq, Repr

/-- Of the strands that fault in one cycle, the one with the lowest slot takes its fault (R35). -/
def State.takeLowest (s : State) (core x : Nat) (l : List Candidate) : State :=
  let low := leastOr 8 (l.map Candidate.low)
  match l.find? fun c => decide (c.low = low) with
  | none => s
  | some c =>
    let s1 := match c.disarm with
      | some n => s.modCtx core x fun k => k.setRepeat n none
      | none => s
    { s1.takeFault core x c.strand c.exn.code c.exn.slot c.exn.tval c.tepc true with freeN := s1.freeN + 1 }

/-- The fault of an offer. -/
def Offer.candidate (o : Offer) (e : Exn) : Candidate := ⟨o.strand.low, o.strand.id, e, o.ba, o.disarm⟩

/-- What TRAP asks for after its bundle: TEPC is the address that the strand would have issued next, that of its target where a
repeat comes next (R110, R121). -/
def State.trapOf (s : State) (core x : Nat) (e : Offer × Cursor) : Option Candidate :=
  e.2.trap.map fun c =>
    let slot := ((e.1.ops.find? fun p => match p.2.1 with | .trap _ => true | _ => false).map fun p => p.1).getD e.1.strand.low
    let k := s.ctx core x
    ⟨e.1.strand.low, e.1.strand.id, ⟨causeTRAP, zext64 c, slot⟩, k.nextAddress (k.strandD e.1.strand.id), none⟩

/-- TEND and TCONT check the guards of the context as R38 does (R309); TEPC is their bundle's address. -/
def State.tendFault (s : State) (core x : Nat) (e : Offer × Cursor) : Option Candidate :=
  if e.2.tend.isSome && s.unresolvedGuard core x 0 then
    some ⟨e.1.strand.low, e.1.strand.id, ⟨causeENGINE, Config.openWord s.freeN, e.1.strand.low⟩, e.1.ba, none⟩
  else none

/-- HALT, TEND, TCONT and TYIELD after their bundle (R123, R309 to R311). -/
def State.conclude (s : State) (core x : Nat) (e : Offer × Cursor) : State :=
  match e.2.halt, e.2.tend, e.2.yield with
  | some code, _, _ =>
    (s.modCtx core x fun k => { k with state := .halted }).notify (.halt core x ((s.ctx core x).strandD e.1.strand.id).pc code)
  | _, some cont, _ =>
    s.modCtx core x fun k => k.modStrand e.1.strand.id fun t => { t with waits := t.waits ++ [.tend cont], waitBa := e.1.ba }
  | _, _, true => s.modCtx core x fun k => { k with drain := .yield }
  | _, _, _ => s

/-- The slots of the bundles that issued are occupied (R22). -/
def State.occupy (s : State) (core : Nat) (os : List Offer) : State :=
  s.modCore core fun k => { k with occupied := os.foldl (fun m o => m ||| o.slots) k.occupied }

/-- The end of the cycle's issue: the ends of the bundles, the JOINs, then the fault of the lowest strand among those that
fault, or what the bundles ask for. -/
def State.settleIssue (s : State) (core x : Nat) (es : List (Offer × Cursor)) (bad : List (Offer × Exn)) : State :=
  let s1 := es.foldl State.afterOffer (s.occupy core (es.map fun e => e.1))
  let j := s1.joins core x 4
  let broken (t : Strand) : Candidate := ⟨t.low, t.id, ⟨causeJOIN, zext64 (t.joinMask.getD 0), t.low⟩, t.waitBa, none⟩
  let faults := bad.map (fun b => b.1.candidate b.2) ++ j.2.map broken ++ es.filterMap (j.1.trapOf core x)
    ++ es.filterMap (j.1.tendFault core x)
  if faults.isEmpty then es.foldl (fun s e => s.conclude core x e) j.1 else j.1.takeLowest core x faults

/-- The cycle counts as an issue cycle of the context, or does not (R24). -/
def State.counted (s : State) (core x : Nat) (b : Bool) : State := s.modCtx core x fun k => { k with counts := b }

/-! ### The issue of a cycle -/

/-- One operation offered alone runs whole: its checks, then its effect or its fault. -/
def State.issueWhole (s : State) (core x : Nat) (o : Offer) (p : Nat × Instr × W64) : Host.Outcome State Fault Refusal :=
  andThen (s.runWith (s.cursorOf core x o [] .whole) p) fun t =>
    match t.cur.verdict with
    | .ok => .next ((t.settleIssue core x [(o, t.cur)] []).counted core x true)
    | .held true => .next (t.counted core x false)
    | .held false => .next (t.counted core x true)
    | .faulted _ => .next (t.counted core x (decide (x = 0)))

/-- Offers that issue together, and the faults of others, which are taken at the end. `waiting` counts the ready offers that were
refused (R22 to R24). -/
def State.issueReady (s : State) (core x : Nat) (good : List Offer) (bad : List (Offer × Exn)) (waiting : Nat) :
    Host.Outcome State Fault Refusal :=
  andThen (s.commit core x good) fun y =>
    .next ((y.1.settleIssue core x y.2 bad).counted core x
      (decide (x = 0) || !good.isEmpty || decide (waiting + bad.length = 0)))

/-- The issue of a running context that neither drains nor is withheld (R22 to R24, R36, R38). -/
def State.issueOffers (s : State) (core x : Nat) : Host.Outcome State Fault Refusal :=
  let os := s.offers core x
  if os.any (s.mustDrain core x) then .next ((s.modCtx core x fun k => { k with drain := .crossing }).counted core x true)
  else
    if os.any fun o => decide (s.judge core x [] o = .held true) then .next ((s.starve core x []).counted core x false)
    else
      let live := os.filter fun o => !s.refuses core x o
      let good := s.together core x live
      let refused := os.filter fun o => s.refuses core x o && decide (s.judgeBeside core x good o ≠ .held false)
      (s.starve core x (refused.filter (s.taken core x))).issueReady core x good (s.faultsBeside core x live good) refused.length

/-- TEND or TCONT is among the operations of an offer. -/
def Offer.ends (o : Offer) : Bool :=
  o.ops.any fun p => match p.2.1 with
    | .tend _ => true
    | .tcont _ => true
    | _ => false

/-- A context that a pre-emption takes at this boundary: a fault that one of its bundles raises there is taken first, that of a TEND
after the other operations of its bundle (R309, R320). -/
def State.leave (s : State) (core x : Nat) : Host.Outcome State Fault Refusal :=
  let os := (s.offers core x).filter fun o => !s.refuses core x o
  let held := decide ((s.ctx core x).drain ≠ .none) || os.any (s.mustDrain core x)
    || os.any fun o => decide (s.judge core x [] o = .held true)
  if held then .next (s.stopContext core x false)
  else
    let good := s.together core x os
    andThen (s.commit core x (good.filter Offer.ends)) fun y =>
      if (y.2.filterMap (y.1.tendFault core x)).isEmpty then
        .next ((s.takeLowest core x ((s.faultsBeside core x os good).map fun b => b.1.candidate b.2)).stopContext core x false)
      else .next ((y.1.settleIssue core x y.2 []).stopContext core x false)

/-- The context issues in this cycle of the control domain (R22, R24, R38, R45). -/
def State.issue (s : State) (core x : Nat) : Host.Outcome State Fault Refusal :=
  let k := s.ctx core x
  if !(s.controlTick core && k.running) then .next (if s.controlTick core then s.starve core x [] else s)
  else if k.leaving then (s.starve core x []).leave core x
  else if k.drain ≠ .none then .next ((s.starve core x []).counted core x true)
  else if x = 0 ∧ (s.core core).withheld then .next s
  else match s.offers core x with
    | [o] =>
      match o.ops with
      | [p] => if o.bad.isSome ∨ o.crosses ∨ s.refuses core x o then s.issueOffers core x
          else (s.starve core x []).issueWhole core x o p
      | _ => s.issueOffers core x
    | _ => s.issueOffers core x

end Sys2Proof.Machine
end

