-- ==== Sys2Proof/Machine/Clock.lean ====
section
/-!
DEFINITION. One reference cycle as the order of its indivisible steps (log entry 3): what the host and the power controller ask
for, the engines and the schedulers, the issue of the contexts, the camp cores, the matrix engine, the accesses, the landings; and
the end of the cycle (spec/03 R22, R24, R45; spec/17 R212 to R235; spec/19 R248, R251, R261; spec/27 R342; spec/29 R353 to R357).
-/

namespace Sys2Proof.Machine

/-! ### Lists of turns -/

/-- An event of the device, of a core, of a context, of a strand, or with a subject of its own. -/
def devTurn (i : Instr) : Turn := .event i 0 0 0 0 0
def coreTurn (i : Instr) (core : Nat) : Turn := .event i core 0 0 0 0
def ctxTurn (i : Instr) (core x : Nat) : Turn := .event i core x 0 0 0
def strandTurn (i : Instr) (core x strand : Nat) : Turn := .event i core x strand 0 0
def idTurn (i : Instr) (core x id : Nat) : Turn := .event i core x 0 0 id

/-- Turns where a condition holds. -/
def turnsIf (b : Bool) (l : List Turn) : List Turn := if b then l else []

/-- The cores that hold anything, ascending. -/
def State.activeCores (s : State) : List Nat :=
  let l := s.cores.map (·.1) ++ s.ctxs.map (fun e => e.1 / 2) ++ s.spills.map (fun e => e.2.1)
  (sortOn id l).foldr (fun c r => if r.head? = some c then r else c :: r) []

/-! ### Stage 0: the host and the power controller -/

/-- What a cluster's power state waits for; an exit finds parity failures that the manual leaves open (R335). -/
def State.powerTurn (s : State) (p : Nat × Power) (n : Nat) : List Turn :=
  match p.2 with
  | .entering => [devTurn (.retentionEntry p.1)]
  | .gating => [devTurn (.clusterGate p.1)]
  | .waking due => turnsIf (decide (due ≤ s.now)) [devTurn (.clusterWake p.1)]
  | .exiting due => turnsIf (decide (due ≤ s.now)) [devTurn (.retentionExit p.1
      ((coresOf p.1).flatMap fun c => [(c, 0, BitVec.ofNat 6 (Config.order (n + 2 * c))),
        (c, 1, BitVec.ofNat 6 (Config.order (n + 2 * c + 1)))]))]
  | _ => []

/-- Contexts in some state: restores that end, saves, and records that wait for the ring. -/
def State.contextTurns (s : State) (i : Instr) (p : CtxState → Bool) : List Turn :=
  s.ctxs.filterMap fun e => if p e.2.state then some (ctxTurn i (e.1 / 2) (e.1 % 2)) else none

def CtxState.isStarting : CtxState → Bool
  | .starting _ => true
  | _ => false

/-- The switch of a retirement, from which what was held is served in the order of arrival (R240). -/
def isSwitch (i : Instr) : Bool :=
  match i with
  | .retirementSwitch _ _ => true
  | _ => false

/-- What happens in device memory itself: a host request, which is served among the accesses there in the order of arrival, and the switch
of a retirement (R240). -/
def isMemoryRequest (i : Instr) : Bool :=
  match i with
  | .hostBar2Access _ _ _ => true
  | i => isSwitch i

/-- An alert of a sensor: the readings raise it, and no input of the outside world (R360). -/
def isAlert (i : Instr) : Bool :=
  match i with
  | .thermalAlert _ _ _ _ => true
  | _ => false

/-- The alerts of a cycle (R360). -/
def State.alertTurns (s : State) : List Turn :=
  (upTo 4).flatMap fun d => (upTo 16).flatMap fun i => [95, 100].filterMap fun t =>
    (s.crossing d i t).map fun up => devTurn (.thermalAlert d i t up)

def State.hostTurns (s : State) : List Turn :=
  ((s.inputs.filter fun i => decide (i.1 ≤ s.now) && !isMemoryRequest i.2 && !isAlert i.2).map fun i => devTurn i.2)
    ++ (match s.cmdRun with
      | some (due, i) => turnsIf (decide (due ≤ s.now)) [devTurn i]
      | none => [])
    ++ turnsIf s.election.isSome [devTurn .electionWindowEnd]
    ++ (s.cores.filterMap fun c => if c.2.cadHold.isSome then some (devTurn (.backstopHoldEnd c.1)) else none)
    ++ (s.settled.map fun p => devTurn (.settleExpiry p.1))
    ++ (s.migrating.map fun p => devTurn (.migrationComplete p.1))
    ++ (s.powers.flatMap fun p => s.powerTurn p s.freeN)
    ++ turnsIf (s.resetting && decide (Config.trainCycles ≤ s.now)) [devTurn .memready]
    ++ (s.cores.filterMap fun c => if c.2.switchEnd.isSome then some (coreTurn .clockModeSwitchDone c.1) else none)
    ++ s.alertTurns
    ++ turnsIf s.overheated [devTurn .powerBackstop]
    ++ s.contextTurns .contextRestore CtxState.isStarting

/-- The host's stage: what is due leaves the inputs. -/
def State.hostStage (s : State) : State :=
  { s with
    agenda := s.hostTurns, inputs := s.inputs.filter (fun i => !decide (i.1 ≤ s.now) || isMemoryRequest i.2), freeN := s.freeN + 512,
    stage := 0 }

/-! ### Stage 1: the engines' starts and the schedulers -/

/-- The commands of a queue in the order in which their contexts are served: copies alternate (R25), Q1 and Q3 by position. -/
def Core.startOrder (k : Core) (q : Nat) : List Cmd :=
  let l := (k.queue q).filter fun c => decide (c.state = .waiting ∨ c.state = .stopped)
  if q % 2 = 1 then sortOn Cmd.x l
  else
    let first := 1 - (if q = 0 then k.lastIn else k.lastOut)
    (l.filter fun c => decide (c.x = first)) ++ l.filter fun c => decide (c.x ≠ first)

def Core.completionTurns (k : Core) (core : Nat) : List Turn :=
  (k.queue 1).map (fun c => idTurn .matrixCommandComplete core c.x c.id)
    ++ (k.queue 3).map (fun c => idTurn .weightLoadComplete core c.x c.id)
    ++ ([0, 2].flatMap k.queue).filterMap fun c =>
      if c.state = .finishing then some (idTurn .copyCommandComplete core c.x c.id) else none

def Core.startTurns (k : Core) (core : Nat) : List Turn :=
  (upTo 4).flatMap fun q => (k.startOrder q).map fun c => idTurn .engineCommandStart core c.x c.id

/-- A context of a core may take a unit: the secondary one first, since TENSOR units wait for the primary (R299). -/
def State.dispatchTurns (s : State) (core : Nat) : List Turn :=
  [1, 0].flatMap fun x => match (s.ctx core x).state with
    | .free => turnsIf (!(s.queued core).isEmpty) [ctxTurn .dispatch core x]
    | .held => [ctxTurn .dispatch core x]
    | _ => []

def CtxState.isStopping : CtxState → Bool
  | .stopping _ _ _ => true
  | _ => false
def CtxState.isRecording : CtxState → Bool
  | .recording _ _ => true
  | .ending _ _ _ _ => true
  | _ => false

/-- The block's bytes are on their way to the scratchpad of the core that copies, whose local port takes them (R147). -/
def Core.landsLocal (k : Core) (b : CopyBlock) : Bool :=
  b.data.isSome && ((k.cmd? b.cmd).map fun c => c.inward && !c.ordered).getD true

/-- Blocks whose time has come, with their core, those for the local port or the others; what a mode switch has held at the local port is
taken with the arrivals of the network port, in the order of arrival (R357). -/
def State.dueBlocks (s : State) (loc : Bool) : List (Nat × CopyBlock) :=
  let here (k : Core) (b : CopyBlock) : Bool := k.landsLocal b && !(k.thawed && decide (b.due < s.now))
  s.cores.flatMap fun k => (k.2.blocks.filter fun b => decide (b.due ≤ s.now) && decide (here k.2 b = loc)).map fun b => (k.1, b)

def blockTurn (b : Nat × CopyBlock) : Turn := idTurn .copyBlockArrival b.1 b.2.x b.2.id

/-- Blocks that the local ports take (R147, R160). -/
def State.localTurns (s : State) : List Turn := (s.dueBlocks true).map blockTurn

def State.workTurns (s : State) : List Turn :=
  (s.cores.flatMap fun c => c.2.completionTurns c.1)
    ++ (s.cores.flatMap fun c => c.2.startTurns c.1)
    ++ turnsIf (decide (s.now % Config.averagePeriod = 0)) [devTurn .neighbourAveraging]
    ++ s.activeCores.flatMap s.dispatchTurns
    ++ s.contextTurns .contextSave CtxState.isStopping
    ++ s.contextTurns .faultRecordWrite CtxState.isRecording
    ++ (s.records.map fun _ => ctxTurn .faultRecordWrite 256 0)
    ++ turnsIf (!s.blocks.isEmpty) ((upTo 4).map fun d => coreTurn .walkerStepPush d)
    ++ (s.activeCores.filterMap fun c =>
      if s.spills.any fun e => decide (e.2.1 = c) then some (coreTurn .spillReturn c) else none)
    ++ (s.transits.map fun t => idTurn .workUnitArrival t.core 0 t.id)
    ++ (s.decs.map fun d => idTurn .joinCounterDecrement 0 0 d.id)
    ++ s.localTurns

/-! ### Stage 2: the contexts -/

/-- Contexts whose first cycle has come run. -/
def State.beginRuns (s : State) : State :=
  { s with ctxs := s.ctxs.map fun e =>
      if s.begins (e.1 / 2) (e.1 % 2) then (e.1, { e.2 with state := .running, ranSince := s.now }) else e }

/-- The events of a wait of a strand. -/
def Strand.turnsOf (t : Strand) (core x : Nat) (w : Wait) : List Turn :=
  match w with
  | .join _ => []
  | .bar _ _ _ _ => [strandTurn .completionWaitEnd core x t.id, strandTurn .barwaitTimeout core x t.id]
  | .block _ _ _ _ => [strandTurn .blockAccept core x t.id]
  | .tend _ => [strandTurn .taskEnd core x t.id]
  | _ => [strandTurn .completionWaitEnd core x t.id]

/-- The events of a strand that waits. -/
def Strand.waitTurns (t : Strand) (core x : Nat) : List Turn := t.waits.flatMap (t.turnsOf core x)

/-- The events of a context before it issues. -/
def Ctx.eventTurns (k : Ctx) (core x : Nat) : List Turn :=
  (match k.drain with
    | .crossing => [ctxTurn .crossingDrainEnd core x]
    | .tret => [ctxTurn .tretResume core x]
    | .clkdiv _ => [ctxTurn .clkdivApply core x]
    | _ => [])
    ++ ((sortStrands k.strands).flatMap fun t => t.waitTurns core x)
    ++ turnsIf (!k.posted.isEmpty) [ctxTurn .postedFaultTaken core x]

/-- A core's stage: its contexts' events, relief and pre-emption, and then their issue, the primary context first (R22). -/
def State.coreTurns (s : State) (core : Nat) : List Turn :=
  let live (x : Nat) : Bool := (s.ctx core x).unit.isSome
  turnsIf (live 0) ((s.ctx core 0).eventTurns core 0)
    ++ turnsIf (live 1) ((s.ctx core 1).eventTurns core 1)
    ++ turnsIf (!(s.core core).starved.isEmpty) [coreTurn .secondaryStarvationRelief core]
    ++ turnsIf (live 0) [ctxTurn .schedulerPreempt core 0]
    ++ turnsIf (live 1) [ctxTurn .schedulerPreempt core 1]
    ++ turnsIf (live 0) [.issue core 0]
    ++ turnsIf (live 1) [.issue core 1]

def State.issueStage (s : State) : State :=
  let t := s.beginRuns
  { t with agenda := t.activeCores.flatMap t.coreTurns, stage := 2 }

/-! ### Stage 3: the waits of this cycle's bundles (R375), and the camp cores (R342) -/

/-- A wait that its bundle's own cycle satisfies ends in it: the strand issues in the next one (R261, R375). -/
def State.freshWaits (s : State) : List Turn :=
  s.ctxs.flatMap fun e => e.2.strands.flatMap fun t => t.waits.flatMap fun w =>
    match w with
    | .cb _ _ | .count _ _ _ _ | .all _ | .bar _ _ _ _ | .tok _ => t.turnsOf (e.1 / 2) (e.1 % 2) w
    | _ => []

/-- A camp cycle falls into this reference cycle or not: the clocks have no fixed relation. -/
def State.campStage (s : State) : State :=
  { s with
    agenda := s.freshWaits ++ (s.camps.filter fun c => c.2.running && Config.choice (s.freeN + c.1)).map fun c => .camp c.1
    freeN := s.freeN + 128
    stage := 3 }

/-! ### Stage 4: the matrix engine and the weight stream -/

def Core.matrixTurns (k : Core) (core : Nat) : List Turn :=
  let q1 := (k.queue 1).filter fun c => decide (c.state = .running)
  let of1 (i : Instr) : List Turn := q1.map fun c => idTurn i core c.x c.id
  of1 .matrixReloadDone ++ of1 .mxsmpCheck ++ of1 .matrixPassInject ++ of1 .mxsmpSample ++ of1 .matrixRowStep
    ++ ((k.queue 3).filterMap fun c => if c.state = .running then some (idTurn .weightLoadComplete core c.x c.id) else none)
    ++ ((k.flights.filter fun f => decide (f.left = 0)).map fun _ => coreTurn .matrixPassLand core)
    ++ of1 .matrixCommandComplete

/-! ### Stage 5: copies issue their blocks, whose LOCAL sources are read before the network ports act (R147); accesses and arrivals -/

/-- Where an access acts now. -/
def Served.event : Served → Option Instr
  | .port => some .networkPortAccess
  | .bank => some .poolBankAccess
  | .stack => some .deviceMemoryAccess
  | .accept => some .destinationAccept
  | .core => none

/-- The switches of retirements, the operations on pairs, in ascending core ID (R342), and then accesses and copy blocks in the order in
which they have reached their places (R240, R357), of those that agree the lower core first. -/
def State.accessTurns (s : State) : List Turn :=
  let l := s.accs.filter fun a => !a.done && decide (a.due ≤ s.now)
  let turn (a : Access) : List Turn := (a.served.event.map fun i => idTurn i a.core a.x a.id).toList
  let others : List (Nat × Nat × List Turn) := ((l.filter fun a => !a.onPair).map fun a => (a.due, a.core, turn a))
    ++ (s.dueBlocks false).map (fun b => (b.2.due, b.1, [blockTurn b]))
    ++ (s.inputs.filter fun i => decide (i.1 ≤ s.now) && isMemoryRequest i.2 && !isSwitch i.2).map fun i => (i.1, 0, [devTurn i.2])
  ((s.inputs.filter fun i => decide (i.1 ≤ s.now) && isSwitch i.2).map fun i => devTurn i.2)
    ++ ((sortOn Access.core (l.filter Access.onPair)).flatMap turn)
    ++ (sortOn (fun e => e.1) (sortOn (fun e => e.2.1) others)).flatMap fun e => e.2.2

def State.copyTurns (s : State) : List Turn :=
  (s.cores.flatMap fun k => ([0, 2].flatMap k.2.queue).map fun c => idTurn .copyPageFault k.1 c.x c.id)
    ++ (s.cores.flatMap fun k => ([0, 2].flatMap k.2.queue).filterMap fun c =>
      if c.state = .running then some (idTurn .copyCommandComplete k.1 c.x c.id) else none)

/-! ### Stage 6: landings -/

def State.landTurns (s : State) : List Turn :=
  (s.accs.map fun a => idTurn .variableResultLand a.core a.x a.id)
    ++ s.ctxs.flatMap fun e =>
      turnsIf (!e.2.pend.isEmpty) [ctxTurn .writebackLand (e.1 / 2) (e.1 % 2)]
        ++ turnsIf (!e.2.tableLoads.isEmpty) [ctxTurn .sfuTableReady (e.1 / 2) (e.1 % 2)]

/-! ### The end of a reference cycle -/

/-- One cycle less of a timeout (R261, R325). -/
def Wait.countDown : Wait → Wait
  | .bar b p d (some n) => .bar b p d (some (n - 1))
  | w => w

/-- An issue cycle of a context ends: ISSUE, the bubbles of its strands and its table loads count (R24, R104, R120, R187). -/
def Ctx.issueCycle (k : Ctx) : Ctx :=
  { k with issue := k.issue + 1, strands := k.strands.map fun t => { t with bubbles := t.bubbles - 1 } }

/-- A context at the end of a reference cycle: counters, barriers (R251) and FEREC (R96). -/
def State.tickCtx (s : State) (core x : Nat) (k : Ctx) : Ctx :=
  let k1 := if k.counts then k.issueCycle else k
  let k2 := if s.pendCounts core x then { k1 with tableLoads := k1.tableLoads.map fun l => { l with left := l.left - 1 } } else k1
  let k3 := if decide (k.state = .running ∨ k.state = .halted) && s.awake core then
      { k2 with strands := k2.strands.map fun t => { t with waits := t.waits.map Wait.countDown } }
    else k2
  { k3.closeBarriers.recordFlags with counts := false }

/-- A command of Q1 or Q3 at the end of a matrix cycle: where the cycle was its own, what it waits for is a cycle nearer. So the cycles of
an MXDRAIN from its last row on count in its own windows alone, and those of the row itself in every cycle (R215; log entry 36). -/
def Cmd.matrixTick (c : Cmd) (on : Bool) : Cmd :=
  if c.state = .running ∧ on then { c with wait := c.wait - 1, reload := c.reload - 1, turn := false } else c

/-- The matrix cycle that begins is the one of the commands whose context the array serves now: it stays theirs to its end, also where a
push or the end of a window falls into it (R43, R44; log entry 36). -/
def State.giveTurns (s : State) (core : Nat) (k : Core) : Core :=
  if s.engineTick core 2 then
    k.setQueue 1 ((k.queue 1).map fun c => { c with turn := s.mayRun core c.x && s.engineOn core c.x })
  else k

/-- A core at the end of a reference cycle. A slot's busy time counts control-domain cycles, so it stands still in a mode switch,
which has none (R72, R357; log entry 36). A droop's cycle is stretched over the next reference cycle (R355). -/
def State.tickCore (s : State) (core : Nat) (k : Core) : Core :=
  let k1 := if s.engineLast core 2 then
      { (k.setQueue 1 ((k.queue 1).map fun c => c.matrixTick c.turn)).setQueue 3
          ((k.queue 3).map fun c => c.matrixTick true)
        with flights := k.flights.map fun f => { f with left := f.left - 1 } }
    else k
  let hit := setOf ((upTo 4).filter fun d => k.droops.getLsbD d && s.domainTick core d)
  { k1 with
    busy := if s.controlTick core then k1.busy.map fun n => n - 1 else k1.busy
    occupied := 0
    droops := k.droops &&& ~~~hit
    stretched := hit
    skew := Vector.ofFn fun d : Fin 4 => k.skew[d] + (if hit.getLsbD d.val then 1 else 0)
    withheld := k1.withheld && !s.controlTick core
    thawed := false }

/-- The contexts whose TYIELD has issued stop at the end of its issue cycle, which counts for their commands as every other (R311, R326). -/
def State.stopYielded (s : State) : State :=
  s.ctxs.foldl (fun s e =>
    if e.2.drain = .yield ∧ s.domainTime (e.1 / 2) 0 % (s.core (e.1 / 2)).divisor 0 = 0 ∧ (s.core (e.1 / 2)).stretched.getLsbD 0 = false then s.stopContext (e.1 / 2) (e.1 % 2) true else s) s

/-- The end of a reference cycle. -/
def State.tick (s : State) : State :=
  let s1 := s.cores.foldl (fun s c => s.landSignals c.1) s
  let s2 : State := { s1 with ctxs := s1.ctxs.map fun e => (e.1, s1.tickCtx (e.1 / 2) (e.1 % 2) e.2) }
  let s3 : State := { s2 with cores := s2.cores.map fun c => (c.1, s2.tickCore c.1 c.2) }
  let s4 := s3.sampleQueries.rouse
  { s4 with
    memStart := s4.mem
    now := s4.now + 1
    pages := s4.pages.filter s4.pins
    packets := s4.packets.filter fun p => decide (s4.now < p.due) }.stopYielded

/-- The next stage of the reference cycle, or the next cycle. -/
def State.advance (s : State) : State :=
  match s.stage with
  | 0 => { s with agenda := s.workTurns, stage := 1 }
  | 1 => s.issueStage
  | 2 => s.campStage
  | 3 => { s with
      cores := s.cores.map fun c => (c.1, s.giveTurns c.1 c.2), agenda := s.cores.flatMap fun c => c.2.matrixTurns c.1, stage := 4 }
  | 4 =>
    let t := s.cores.foldl (fun s c => s.issueBlocks c.1) s
    { t with agenda := t.accessTurns ++ t.copyTurns, stage := 5 }
  | 5 => { s with agenda := s.landTurns, stage := 6 }
  | _ => s.tick.hostStage

/-! ### Camp cycles (R337, R342, R344) -/

/-- The end of a camp cycle: the watchdog counts; an expiry is placed behind the operations of the other camp cores in this reference
cycle, and an MB.POST of its own cycle stops it (R342, R344). -/
def State.campEnd (s : State) (n : Nat) (counted : Bool) : State :=
  let expires := counted && !(s.camp n).posted
  let t := s.campTick n counted
  if expires then { t with agenda := t.agenda ++ [idTurn .watchdogExpiry 0 0 n] } else t

/-- An interrupt that the core takes now. -/
def Camp.interrupted (k : Camp) : Bool :=
  decide (k.mip &&& k.mie ≠ 0#64) && (!k.machine || bitAt k.mstatus 3)

/-- One camp cycle: a wait, an interrupt, a trap of the fetch, or an instruction. -/
def State.campCycle (s : State) (n : Nat) : Host.Outcome State Fault Refusal :=
  let k := s.camp n
  if !k.running then .next s
  else
    let counted := s.campCounts n
    let s1 := s.modCamp n fun k => { k with mcycle := k.mcycle + 1, posted := false, waiting := false }
    if k.waiting ∧ k.mip &&& k.mie = 0#64 then .next ((s1.modCamp n fun k => { k with waiting := true }).campEnd n counted)
    else if k.interrupted then .next ((s1.modCamp n fun k => k.trap 0x8000000000000010#64 0).campEnd n false)
    else match s1.campFetch n with
      | .error e => .next ((s1.campDone n e).campEnd n counted)
      | .ok (w, _) => andThen (exec (decodeCamp w) { s1 with cur := { Cursor.reset with id := n } }) fun t => .next (t.campEnd n counted)

/-! ### One step -/

/-- The step that a turn stands for. -/
def State.turn (s : State) : Turn → Host.Outcome State Fault Refusal
  | .event i core x strand slot id =>
    exec i { s with cur := { Cursor.reset with core := core, x := x, strand := strand, slot := slot, id := id } }
  | .issue core x => s.issue core x
  | .camp n => s.campCycle n

/-- The head of the agenda runs; after the last turn of a stage comes the next stage. -/
def State.stepNext (s : State) : Host.Outcome State Fault Refusal :=
  match s.agenda with
  | [] => .next s.advance
  | t :: r => { s with agenda := r }.turn t

/-! ### Placing one instruction -/

/-- A unit bound to a context by hand, as START builds the first one. -/
def placedUnit : WorkUnit := unitOfRecord (List.replicate 64 0#8)

/-- A bundle of one word at virtual address 0, and the primary context of core 0 about to issue it in lockstep. -/
def State.placeWord (s : State) (w : Nat) : State :=
  let s1 := { s.putBytes .code 0 (toBytes 8 w) with codes := [(0, 8)], powers := [] }
  let s2 := s1.modCore 0 fun k => { k with clkdiv := 0, switchEnd := none, withheld := false, stretched := 0 }
  { s2.modCtx 0 0 fun k => { k with
      state := .running, unit := some placedUnit, strands := [Strand.lockstep 0 0 (some false)], nextStrand := 1,
      repeats := Vector.replicate 8 none, drain := .none, leaving := false } with agenda := [.issue 0 0], stage := 2 }

/-- An instruction word in the local memory of camp core 0, which is about to run it in machine mode. -/
def State.placeCampWord (s : State) (w : Nat) : State :=
  { (s.putBytes (.camp 0) 0 (toBytes 4 w)).modCamp 0 fun k =>
      { k with running := true, pc := 0, machine := true, waiting := false, mip := 0 } with agenda := [.camp 0], stage := 3 }

end Sys2Proof.Machine
end

