-- ==== Sys2Proof/Machine/Step.lean ====
section
/-!
DEFINITION. One step of the device: one indivisible step of the current reference cycle (log entry 3), and the placing of an
instruction where the next step fetches it (log entry 5).
-/

namespace Sys2Proof.Machine

/-- One step. -/
def step (s : State) : Host.Outcome State Fault Refusal := s.stepNext

/-- s with one instruction where the next step fetches: a bundle word of 64 bits, or a camp core's word of 32 bits. -/
def State.withFetchWord (s : State) (nbits w : Nat) : State :=
  if nbits = 64 then s.placeWord w else if nbits = 32 then s.placeCampWord w else s

end Sys2Proof.Machine
end

