-- ==== Sys2Proof/Safety.lean ====
section
/-!
DEFINITION. The terms in which claims are stated: memory in its canonical form, what must hold for an operation to issue, and the
states that an operation leaves behind, written out field by field so that whatever they do not name is unchanged.
-/

namespace Sys2Proof.Machine

/-- Memory is in its canonical form: the coherent store, the store at the start of the cycle. -/
def MemoryOk (s : State) : Prop := Memory.wf s.mem = true ∧ Memory.wf s.memStart = true

/-- A run is safe as far as it goes: a step gives a next state with memory in its form, or stops with a named reason. -/
def SafeStep (s : State) : Prop :=
  match Sys2Proof.Machine.step s with
  | .next t => MemoryOk t
  | _ => True

/-! ### Operations of a bundle -/

/-- What the state must satisfy for an operation alone in its bundle to issue, its own checks and holds apart: no result is
outstanding for a register that it reads or writes (R36, R39, R71), its strand owns every register that it writes (R30), and the
pending-writeback queue has room for its entries (R40). -/
def Issues (s : State) (reads writes : List (Nat × Nat)) (entries : Nat) : Prop :=
  s.cur.mode = .whole
    ∧ s.variableBusy ((reads ++ writes).filter fun r => !neverBusy r) = false
    ∧ s.fixedBusy ((reads ++ writes).filter fun r => !neverBusy r) = false
    ∧ (writes.all fun r => s.myStrand.owns r) = true
    ∧ (s.cur.exposed = true → s.me.pendingCount + (s.cur.acts.filter SeqAct.isCall).length + entries ≤ 64)

/-- s after an operation with no effect has issued. -/
def State.issued (s : State) : State := { s with cur := { s.cur with verdict := .ok } }

/-- The issuing context replaced, the operation issued; nothing else changes. -/
def State.withMe (s : State) (k : Ctx) : State :=
  { s with ctxs := insertKey s.ctxs (2 * s.cur.core + s.cur.x) k, cur := { s.cur with verdict := .ok } }

/-- The issuing core replaced, the operation issued; nothing else changes. -/
def State.withCore (s : State) (k : Core) : State :=
  { s with cores := insertKey s.cores s.cur.core k, cur := { s.cur with verdict := .ok } }

/-- The pending entry of a result of the issuing operation, of latency n (R39, R40). -/
def State.entry (s : State) (r : Result) (n : Nat) (fl : BitVec 7) : Pending where
  res := r
  left := n
  flags := fl
  slot := s.cur.slot
  strand := s.cur.strand
  ba := s.cur.ba
  exposed := s.cur.exposed
  inter := false
  isLoad := false
  frozen := false
  seq := s.seqN

/-- s after an operation has issued whose one effect is a result of latency n: one entry is pending, and nothing else changes. -/
def State.delivers (s : State) (r : Result) (n : Nat) (fl : BitVec 7) : State :=
  { s with
    ctxs := insertKey s.ctxs (2 * s.cur.core + s.cur.x) { s.me with pend := s.me.pend ++ [s.entry r n fl] }
    seqN := s.seqN + 1
    cur := { s.cur with verdict := .ok } }

/-- s after a sequencer operation has issued: what it asks for at the end of its bundle (R41), and nothing else changes. -/
def State.acts (s : State) (l : List SeqAct) : State :=
  { s with cur := { s.cur with verdict := .ok, acts := s.cur.acts ++ l } }

/-- An access of the issuing operation to some runs of bytes, not yet performed; the time of its arrival is a free value beside its transit
(log entry 2). -/
def State.access (s : State) (kind : AccessKind) (runs : List (Region × Nat × Nat)) (ord scope ac : Nat) (isLoad isStore : Bool) :
    Access where
  id := s.seqN
  core := s.cur.core
  x := s.cur.x
  gen := s.me.gen
  strand := s.cur.strand
  slot := s.cur.slot
  ba := s.cur.ba
  kind := kind
  runs := runs
  ord := ord
  scope := scope
  ac := ac
  isLoad := isLoad
  isStore := isStore
  due := s.arrival s.cur.core kind runs
  done := false
  results := []
  flags := 0
  seq := s.seqN

/-- s after an operation has issued whose one effect is to send an access to some runs of bytes on its way (R71, R117, R272). -/
def State.sendsRuns (s : State) (kind : AccessKind) (runs : List (Region × Nat × Nat)) (ord scope ac : Nat) (isLoad isStore : Bool) :
    State :=
  { s with
    accs := s.accs ++ [s.access kind runs ord scope ac isLoad isStore]
    packets := (s.request s.cur.core kind runs).2.packets
    seqN := s.seqN + 1
    freeN := s.freeN + 2
    cur := { s.cur with verdict := .ok } }

/-- The same for one run, of the access's size at one place, or for none. -/
def State.sends (s : State) (kind : AccessKind) (place : Option Region) (addr ord scope ac : Nat) (isLoad isStore : Bool) : State :=
  s.sendsRuns kind (place.toList.map fun r => (r, addr, kind.size)) ord scope ac isLoad isStore

/-- The packets on their way keep the order of arrival at the links of their path, and none of them is there before its transit (R11). -/
def PathsOk (s : State) : Prop :=
  ∀ p ∈ s.packets, p.sent + transit p.src p.dst ≤ p.due ∧ ∀ q ∈ s.packets, p.src = q.src → p.dst = q.dst → p.sent < q.sent → p.due ≤ q.due

/-- A packet of a path that sets out at a time and is there at another keeps its place among those on their way, and takes its transit at
least (R11). -/
def State.follows (s : State) (src dst sent due : Nat) : Prop :=
  sent + transit src dst ≤ due
    ∧ ∀ p ∈ s.packets, p.src = src → p.dst = dst → (p.sent ≤ sent → p.due ≤ due) ∧ (sent < p.sent → due ≤ p.due)

/-- s after an operation was held: a stall of the whole context, or a wait of its strand (R36). Nothing else changes. -/
def State.heldUp (s : State) (stall : Bool) : State := { s with cur := { s.cur with verdict := .held stall } }

/-- The memory of t is that of s with the bytes bs from a cell on: each of them reads as its byte, and every other cell as before. -/
def Stores (s t : State) (key : Nat) (bs : List Byte) : Prop :=
  (∀ i < bs.length, t.mem.get (key + i) = bs.getD i 0) ∧
    ∀ k, k < key ∨ key + bs.length ≤ k → t.mem.get k = s.mem.get k

/-- t is u but for its memory. -/
def SameButMemory (u t : State) : Prop := t = { u with mem := t.mem }

/-- s after an operation has issued whose one effect is a command at the back of engine queue q (R25, R210). -/
def State.pushes (s : State) (q : Nat) (c : Cmd) : State :=
  { s with
    cores := insertKey s.cores s.cur.core { s.myCore with queues := s.myCore.queues.setIfInBounds q (s.myCore.queue q ++ [c]) }
    seqN := s.seqN + 1
    cur := { s.cur with verdict := .ok } }

/-- s with the slot of the issuing operation busy for n vector cycles (R72, R354). -/
def State.slotBusy (s : State) (n : Nat) : State :=
  { s with cores := insertKey s.cores s.cur.core { s.myCore with busy := s.myCore.busy.setIfInBounds s.cur.slot (n * s.myCore.q) } }

/-- The operation i delivers into the active lanes of its vector register, n vector cycles later and with the interval given, the result
that g gives for each of them, and the flags of exactly the active lanes. Nothing else changes. -/
def LaneResults (s : State) (i : Instr) (f : VR) (n interval : Nat) (g : Nat → W32 × BitVec 7) : Prop :=
  let lanes := s.me.m f.mask.toNat
  ∃ v fl, exec i s = .next ((if interval = 1 then s else s.slotBusy interval).delivers (.vector f.vd.toNat lanes v) (n * s.myCore.q) fl)
    ∧ (∀ e < 1024, lanes.getLsbD e = true → v.getD e 0 = (g e).1)
    ∧ ∀ j, fl.getLsbD j = true ↔ ∃ e < 1024, lanes.getLsbD e = true ∧ (g e).2.getLsbD j = true

/-- The operations of a bundle take effect one after another, the cursor of the first handed on (R41, R154). -/
def State.takesAll : List (Nat × Instr × W64) → State → State → Prop
  | [], u, v => v = u
  | p :: r, u, v => ∃ w, exec p.2.1 { u with cur := { u.cur with slot := p.1, word := p.2.2 } } = .next w ∧ State.takesAll r w v

/-- The instruction answers a next state, of which p holds. -/
def Answers (i : Instr) (s : State) (p : State → Prop) : Prop := ∃ u, exec i s = .next u ∧ p u

/-- The relation that a compare code names on two scalar values (R53). -/
def relation (cc : BitVec 4) (a b : W64) : Bool :=
  match cc with
  | 0 => a == b
  | 1 => a != b
  | 2 => a.slt b
  | 3 => b.sle a
  | 4 => a.ult b
  | 5 => b.ule a
  | 6 => a.sle b
  | 7 => b.slt a
  | 8 => a.ule b
  | _ => b.ult a

/-- The value 1 or 0 of a truth value. -/
def truth (b : Bool) : W64 := if b then 1#64 else 0#64

/-! ### Numbers (R84 to R97) -/

/-- The real number of a finite value. -/
def FVal.rat : FVal → Rat
  | .fin n a d e => (if n then -(a : Rat) else (a : Rat)) / (d : Rat) * (2 : Rat) ^ e
  | _ => 0

def FVal.isFin : FVal → Bool
  | .fin _ _ _ _ => true
  | _ => false

/-- A finite value whose denominator is not zero, or no finite value. -/
def FVal.sound : FVal → Prop
  | .fin _ _ d _ => 0 < d
  | _ => True

/-- a lies below b; no NaN lies below or above anything. -/
def FVal.below (a b : FVal) : Bool :=
  match a, b with
  | .inf n, .inf k => n && !k
  | .inf n, .fin _ _ _ _ => n
  | .fin _ _ _ _, .inf k => !k
  | .fin _ _ _ _, .fin _ _ _ _ => decide (a.rat < b.rat)
  | _, _ => false

def magnitude (x : Rat) : Rat := if x < 0 then -x else x

/-- The encoding b of a format stands for the real v. -/
def Fmt.encodes (f : Fmt) (b : Nat) (v : Rat) : Prop := b < 2 * f.signBit ∧ (decodeF f b).isFin = true ∧ (decodeF f b).rat = v

/-- The encoding b stands for the number that a mode chooses for x among the finite ones of the format (R88). -/
def Fmt.chooses (f : Fmt) (m : Rnd) (x : Rat) (b : Nat) : Prop :=
  ∃ y, f.encodes b y ∧ ∀ c v, f.encodes c v →
    match m with
    | .rtz => magnitude y ≤ magnitude x ∧ (magnitude v ≤ magnitude x → magnitude v ≤ magnitude y)
    | .rup => x ≤ y ∧ (x ≤ v → y ≤ v)
    | .rdn => y ≤ x ∧ (v ≤ x → v ≤ y)
    | _ => magnitude (y - x) ≤ magnitude (v - x) ∧ (magnitude (v - x) = magnitude (y - x) → v ≠ y → b % 2 = 0)

/-- x rounded to p significant bits, the exponent unbounded, stays below 2^k in magnitude (R89). -/
def staysBelow (p : Nat) (m : Rnd) (x : Rat) (k : Int) : Prop :=
  let top : Rat := (2 : Rat) ^ k
  let gap : Rat := (2 : Rat) ^ (k - (p : Int))
  let away : Bool := match m with
    | .rup => decide (0 < x)
    | .rdn => decide (x < 0)
    | _ => false
  match m with
  | .rne => magnitude x < top - gap / 2
  | .rmm => magnitude x < top - gap / 2
  | _ => if away then magnitude x ≤ top - gap else magnitude x < top

/-- The integer that a mode chooses for x (R87, R88). -/
def chosenInt (m : Rnd) (x : Rat) (r : Int) : Prop :=
  match m with
  | .rtz => magnitude r ≤ magnitude x ∧ magnitude x < magnitude r + 1 ∧ 0 ≤ (r : Rat) * x
  | .rup => x ≤ r ∧ (r : Rat) < x + 1
  | .rdn => (r : Rat) ≤ x ∧ x < r + 1
  | _ => 2 * magnitude (x - r) ≤ 1 ∧ (2 * magnitude (x - r) = 1 → r % 2 = 0)

/-- A floating-point value into an integer range: the value written and the flags (R97). -/
def becomesInt (m : Rnd) (lo hi : Int) (v : FVal) (i : Int) (fl : BitVec 7) : Prop :=
  match v with
  | .nan _ _ => i = 0 ∧ fl = 0x01
  | .inf n => i = (if n then lo else hi) ∧ fl = 0x01
  | .fin _ _ _ _ => ∃ r, chosenInt m v.rat r
    ∧ (r < lo → i = lo ∧ fl = 0x01) ∧ (hi < r → i = hi ∧ fl = 0x01)
    ∧ (lo ≤ r → r ≤ hi → i = r ∧ fl = if (r : Rat) = v.rat then 0 else 0x10)

/-- A floating-point value into a trit: the value written and the flags (R97). -/
def becomesTrit (m : Rnd) (v : FVal) (i : Int) (fl : BitVec 7) : Prop :=
  match v with
  | .nan _ _ => i = 0 ∧ fl = 0x01
  | .inf n => i = (if n then -1 else 1) ∧ fl = 0x01
  | .fin _ _ _ _ => ∃ r, chosenInt m v.rat r ∧ i = max (-1) (min 1 r)
    ∧ fl = (if (r : Rat) = v.rat then 0 else 0x10) ||| (if r = i then 0 else 0x20)

/-- Invalid where one of the operands is a signalling NaN (R90). -/
def signals (l : List FVal) : BitVec 7 := if l.any FVal.isSignalling then 0x01 else 0

/-- The integer that an element of an integer type or T2 holds (R84, R85). -/
def intOf (type : Nat) (w : W32) : Int :=
  match type with
  | 2 => w.toInt
  | 3 => (w.setWidth 16 : BitVec 16).toInt
  | 4 => (w.setWidth 8 : BitVec 8).toInt
  | 5 => ((w.setWidth 8 : BitVec 8).toNat : Int)
  | _ => if w.toNat % 4 = 1 then 1 else if w.toNat % 4 = 3 then -1 else 0

/-- The range of an integer type (R84). -/
def lowest (type : Nat) : Int :=
  match type with
  | 2 => -2147483648
  | 3 => -32768
  | 4 => -128
  | _ => 0

def highest (type : Nat) : Int :=
  match type with
  | 2 => 2147483647
  | 3 => 32767
  | 4 => 127
  | _ => 255

/-- The code of a trit (R84). -/
def tritCode (i : Int) : W32 := if i = 0 then 0 else if 0 < i then 1 else 3

end Sys2Proof.Machine
end

