-- ==== Sys2Proof/Certificates/Slice0/Obligations.lean ====
section
/-!
DEFINITION. What is claimed of the model, one Prop per obligation, from the numbered rules of spec/.
-/

open Sys2Proof Sys2Proof.Machine

/-! ### Sequencer operations -/

/-- R103 to R105, R108, R109: what the sequencer operations ask for at the end of their bundle, each branch with its target. A register target must be a
multiple of 8. R105: BRC pops the oldest entry of its queue and branches where the entry is the one it tests for; a pop from a queue that is empty,
or emptied by lower slots of the same cycle, waits. R106: LOOP and LOOPI start a level with their count, leave for the exit where the count is zero,
and raise ILLEGAL for an empty or backward body and in the last bundle of an active body. -/
def Obligations.SequencerOperationsAskFor : Prop :=
  (∀ (f : SQ) (s : State), s.cur.mode = .whole →
    (Issues s [] [] 0 →
      exec (.nop f) s = .next s.issued
      ∧ exec (.br f) s = .next (s.acts [.jump s.cur.slot (s.cur.ba + 8 * f.off.signExtend 64)]))
    ∧ (Issues s [] [sreg f.reg] 1 →
      exec (.call f) s = .next (s.acts [.call s.cur.slot (s.cur.ba + 8 * f.off.signExtend 64) f.reg.toNat
        (s.cur.ba + BitVec.ofNat 64 (8 * s.cur.nw))])
      ∧ exec (.lcrd f) s = .next (s.delivers (.scalar f.reg.toNat
        ((s.myStrand.loops.getD f.lvl.toNat Loop.reset).lc.setWidth 64)) 1 0))
    ∧ (Issues s [sreg f.reg] [] 0 →
      ((s.rs f.reg).toNat % 8 = 0 → exec (.ret f) s = .next (s.acts [.jump s.cur.slot (s.rs f.reg)]))
      ∧ ((s.rs f.reg + 8 * f.off.signExtend 64).toNat % 8 = 0 →
        exec (.bri f) s = .next (s.acts [.jump s.cur.slot (s.rs f.reg + 8 * f.off.signExtend 64)]))
      ∧ exec (.lcwr f) s = .next (s.acts [.lcwr s.cur.slot f.lvl.toNat ((s.rs f.reg).setWidth 32)])
      ∧ ((s.rs f.reg).toNat % 8 ≠ 0 →
        exec (.ret f) s = .next (s.faultHere ⟨causeALIGN, s.rs f.reg, s.cur.slot⟩)))
    ∧ ∀ g : SRep, Issues s [] [] 0 →
      exec (.rep g) s = .next { s with cur := { s.cur with
        verdict := .ok, arms := s.cur.arms ++ [(s.cur.slot, g.cnt.toNat + 1, g.step)] } })
  ∧ (∀ (f : SQ) (s : State), Issues s [] [] 0 →
    let q := f.cq.toNat
    let earlier := s.countEarlier fun i => decide (popOf i = some q)
    let popped (rest : List Bool) := { s.me with cqs := s.me.cqs.setIfInBounds q rest }
    let taken : List SeqAct := [.jump s.cur.slot (s.cur.ba + 8 * f.off.signExtend 64)]
    (∀ b rest, s.me.cq q = b :: rest → earlier < (b :: rest).length →
      exec (.brcT f) s = .next ((s.withMe (popped rest)).acts (if b then taken else []))
      ∧ exec (.brcF f) s = .next ((s.withMe (popped rest)).acts (if b then [] else taken)))
    ∧ ((s.me.cq q).length ≤ earlier →
      exec (.brcT f) s = .next { s with cur := { s.cur with verdict := .held false } }
      ∧ exec (.brcF f) s = .next { s with cur := { s.cur with verdict := .held false } }))
  ∧ (∀ (s : State),
    let st := s.cur.ba + BitVec.ofNat 64 (8 * s.cur.nw)
    let ends (ex : W64) : Prop := ex.toNat ≤ st.toNat ∨ ∃ l ∈ s.myStrand.loops.toList, l.active = true ∧ l.ex = st
    let does (i : Instr) (lvl : Nat) (n : W32) (ex : W64) : Prop :=
      (ends ex → exec i s = .next (s.faultHere ⟨causeILLEGAL, s.cur.word, s.cur.slot⟩))
      ∧ (¬ends ex → n = 0 → exec i s = .next (s.acts [.loopSkip s.cur.slot lvl ex]))
      ∧ (¬ends ex → n ≠ 0 → exec i s = .next (s.acts [.loop s.cur.slot lvl n st ex]))
    (∀ f : SQ, Issues s [sreg f.reg] [] 0 →
      does (.loop f) f.lvl.toNat ((s.rs f.reg).setWidth 32) (s.cur.ba + 8 * f.off.signExtend 64))
    ∧ ∀ f : SLoopi, Issues s [] [] 0 →
      does (.loopi f) f.lvl.toNat (f.trip.setWidth 32) (s.cur.ba + 8 * f.off.signExtend 64))

/-! ### Scalar operations -/

/-- R128, R131, R133: the scalar operations of two sources write the value that their table gives, with their latency and no flag, and change nothing
else. R129, R130: the operations with an immediate of 36 bits. R128 to R130: a field or an amount that they reserve makes the word ill-formed. -/
def Obligations.ScalarAluResults : Prop :=
  (∀ (f : SR) (s : State), Issues s [sreg f.a, sreg f.b] [sreg f.d] 1 →
    let a := s.rs f.a
    let b := s.rs f.b
    let sh := b.toNat % 64
    let gives (i : Instr) (v : W64) (n : Nat) : Prop := exec i s = .next (s.delivers (.scalar f.d.toNat v) n 0)
    gives (.add f) (a + b) 1 ∧ gives (.sub f) (a - b) 1 ∧ gives (.and f) (a &&& b) 1 ∧ gives (.or f) (a ||| b) 1
    ∧ gives (.xor f) (a ^^^ b) 1 ∧ gives (.andn f) (a &&& ~~~b) 1
    ∧ gives (.shl f) (a <<< sh) 1 ∧ gives (.shr f) (a >>> sh) 1 ∧ gives (.sar f) (a.sshiftRight sh) 1
    ∧ gives (.min f) (if b.slt a then b else a) 1 ∧ gives (.max f) (if a.slt b then b else a) 1
    ∧ gives (.minu f) (if b.ult a then b else a) 1 ∧ gives (.maxu f) (if a.ult b then b else a) 1
    ∧ gives (.mul f) (a * b) 3
    ∧ gives (.mulh f) (BitVec.ofInt 64 (a.toInt * b.toInt / 2 ^ 64)) 3
    ∧ gives (.mulhu f) (BitVec.ofNat 64 (a.toNat * b.toNat / 2 ^ 64)) 3
    ∧ gives (.cmp f) (truth (relation f.cc a b)) 1)
  ∧ (∀ (f : SI) (s : State),
    let a := s.rs f.a
    let imm := f.imm.signExtend 64
    let sh := f.imm.toNat % 64
    let gives (i : Instr) (v : W64) : Prop := exec i s = .next (s.delivers (.scalar f.d.toNat v) 1 0)
    (Issues s [sreg f.a] [sreg f.d] 1 →
      gives (.addi f) (a + imm) ∧ gives (.andi f) (a &&& imm) ∧ gives (.ori f) (a ||| imm) ∧ gives (.xori f) (a ^^^ imm)
      ∧ gives (.shli f) (a <<< sh) ∧ gives (.shri f) (a >>> sh) ∧ gives (.sari f) (a.sshiftRight sh)
      ∧ gives (.lih f) ((f.imm.setWidth 28 : BitVec 28) ++ (a.setWidth 36 : BitVec 36)))
    ∧ (Issues s [] [sreg f.d] 1 → gives (.li f) imm))
  ∧ ((∀ f : SR, ∀ i ∈ [Instr.add f, .sub f, .and f, .or f, .xor f, .andn f, .shl f, .shr f, .sar f, .min f, .max f, .minu f, .maxu f],
    i.wf = true ↔ f.c = 0 ∧ f.cc = 0 ∧ f.rsv = 0)
  ∧ ∀ f : SI, (∀ i ∈ [Instr.shli f, .shri f, .sari f], i.wf = true ↔ f.imm.toNat < 64)
    ∧ ((Instr.li f).wf = true ↔ f.a = 0) ∧ ((Instr.lih f).wf = true ↔ ∀ j, 28 ≤ j → f.imm.getLsbD j = false))

/-- R132: division truncates towards zero, the remainder takes the sign of the dividend; a zero divisor gives all ones or the dividend and raises DZ;
the most negative value divided by −1 gives itself and remainder 0. R134, R135, R131: counts of bits, reversal, bit fields, selection, and
multiply-add. R132, R134, R135: a field or a code that they reserve makes the word ill-formed. -/
def Obligations.DivisionAndBitResults : Prop :=
  (∀ (f : SR) (s : State), Issues s [sreg f.a, sreg f.b] [sreg f.d] 1 →
    let a := s.rs f.a
    let b := s.rs f.b
    let gives (i : Instr) (v : W64) (fl : BitVec 7) : Prop := exec i s = .next (s.delivers (.scalar f.d.toNat v) 20 fl)
    (b = 0 → gives (.div f) (BitVec.allOnes 64) flagDZ ∧ gives (.divu f) (BitVec.allOnes 64) flagDZ
      ∧ gives (.rem f) a flagDZ ∧ gives (.remu f) a flagDZ)
    ∧ (b ≠ 0 → gives (.div f) (BitVec.ofInt 64 (a.toInt.tdiv b.toInt)) 0
      ∧ gives (.rem f) (BitVec.ofInt 64 (a.toInt.tmod b.toInt)) 0
      ∧ gives (.divu f) (BitVec.ofNat 64 (a.toNat / b.toNat)) 0 ∧ gives (.remu f) (BitVec.ofNat 64 (a.toNat % b.toNat)) 0))
  ∧ (∀ (f : SR) (s : State),
    let a := s.rs f.a
    let b := s.rs f.b
    let c := s.rs f.c
    let pos := b.toNat % 64
    let w := min ((b.toNat / 256) % 128) 64
    let gives (i : Instr) (v : W64) (n : Nat) : Prop := exec i s = .next (s.delivers (.scalar f.d.toNat v) n 0)
    (Issues s [sreg f.a] [sreg f.d] 1 →
      (∃ n ≤ 64, gives (.clz f) (BitVec.ofNat 64 n) 1 ∧ (∀ i < 64, 64 - n ≤ i → a.getLsbD i = false)
        ∧ (n < 64 → a.getLsbD (63 - n) = true))
      ∧ (∃ n ≤ 64, gives (.ctz f) (BitVec.ofNat 64 n) 1 ∧ (∀ i < n, a.getLsbD i = false) ∧ (n < 64 → a.getLsbD n = true))
      ∧ gives (.popc f) (BitVec.ofNat 64 ((List.range 64).filter fun i => a.getLsbD i).length) 1
      ∧ (∃ v, gives (.brev f) v 1 ∧ ∀ i < 64, v.getLsbD i = a.getLsbD (63 - i)))
    ∧ (Issues s [sreg f.a, sreg f.b] [sreg f.d] 1 →
      ∃ v, gives (.bfe f) v 1 ∧ ∀ i < 64, v.getLsbD i =
        if i < w then a.getLsbD (pos + i) else f.cc.getLsbD 0 && decide (0 < w) && a.getLsbD (pos + w - 1))
    ∧ (Issues s [sreg f.a, sreg f.b, sreg f.c] [sreg f.d] 1 →
      (∃ v, gives (.bfi f) v 1 ∧ ∀ i < 64, v.getLsbD i =
        if pos ≤ i ∧ i < pos + w then a.getLsbD (i - pos) else c.getLsbD i)
      ∧ gives (.mad f) (a * b + c) 3
      ∧ gives (.sel f) (if relation f.cc c 0 then a else b) 1))
  ∧ (∀ f : SR,
    (∀ i ∈ [Instr.div f, .divu f, .rem f, .remu f], i.wf = true ↔ f.c = 0 ∧ f.cc = 0 ∧ f.rsv = 0)
    ∧ (∀ i ∈ [Instr.clz f, .ctz f, .popc f, .brev f], i.wf = true ↔ f.b = 0 ∧ f.c = 0 ∧ f.cc = 0 ∧ f.rsv = 0)
    ∧ ((Instr.bfe f).wf = true ↔ f.c = 0 ∧ f.cc.toNat < 2 ∧ f.rsv = 0)
    ∧ ((Instr.bfi f).wf = true ↔ f.cc = 0 ∧ f.rsv = 0)
    ∧ ((Instr.sel f).wf = true ↔ f.cc.toNat < 10 ∧ f.rsv = 0))

/-- R136 to R139: the scalar floating-point operations round the exact result once, in the mode of CC or for FCVT of C, write it with bits [63:32] zero,
and deliver it with its flags after 4 issue cycles; FCLASS sets the one bit of the class of its operand. R133, R137, R32: CMPQ and FCMPQ push the
outcome of their relation, which lands after 2 and 4 issue cycles; where the queue is full, landed and on their way, the push waits in a scoreboard
region and raises QUEUE_OVERFLOW in an exposed one. -/
def Obligations.ScalarFloatsAndQueueCompares : Prop :=
  (∀ (f : SR) (s : State),
    let a := vF32 ((s.rs f.a).setWidth 32)
    let b := vF32 ((s.rs f.b).setWidth 32)
    let c := vF32 ((s.rs f.c).setWidth 32)
    let m := Rnd.ofCode (f.cc.setWidth 2)
    let gives (i : Instr) (r : W32 × BitVec 7) : Prop :=
      exec i s = .next (s.delivers (.scalar f.d.toNat (r.1.setWidth 64)) 4 r.2)
    (Issues s [sreg f.a, sreg f.b] [sreg f.d] 1 →
      gives (.fadd f) (rndF32 m (addV m a b))
      ∧ gives (.fsub f) (rndF32 m (addV m a (if b.isNan then b else b.negate)))
      ∧ gives (.fmul f) (rndF32 m (mulV a b))
      ∧ gives (.fmin f) (rndF32 m (minMaxV false a b)) ∧ gives (.fmax f) (rndF32 m (minMaxV true a b))
      ∧ exec (.fcmp f) s = .next (s.delivers (.scalar f.d.toNat (truth (relFloat f.cc.toNat a b).1)) 4 (relFloat f.cc.toNat a b).2))
    ∧ (Issues s [sreg f.a, sreg f.b, sreg f.c] [sreg f.d] 1 → gives (.ffma f) (rndF32 m (fmaV m a b c)))
    ∧ (Issues s [sreg f.a] [sreg f.d] 1 →
      (let r := convertScalar f.cc.toNat (Rnd.ofCode (f.c.setWidth 2)) (s.rs f.a)
       exec (.fcvt f) s = .next (s.delivers (.scalar f.d.toNat r.1) 4 r.2))
      ∧ (let w : W32 := (s.rs f.a).setWidth 32
         let ex := w.toNat / 2 ^ 23 % 256
         let fr := w.toNat % 2 ^ 23
         let bit := if ex = 255 then (if fr = 0 then (if w.msb then 0 else 7) else if fr < 2 ^ 22 then 8 else 9)
           else if ex = 0 then (if fr = 0 then (if w.msb then 3 else 4) else if w.msb then 2 else 5)
           else if w.msb then 1 else 6
         exec (.fclass f) s = .next (s.delivers (.scalar f.d.toNat (1#64 <<< bit)) 4 0))
      ∧ ((Instr.fclass f).wf = true ↔ f.b = 0 ∧ f.c = 0 ∧ f.cc = 0 ∧ f.rsv = 0)))
  ∧ (∀ (f : SR) (s : State), Issues s [sreg f.a, sreg f.b] [] 1 →
    let q := f.d.toNat % 4
    let free : Prop := s.me.cqLoad q + s.countEarlier (fun i => decide (pushOf i = some q)) - s.popsNow q < 16
    let fr := relFloat f.cc.toNat (vF32 ((s.rs f.a).setWidth 32)) (vF32 ((s.rs f.b).setWidth 32))
    (free → exec (.cmpq f) s = .next (s.delivers (.queue q (relation f.cc (s.rs f.a) (s.rs f.b))) 2 0)
      ∧ exec (.fcmpq f) s = .next (s.delivers (.queue q fr.1) 4 fr.2))
    ∧ (¬free → s.cur.exposed = false →
      exec (.cmpq f) s = .next { s with cur := { s.cur with verdict := .held false } }
      ∧ exec (.fcmpq f) s = .next { s with cur := { s.cur with verdict := .held false } })
    ∧ (¬free → s.cur.exposed = true →
      exec (.cmpq f) s = .next (s.faultHere ⟨causeOVERFLOW, BitVec.ofNat 64 q, s.cur.slot⟩)
      ∧ exec (.fcmpq f) s = .next (s.faultHere ⟨causeOVERFLOW, BitVec.ofNat 64 q, s.cur.slot⟩)))

/-! ### Numbers -/

/-- R84, R88, R89, R92: what the encodings of F32 and BF16 stand for; the number that each mode chooses, its overflow results and its flags; and
fp_dest, with its scaling, the flush of FO and its clamps. -/
def Obligations.RoundingsFollowTheirModes : Prop :=
  (∀ b < 2 ^ 32,
    let ex : Nat := b / 2 ^ 23 % 256
    let frac : Nat := b % 2 ^ 23
    let neg := decide (2 ^ 31 ≤ b)
    let size : Rat := if ex = 0 then (frac : Rat) * (2 : Rat) ^ (-149 : Int) else ((2 ^ 23 + frac : Nat) : Rat) * (2 : Rat) ^ ((ex : Int) - 150)
    (ex = 255 → decodeF f32 b = if frac = 0 then .inf neg else .nan neg frac)
    ∧ (ex ≠ 255 → (decodeF f32 b).isFin = true ∧ (decodeF f32 b).neg = neg ∧ (decodeF f32 b).rat = if neg then -size else size))
  ∧ (∀ b < 2 ^ 16, let v := decodeF f32 (b * 65536)
    (decodeF bf16 b).isFin = v.isFin ∧ (decodeF bf16 b).neg = v.neg ∧ (decodeF bf16 b).rat = v.rat ∧ (v.isFin = false → decodeF bf16 b = v))
  ∧ (∀ neg frac, (FVal.nan neg frac).isSignalling = !frac.testBit 22)
  ∧ ∀ (f : Fmt) (c : BitVec 2) (neg : Bool) (num den : Nat) (e : Int) (scale : BitVec 4) (fl : BitVec 7) (clamp : BitVec 2) (fo : Bool) (frac : Nat),
    f = f32 ∨ f = bf16 → 0 < den →
    let m := Rnd.ofCode c
    let sign := if f = f32 then 2 ^ 31 else 2 ^ 15
    let inf := if f = f32 then 0x7F800000 else 0x7F80
    let one := if f = f32 then 0x3F800000 else 0x3F80
    let least := if f = f32 then 2 ^ 23 else 2 ^ 7
    let s := if neg then sign else 0
    let x := (FVal.fin neg num den e).rat
    let z := roundFin f m neg num den e
    let held (w : Nat) : Nat := match clamp with
      | 0 => w
      | 1 => if sign ≤ w then 0 else w
      | 2 => if sign ≤ w then 0 else min w one
      | _ => if sign ≤ w then sign + min (w - sign) one else min w one
    let dest (v : FVal) (k : BitVec 2) (fo : Bool) : Nat × BitVec 7 := fpDest (v, fl) f m scale k fo
    (num = 0 → z = (s, 0))
    ∧ (0 < num → staysBelow f.p m x 128 → f.chooses m x z.1 ∧ z.1 / sign = s / sign
      ∧ ∀ j, z.2.getLsbD j = true ↔ (j = 4 ∧ (decodeF f z.1).rat ≠ x) ∨ (j = 3 ∧ (decodeF f z.1).rat ≠ x ∧ staysBelow f.p m x (-126)))
    ∧ (0 < num → ¬staysBelow f.p m x 128 → z = (s + (match c with
        | 0 => inf
        | 1 => inf - 1
        | 2 => if neg then inf - 1 else inf
        | _ => if neg then inf else inf - 1), 0x14))
    ∧ roundV f m (.fin neg num den e) = z ∧ roundV f m (.inf neg) = (s + inf, 0)
    ∧ (let y := roundFin f m neg num den (e + scale.toInt)
      dest (.fin neg num den e) 0 false = (y.1, fl ||| y.2)
      ∧ (y.1 % sign = 0 ∨ least ≤ y.1 % sign → dest (.fin neg num den e) 0 true = (y.1, fl ||| y.2))
      ∧ (y.1 % sign ≠ 0 → y.1 % sign < least → dest (.fin neg num den e) 0 true = (y.1 / sign * sign, fl ||| y.2 ||| 0x18)))
    ∧ dest (.fin neg num den e) clamp fo = (held (dest (.fin neg num den e) 0 fo).1, (dest (.fin neg num den e) 0 fo).2)
    ∧ dest (.inf neg) clamp fo = (held (s + inf), fl)
    ∧ dest (.nan neg frac) clamp fo = (s + inf + (if f = f32 then frac else frac / 2 ^ 16), fl)

/-- R53, R87, R88, R90: sum, difference, product, fused product and sum, quotient, root, minimum and maximum, and the relations on exact values, with
zeros, infinities, NaNs and their flags. -/
def Obligations.ExactOperationsAndSpecialValues : Prop :=
  (∀ (c : BitVec 2) (a b x : FVal), a.sound → b.sound → x.sound →
    let m := Rnd.ofCode c
    let picks (g : FVal → FVal → FVal × BitVec 7) : Prop :=
      (a.isNan = true → g a b = (a.quiet, signals [a, b])) ∧ (a.isNan = false → b.isNan = true → g a b = (b.quiet, signals [a, b]))
    let sum (n : Bool) (u v : Rat) (p q : Bool) (r : FVal) : Prop := r.isFin = true ∧ r.sound ∧ r.rat = u + v
      ∧ (u + v = 0 → r.neg = if u = 0 ∧ v = 0 ∧ p = q then p else n) ∧ (u + v ≠ 0 → r.neg = decide (u + v < 0))
    let both : Prop := a.isFin = true ∧ b.isFin = true
    let down := decide (c = 3)
    let odd := a.neg != b.neg
    picks (addV m) ∧ picks (subV m) ∧ picks mulV ∧ picks divV ∧ picks (minMaxV true) ∧ picks (minMaxV false)
    ∧ (both → ∃ r, addV m a b = (r, 0) ∧ sum down a.rat b.rat a.neg b.neg r)
    ∧ (both → ∃ r, subV m a b = (r, 0) ∧ sum down a.rat (-b.rat) a.neg (!b.neg) r)
    ∧ (both → ∃ r, mulV a b = (r, 0) ∧ r.isFin = true ∧ r.sound ∧ r.rat = a.rat * b.rat ∧ r.neg = odd)
    ∧ (both → b.rat ≠ 0 → ∃ r, divV a b = (r, 0) ∧ r.isFin = true ∧ r.sound ∧ r.rat = a.rat / b.rat ∧ r.neg = odd)
    ∧ (both → b.rat = 0 → divV a b = if a.rat = 0 then (FVal.canonical, 0x01) else (.inf odd, 0x02))
    ∧ (both → x.isFin = true → ∃ r, fmaV m a b x = (r, 0) ∧ sum down (a.rat * b.rat) x.rat odd x.neg r)
    ∧ (∀ n k, addV m (.inf n) (.inf k) = (if n = k then (.inf n, 0) else (FVal.canonical, 0x01))
      ∧ subV m (.inf n) (.inf k) = (if n = k then (FVal.canonical, 0x01) else (.inf n, 0))
      ∧ (b.isFin = true → subV m (.inf n) b = (.inf n, 0) ∧ subV m b (.inf n) = (.inf !n, 0))
      ∧ mulV (.inf n) (.inf k) = (.inf (n != k), 0) ∧ divV (.inf n) (.inf k) = (FVal.canonical, 0x01)
      ∧ (b.isFin = true → addV m (.inf n) b = (.inf n, 0) ∧ addV m b (.inf n) = (.inf n, 0)
        ∧ mulV (.inf n) b = (if b.rat = 0 then (FVal.canonical, 0x01) else (.inf (n != b.neg), 0))
        ∧ mulV b (.inf n) = (if b.rat = 0 then (FVal.canonical, 0x01) else (.inf (b.neg != n), 0))
        ∧ divV (.inf n) b = (.inf (n != b.neg), 0)
        ∧ ∃ r, divV b (.inf n) = (r, 0) ∧ r.isFin = true ∧ r.rat = 0 ∧ r.neg = (b.neg != n)))
    ∧ (let lost : Prop := (a.isFin = true ∧ a.rat = 0 ∧ b.isFin = false) ∨ (b.isFin = true ∧ b.rat = 0 ∧ a.isFin = false)
      a.isNan = false → b.isNan = false →
        (lost → x.isNan = false → fmaV m a b x = (FVal.canonical, 0x01))
        ∧ (¬lost → ¬both → (x.isFin = true → fmaV m a b x = (.inf odd, 0))
          ∧ ∀ k, x = .inf k → fmaV m a b x = if k = odd then (.inf k, 0) else (FVal.canonical, 0x01))
        ∧ (both → ∀ k, x = .inf k → fmaV m a b x = (.inf k, 0)))
    ∧ (a.isNan = true → fmaV m a b x = (a.quiet, signals [a, b, x]))
    ∧ (a.isNan = false → b.isNan = true → fmaV m a b x = (b.quiet, signals [a, b, x]))
    ∧ (a.isNan = false → b.isNan = false → x.isNan = true →
      fmaV m a b x = (x.quiet, if (a.isFin = true ∧ a.rat = 0 ∧ b.isFin = false) ∨ (b.isFin = true ∧ b.rat = 0 ∧ a.isFin = false) then 0x01 else signals [x]))
    ∧ (a.isNan = false → b.isNan = false → a.below b = true ∨ (b.below a = false ∧ a.neg = true ∧ b.neg = false) →
      minMaxV false a b = (a, 0) ∧ minMaxV true a b = (b, 0))
    ∧ (a.isNan = false → b.isNan = false → b.below a = true ∨ (a.below b = false ∧ b.neg = true ∧ a.neg = false) →
      minMaxV false a b = (b, 0) ∧ minMaxV true a b = (a, 0))
    ∧ (a.isNan = false → b.isNan = false → a.below b = false → b.below a = false → a.neg = b.neg →
      minMaxV false a b = (a, 0) ∧ minMaxV true a b = (a, 0))
    ∧ (a.isNan = true ∨ b.isNan = true → (∀ code ∈ [0, 10, 11, 1], relFloat code a b = (decide (code = 1 ∨ code = 10), signals [a, b]))
      ∧ ∀ code ∈ [2, 3, 6, 7], relFloat code a b = (false, 0x01))
    ∧ (a.isNan = false → b.isNan = false → relFloat 0 a b = (!a.below b && !b.below a, 0) ∧ relFloat 1 a b = (a.below b || b.below a, 0)
      ∧ relFloat 2 a b = (a.below b, 0) ∧ relFloat 3 a b = (!a.below b, 0) ∧ relFloat 6 a b = (!b.below a, 0) ∧ relFloat 7 a b = (b.below a, 0)
      ∧ relFloat 10 a b = (false, 0) ∧ relFloat 11 a b = (true, 0)))
  ∧ (∀ neg frac, frac < 2 ^ 23 → (FVal.nan neg frac).quiet = .nan neg (frac ||| 2 ^ 22))
  ∧ (∀ m, (roundV f32 m FVal.canonical).1 = 0x7FC00000 ∧ (roundV bf16 m FVal.canonical).1 = 0x7FC0)
  ∧ ∀ w : W32, let v := vF32 w
    let z := rndF32 .rne (sqrtV v)
    let y := (vF32 z.1).rat
    (v.isNan = true → sqrtV v = (v.quiet, signals [v])) ∧ (v = .inf false → sqrtV v = (v, 0)) ∧ (v = .inf true → sqrtV v = (FVal.canonical, 0x01))
    ∧ (v.isFin = true → v.rat = 0 → sqrtV v = (v, 0)) ∧ (v.isFin = true → v.rat < 0 → sqrtV v = (FVal.canonical, 0x01))
    ∧ (v.isFin = true → 0 < v.rat → (vF32 z.1).isFin = true ∧ 0 < y ∧ z.2 = (if y * y = v.rat then 0 else 0x10)
      ∧ ∀ b u, f32.encodes b u → 0 ≤ u → (y < u → v.rat ≤ ((y + u) / 2) * ((y + u) / 2)) ∧ (u < y → ((y + u) / 2) * ((y + u) / 2) ≤ v.rat))

/-- R58, R84, R85, R87, R91, R93, R97, R138, R173, R176, R177, R179: the conversions of FCVT, VCVT, VQUANT and VDEQ give the rows of R97 on the values
that their sources hold (what the same type of source and destination does, T2 to T2, and FI and the modifiers on VQUANT's scale are the model's
reading, log entry 18); FI, absolute value and negation act on a floating-point source in that order; a lane compare relates those values, and its
unsigned codes the patterns. -/
def Obligations.ConversionRows : Prop :=
  (∀ (c : BitVec 2) (a : W64),
    let m := Rnd.ofCode c
    let w : W32 := a.setWidth 32
    let h : Half := a.setWidth 16
    let v := vF32 w
    (v.isNan = true → convertScalar 0 m a = ((w.extractLsb' 16 16 ||| 0x40).setWidth 64, signals [v]))
    ∧ (v.isNan = false → convertScalar 0 m a = (BitVec.ofNat 64 (roundV bf16 m v).1, (roundV bf16 m v).2))
    ∧ convertScalar 1 m a = (if (vBF16 h).isNan = true then h.setWidth 64 <<< 16 ||| 0x400000 else h.setWidth 64 <<< 16, signals [vBF16 h])
    ∧ (∃ i fl, becomesInt m (-2147483648) 2147483647 v i fl ∧ convertScalar 2 m a = (BitVec.ofInt 64 i, fl))
    ∧ (∃ i fl, becomesInt m 0 4294967295 v i fl ∧ convertScalar 3 m a = (BitVec.ofInt 64 i, fl))
    ∧ (let z := roundFin f32 m (decide (w.toInt < 0)) w.toInt.natAbs 1 0
      convertScalar 4 m a = (BitVec.ofNat 64 z.1, z.2))
    ∧ (let z := roundFin f32 m false w.toNat 1 0
      convertScalar 5 m a = (BitVec.ofNat 64 z.1, z.2)))
  ∧ (∀ v : FVal, v.sound → flushV v = if v.isFin = true ∧ magnitude v.rat < (2 : Rat) ^ (-126 : Int) then .fin v.neg 0 1 0 else v)
  ∧ (∀ (f : VR) (r : FVal × BitVec 7), let z := fpDest r (if f.type = 0 then f32 else bf16) (Rnd.ofCode f.rnd) f.scale f.clamp (f.fo == 1)
      VR.dest f r = (BitVec.ofNat 32 (if f.type = 0 then z.1 else z.1 * 65536), z.2))
  ∧ ∀ (f : VR) (a b : W32), f.type ≠ 7 → f.aux.toNat % 8 ≠ 7 →
    let m := Rnd.ofCode f.rnd
    let src := f.aux.toNat % 8
    let dst := f.type.toNat
    let base (t : Nat) (w : W32) : FVal := if t = 0 then vF32 w else vBF16 (w.extractLsb' 16 16)
    let source (t : Nat) (fi ab ng : BitVec 1) (w : W32) : FVal :=
      let v0 := if fi = 1 then flushV (base t w) else base t w
      let v1 := if ab = 1 then v0.abs else v0
      if ng = 1 then v1.negate else v1
    let v := source src f.fi f.aa f.na a
    let y := source 0 f.fi f.ab f.nb b
    let i := intOf src a
    let code : BitVec 7 := if src = 6 ∧ a.toNat % 4 = 2 then 0x40 else 0
    let exact (u : FVal) : Prop := u.isFin = true ∧ u.sound ∧ u.rat = (i : Rat) ∧ u.neg = decide (i < 0)
    let lands (u : FVal) (r : W32 × BitVec 7) : Prop :=
      (2 ≤ dst → dst ≤ 5 → ∃ j fl, becomesInt m (lowest dst) (highest dst) u j fl ∧ r = (BitVec.ofInt 32 j, fl))
      ∧ (dst = 6 → ∃ j fl, becomesTrit m u j fl ∧ r = (tritCode j, fl))
    (src ≤ 1 → dst ≤ 1 → convertLane f a = VR.dest f (v.quiet, signals [v]))
    ∧ (src ≤ 1 → lands v (convertLane f a))
    ∧ (2 ≤ src → dst ≤ 1 → ∃ u, exact u ∧ convertLane f a = VR.dest f (u, code))
    ∧ (2 ≤ src → 2 ≤ dst → dst ≤ 5 → f.aux.getLsbD 5 = true → let j := max (lowest dst) (min (highest dst) i)
      convertLane f a = (BitVec.ofInt 32 j, code ||| if j = i then 0 else 0x20))
    ∧ (2 ≤ src → 2 ≤ dst → dst ≤ 5 → f.aux.getLsbD 5 = false → convertLane f a = (BitVec.ofInt 32 (intOf dst (BitVec.ofInt 32 i)), code))
    ∧ (2 ≤ src → dst = 6 → let j := max (-1) (min 1 i)
      convertLane f a = (tritCode j, code ||| if j = i then 0 else 0x20))
    ∧ (src ≤ 1 → 2 ≤ dst →
      (v.isNan = true ∨ y.isNan = true ∨ (v.isFin = true ∧ v.rat = 0 ∧ y.isFin = false) ∨ (y.isFin = true ∧ y.rat = 0 ∧ v.isFin = false) →
        quantLane f a b = (0, 0x01))
      ∧ (v.isFin = true → y.isFin = true → ∃ u, u.isFin = true ∧ u.sound ∧ u.rat = v.rat * y.rat * (2 : Rat) ^ f.scale.toInt ∧ lands u (quantLane f a b))
      ∧ (v.isNan = false → y.isNan = false → v.isFin = false ∨ y.isFin = false → (v.isFin = true → v.rat ≠ 0) → (y.isFin = true → y.rat ≠ 0) →
        lands (.inf (v.neg != y.neg)) (quantLane f a b)))
    ∧ (2 ≤ src → dst ≤ 1 → ∃ u, exact u ∧
      let r := mulV u (source 0 0 f.ab f.nb b)
      dequantLane f a b = VR.dest f (r.1, code ||| r.2))
    ∧ (dst ≤ 1 → laneRel f a b = relFloat f.aux.toNat (source dst f.fi f.aa f.na a) (source dst f.fi f.ab f.nb b))
    ∧ (2 ≤ dst → dst ≤ 5 →
      let n := if dst = 2 then 32 else if dst = 3 then 16 else 8
      let p := intOf dst a
      let q := intOf dst b
      let pu := a.toNat % 2 ^ n
      let qu := b.toNat % 2 ^ n
      laneRel f a b = (match f.aux.toNat with
        | 0 => decide (p = q)
        | 1 => decide (p ≠ q)
        | 2 => decide (p < q)
        | 3 => decide (q ≤ p)
        | 4 => decide (pu < qu)
        | 5 => decide (qu ≤ pu)
        | 6 => decide (p ≤ q)
        | 7 => decide (q < p)
        | 8 => decide (pu ≤ qu)
        | _ => decide (qu < pu), 0))

/-- R98 to R100, R184, R188, R203, R230, R233, R234: the pairwise trees of the reductions and of the check, the chains of a BF16 pass and of a norm, the
exact sums of the other passes, the segments of a special function (the sign of a zero sum there and the choice of a NaN in C0 are the model's
reading, log entry 18), and the variance test. -/
def Obligations.TreesChainsAndSegments : Prop :=
  (∀ (f : VR) (lanes : LaneMask) (v : VReg) (rows : Bool) (g : Nat),
    let op := f.aux.toNat % 4
    let m := Rnd.ofCode f.rnd
    let levels := if rows then 6 else 4
    let lane (q : Nat) : Nat := if rows then 64 * g + q else 64 * q + g
    let leaf (q : Nat) : W32 := BitVec.ofNat 32 (roundV f32 .rne (VR.srcA f (v.getD (lane q) 0))).1
    let ident : W32 := if op = 1 then 0xFF800000 else if op = 2 then 0x7F800000 else 0
    let step (a b : W32) : W32 × BitVec 7 := rndF32 m (if op = 1 then minMaxV true (vF32 a) (vF32 b) else
      if op = 2 then minMaxV false (vF32 a) (vF32 b) else addV m (vF32 a) (vF32 b))
    ∃ (x : Nat → Nat → W32) (fl : Nat → Nat → BitVec 7) (all : BitVec 7),
      (∀ q < 2 ^ levels, (x 0 q, fl 0 q) = if lanes.getLsbD (lane q) then
          (if op = 3 then rndF32 m (mulV (vF32 (leaf q)) (vF32 (leaf q))) else (leaf q, 0)) else (ident, 0))
      ∧ (∀ l < levels, ∀ k < 2 ^ (levels - l - 1), (x (l + 1) k, fl (l + 1) k) = step (x l (2 * k)) (x l (2 * k + 1)))
      ∧ (∀ j, all.getLsbD j = true ↔ ∃ l ≤ levels, ∃ k < 2 ^ (levels - l), (fl l k).getLsbD j = true)
      ∧ redFloat f lanes v rows g = VR.dest f (vF32 (x levels 0), all))
  ∧ (∀ (sp : Sampler) (msz : W32),
    let r := sp.check msz
    ∃ x : Nat → Nat → W32,
      (∀ q < 8192, x 0 q = if q / 128 < sp.sm.toNat ∧ q % 128 < sp.sn.toNat then
        let c := (divByCount (sp.tile.getD q 0) sp.t).1
        (mulF32 c c).1 else 0)
      ∧ (∀ l < 13, ∀ k < 2 ^ (12 - l), x (l + 1) k = (addF32 (x l (2 * k)) (x l (2 * k + 1))).1)
      ∧ r.1 = x 13 0
      ∧ (let v := (divByCount (rndF32 .rne (subV .rne (vF32 (mulF32 msz msz).1) (vF32 (x 13 0)))).1 sp.t).1
        r.2.1 = if (vF32 v).below (.fin false 0 1 0) = true then 0 else v))
  ∧ (∀ (w : W32) (t : Nat), 0 < t → (vF32 w).isFin = true → ∃ v, v.isFin = true ∧ v.sound ∧ v.rat = (vF32 w).rat / (t : Rat) ∧ v.neg = (vF32 w).neg
      ∧ divByCount w t = rndF32 .rne (v, 0))
  ∧ (∀ tau2 f v : W32, (varianceMet tau2 f v).1 = true ↔ (vF32 v).isNan = false ∧ (vF32 (mulF32 tau2 f).1).isNan = false
      ∧ (vF32 (mulF32 tau2 f).1).below (vF32 v) = false)
  ∧ (∀ (m : Rnd) (tab : SfuTable) (x : W32),
    let word (n : Nat) : FVal := vF32 (tab.getD n 0)
    let v := vF32 x
    let t : Rat := (v.rat - (word 0).rat) * (word 1).rat
    let g := t.floor
    let c (n : Nat) : FVal := word (4 + 4 * g.toNat + n)
    let finite : Prop := v.isFin = true ∧ (word 0).isFin = true ∧ (word 1).isFin = true
    (v.isNan = true → sfuLane m tab x = (v.quiet, signals [v]))
    ∧ (v = .inf true → sfuLane m tab x = ((word 2).quiet, 0)) ∧ (v = .inf false → sfuLane m tab x = ((word 3).quiet, 0))
    ∧ (v.isFin = true → (word 0).isFin = false ∨ (word 1).isFin = false → sfuLane m tab x = (FVal.canonical, 0))
    ∧ (finite → g < 0 → sfuLane m tab x = ((word 2).quiet, 0)) ∧ (finite → 63 < g → sfuLane m tab x = ((word 3).quiet, 0))
    ∧ (finite → 0 ≤ g → g ≤ 63 → ∃ fr : W32, f32.chooses .rne (t - (g : Rat)) fr.toNat ∧ fr.toNat < 2 ^ 31
      ∧ sfuLane m tab x = (if (c 0).isNan = true then (c 0).quiet else
        (fmaV m (vF32 fr) (vF32 (rndF32 .rne (fmaV .rne (c 2) (vF32 fr) (c 1))).1) (c 0)).1, 0)))
  ∧ (∀ (h : Shadow) (w : Tile) (row : List Byte) (n : Nat), n ≤ h.nc.toNat →
    let at2 (bs : List Byte) (o : Nat) : FVal := flushV (vBF16 (bs.getD (o + 1) 0 ++ bs.getD o 0))
    let p (k : Nat) : FVal × BitVec 7 := mulV (at2 row (2 * k)) (at2 w.bytes (256 * k + 2 * n))
    let trit (j : Nat) : Int :=
      if w.fmt = 2 then intOf 6 (BitVec.ofNat 32 ((w.bytes.getD (128 * (j / 4) + n) 0).toNat / 4 ^ (j % 4)))
      else let b := (w.bytes.getD (128 * (j / 5) + n) 0).toNat
        if 243 ≤ b then 0 else if b / 3 ^ (j % 5) % 3 = 0 then 0 else if b / 3 ^ (j % 5) % 3 = 1 then 1 else -1
    let act (j : Nat) : Int := if h.act = 2 then ((row.getD j 0).toNat : Int) else (row.getD j 0).toInt
    let out := (passSums h w row).1.getD n 0
    (h.act = 0 → ∃ x : Nat → W32, x 0 = (rndF32 .rne (p 0)).1
      ∧ (∀ k < 63, x (k + 1) = (rndF32 .rne (addV .rne (vF32 (x k)) (p (k + 1)).1)).1) ∧ out = ((x 63).toNat : Int))
    ∧ (h.act ≠ 0 → h.tern = false → out = ((List.range 64).map fun k => (row.getD k 0).toInt * (w.bytes.getD (128 * k + n) 0).toInt).sum)
    ∧ (h.act ≠ 0 → h.tern = true → out = ((List.range 256).map fun j => trit j * act j).sum))
  ∧ ∀ (bs : List Byte) (n : Nat),
    let e (i : Nat) : FVal := flushV (vBF16 (bs.getD (2 * i + 1) 0 ++ bs.getD (2 * i) 0))
    ∃ x : Nat → W32, x 0 = 0 ∧ (∀ i < n, x (i + 1) = (rndF32 .rne (addV .rne (vF32 (x i)) (mulV (e i) (e i)).1)).1)
      ∧ (normOf bs n).1 = (rndF32 .rne (sqrtV (vF32 (x n)))).1

/-! ### Strands, condition bits, queues, guards, waits, fences -/

/-- R26, R27, R33, R111, R112: FORK asks for the split that an accepted descriptor describes, and faults as its checks say; a JOIN whose mask matches
waits for its partners, or goes on where it names its own slots alone, and raises JOIN_MISMATCH otherwise. -/
def Obligations.ForkAndJoinIssue : Prop :=
  ∀ (f : TS) (s : State),
    (Issues s [sreg f.a] [] 0 →
      let a := s.rs f.a
      let d := wordsOf (s.imageAtIssue a.toNat 64)
      let faults (e : Nat) (v : W64) : Prop := exec (.fork f) s = .next (s.faultHere ⟨e, v, s.cur.slot⟩)
      (s.me.inhdl = true → faults causeILLEGAL s.cur.word)
      ∧ (s.me.inhdl = false → a.toNat % 64 ≠ 0 → faults causeALIGN a)
      ∧ (s.me.inhdl = false → a.toNat % 64 = 0 →
        (s.me.inWindow a.toNat 64 = false → faults causeEXTENT a)
        ∧ (s.me.inWindow a.toNat 64 = true → forkOk d s.myStrand s.me.strands.length = false → faults causeILLEGAL s.cur.word)
        ∧ (s.me.inWindow a.toNat 64 = true → forkOk d s.myStrand s.me.strands.length = true →
          (s.myCore.heldBanks &&& banksOfRun a.toNat 64 = 0 → exec (.fork f) s = .next { s with cur := { s.cur with
            verdict := .ok, fork := some ((upTo (forkGroups d)).map (forkGroup d s.myStrand)) } })
          ∧ (s.myCore.heldBanks &&& banksOfRun a.toNat 64 ≠ 0 → exec (.fork f) s = .next (s.heldUp true)))))
    ∧ (Issues s [] [] 0 →
      let m : BitVec 8 := f.imm.setWidth 8
      (joinMismatch s m = true → exec (.join f) s = .next (s.faultHere ⟨causeJOIN, m.setWidth 64, s.cur.slot⟩))
      ∧ (joinMismatch s m = false → m = s.myStrand.slots → exec (.join f) s = .next s.issued)
      ∧ (joinMismatch s m = false → m ≠ s.myStrand.slots →
        exec (.join f) s = .next { s with cur := { s.cur with verdict := .ok, waits := s.cur.waits ++ [.join m] } }))

/-- R113, R115: CBSET and CBCLR set and clear the condition bits of their mask; GSET.S resolves a guard by a register, GCLR makes it unresolved, GSET.Q
resolves it by the oldest entry of a queue, which it pops. R114: CQPUSH pushes whether its register is nonzero, CQPOP pops the oldest entry into its
register, CQCNT counts the landed entries; each result lands at the end of the issue cycle. R113, R117, R118, R261, R263: the waiting operations
issue and leave their strand waiting for what their fields name, with every register, flag and byte of memory unchanged; a CBWAIT with an empty mask
waits for nothing. R118, R268: FENCE takes its place in the order of the context's accesses as an acquire, a release or both, by its ordering code;
PHASE is a FENCE.AR at SYSTEM scope. -/
def Obligations.ConditionsAndWaitsIssue : Prop :=
  (∀ (f : TS) (s : State),
    let g := f.imm.toNat % 8
    let q := f.imm.toNat / 8 % 4
    let guarded (v : Guard) : Vector Guard 8 := s.me.guards.setIfInBounds g v
    (Issues s [] [] 0 →
      exec (.cbset f) s = .next (s.withMe { s.me with cb := s.me.cb ||| f.imm.setWidth 16 })
      ∧ exec (.cbclr f) s = .next (s.withMe { s.me with cb := s.me.cb &&& ~~~(f.imm.setWidth 16) })
      ∧ exec (.gclr f) s = .next (s.withMe { s.me with guards := guarded .unresolved })
      ∧ (∀ b rest, s.me.cq q = b :: rest → s.countEarlier (fun i => decide (popOf i = some q)) < (b :: rest).length →
        exec (.gsetQ f) s = .next (s.withMe { s.me with
          cqs := s.me.cqs.setIfInBounds q rest, guards := guarded (if b then .run else .discard) }))
      ∧ ((s.me.cq q).length ≤ s.countEarlier (fun i => decide (popOf i = some q)) → exec (.gsetQ f) s = .next (s.heldUp false)))
    ∧ (Issues s [sreg f.a] [] 0 →
      exec (.gsetS f) s = .next (s.withMe { s.me with guards := guarded (if s.rs f.a = 0 then .discard else .run) })))
  ∧ (∀ (f : TS) (s : State),
    let q := f.imm.toNat % 4
    (Issues s [sreg f.a] [] 1 →
      s.me.cqLoad q + s.countEarlier (fun i => decide (pushOf i = some q)) - s.popsNow q < 16 →
      exec (.cqpush f) s = .next (s.delivers (.queue q (decide (s.rs f.a ≠ 0))) 1 0))
    ∧ (Issues s [] [sreg f.d] 1 →
      exec (.cqcnt f) s = .next (s.delivers (.scalar f.d.toNat (BitVec.ofNat 64 (s.me.cq q).length)) 1 0)
      ∧ (∀ b rest, s.me.cq q = b :: rest → s.countEarlier (fun i => decide (popOf i = some q)) < (b :: rest).length →
        exec (.cqpop f) s = .next
          ((s.withMe { s.me with cqs := s.me.cqs.setIfInBounds q rest }).delivers (.scalar f.d.toNat (truth b)) 1 0))
      ∧ ((s.me.cq q).length ≤ s.countEarlier (fun i => decide (popOf i = some q)) → exec (.cqpop f) s = .next (s.heldUp false))))
  ∧ (∀ (s : State),
    let waits (i : Instr) (w : Wait) : Prop := exec i s = .next { s with cur := { s.cur with verdict := .ok, waits := s.cur.waits ++ [w] } }
    (Issues s [] [] 0 → ∀ f : TS,
      (let m : BitVec 16 := f.imm.setWidth 16
       (m ≠ 0 → waits (.cbwait f) (.cb m (f.imm.getLsbD 16))) ∧ (m = 0 → exec (.cbwait f) s = .next s.issued))
      ∧ waits (.waitcnt f) (.count (f.imm.toNat % 64) (f.imm.toNat / 64 % 64) (f.imm.toNat / 4096 % 128)
          (f.imm.toNat / 524288 % 32))
      ∧ waits (.fenceAll f) (.all 0))
    ∧ (∀ f : CC, Issues s [sreg f.src] [] 0 → waits (.tokwait f) (.tok ((s.rs f.src).setWidth 16)))
    ∧ (∀ f : CC, Issues s [] [sreg f.tokd] 0 →
      waits (.barwait f) (.bar f.bar.toNat (f.flags.getLsbD 0) f.tokd.toNat none))
    ∧ ∀ f : CC, Issues s [sreg f.len] [sreg f.tokd] 0 →
      waits (.barwaitT f) (.bar f.bar.toNat (f.flags.getLsbD 0) f.tokd.toNat (some (s.rs f.len).toNat)))
  ∧ (∀ (f : TS) (s : State), Issues s [] [] 0 →
    let o := f.imm.toNat % 8
    exec (.fence f) s = .next (s.sends (.fence (decide (o = 1 ∨ o = 4)) (decide (o = 2 ∨ o = 4))) none 0 0 (f.imm.toNat / 8 % 8) 0
      false false)
    ∧ exec (.phase f) s = .next (s.sends (.fence true true) none 0 0 4 0 false false))

/-- R260, R262, R263: BARINIT and BAREXP enter their event into the cycle's events of their barrier, BAREXP raising BARRIER for a count that the balance
cannot hold; BARQ and TOKTEST ask for a value that is taken at the end of the issue cycle. R250 to R252, R262, R263: what transfer barriers do at
the end of a cycle. BARINIT clears a barrier, each BAREXP arms it and lowers its balance, each arrival raises it up to its limit; an error completes
the phase with the highest code, and otherwise an armed phase completes once its balance is not negative, excess noted. BARQ answers the barrier's
state map as it then stands, at the latest 4 issue cycles later, and with its flag clears OVR and ERR. -/
def Obligations.BarrierOperations : Prop :=
  (∀ (f : CC) (s : State),
    let b := s.me.bar f.bar.toNat
    let n := s.rs f.len
    let legal : Prop := n.toNat < 2 ^ 39 ∧ -2 ^ 39 ≤ b.bal - n.toNat
    (Issues s [] [] 0 →
      exec (.barinit f) s = .next (s.withMe { s.me with barEvents := s.me.barEvents ++ [.init f.bar.toNat] }))
    ∧ (Issues s [sreg f.len] [] 0 →
      (legal → exec (.barexp f) s = .next (s.withMe { s.me with
        barEvents := s.me.barEvents ++ [.expect f.bar.toNat n.toNat] }))
      ∧ (¬legal → exec (.barexp f) s = .next (s.faultHere ⟨causeBARRIER, n, s.cur.slot⟩)))
    ∧ (Issues s [] [sreg f.tokd] 0 →
      exec (.barq f) s = .next (s.sends (.barq f.bar.toNat f.tokd.toNat (f.flags.getLsbD 1)) none 0 0 0 0 false false))
    ∧ (Issues s [sreg f.src] [sreg f.tokd] 0 →
      exec (.toktest f) s = .next (s.sends (.toktest ((s.rs f.src).setWidth 16) f.tokd.toNat) none 0 0 0 0 false false)))
  ∧ ((∀ (k : Ctx) (i : Nat), i < 64 →
    let b := k.bar i
    let after := k.closeBarriers.bar i
    let names (e : BarEvent) : Bool := match e with
      | .init j => decide (j = i)
      | .expect j _ => decide (j = i)
      | .arrive j _ => decide (j = i)
      | .error j _ => decide (j = i)
    let expected := k.barEvents.filterMap fun e => match e with | .expect j n => if j = i then some n else none | _ => none
    let arrived := k.barEvents.filterMap fun e => match e with | .arrive j n => if j = i then some n else none | _ => none
    let errors := k.barEvents.filterMap fun e => match e with | .error j c => if j = i then some c else none | _ => none
    let begun := if BarEvent.init i ∈ k.barEvents then { b with bal := 0, arm := false, ovr := false, lastst := false, err := 0 } else b
    let armed := begun.arm || !expected.isEmpty
    let base : Int := begun.bal - expected.sum
    let bal : Int := base + arrived.sum
    k.closeBarriers.barEvents = []
    ∧ ((∀ e ∈ k.barEvents, names e = false) → after = b)
    ∧ ((∃ e ∈ k.barEvents, names e = true) →
      (∀ c ∈ errors, 0 < c → c < 16 → (∀ d ∈ errors, d ≤ c) →
        after.err = BitVec.ofNat 4 c ∧ after.lastst = true ∧ after.ph = !b.ph ∧ after.arm = false ∧ after.bal = 0)
      ∧ ((∀ c ∈ errors, c = 0) → bal < 2 ^ 39 → after = if armed = true ∧ 0 ≤ bal
          then { begun with bal := bal, ovr := begun.ovr || decide (0 < bal), lastst := false, ph := !b.ph, arm := false }
          else { begun with bal := bal, arm := armed })
      ∧ (∀ n, arrived = [n] → 2 ^ 39 ≤ base + n → after.ovr = true ∧ ((∀ c ∈ errors, c = 0) → after.bal = 2 ^ 39 - 1))))
  ∧ (∀ b : Barrier, -2 ^ 39 ≤ b.bal → b.bal < 2 ^ 39 →
    b.word.getLsbD 63 = b.arm ∧ b.word.getLsbD 62 = b.ph ∧ b.word.getLsbD 61 = b.ovr ∧ b.word.getLsbD 60 = b.lastst
      ∧ b.word.extractLsb' 56 4 = b.err ∧ b.word.extractLsb' 40 16 = 0 ∧ (b.word.setWidth 40).toInt = b.bal)
  ∧ ∀ (s : State) (a : Access) (l r : List Access),
    let k := s.ctx a.core a.x
    let u := s.sampleQueries
    s.accs = l ++ a :: r → (∀ e ∈ l ++ r, e.id ≠ a.id ∧ ∀ b d c t, e.kind ≠ .barq b d c ∧ e.kind ≠ .toktest t d) → s.alive a = true →
    (∀ b d clear, a.kind = .barq b d clear → b < 64 →
      u.accs = l ++ r ∧ (∃ p, (u.ctx a.core a.x).pend = k.pend ++ [p] ∧ p.res = .scalar d (k.bar b).word ∧ p.left ≤ 4 ∧ p.inter = true)
        ∧ (u.ctx a.core a.x).bar b = (if clear then { k.bar b with ovr := false, err := 0 } else k.bar b)
        ∧ (∀ j, j ≠ b → (u.ctx a.core a.x).bar j = k.bar j) ∧ u.mem = s.mem)
    ∧ (∀ t d, a.kind = .toktest t d → a.done = false →
      (u.access? a.id).map (fun e => (e.done, e.results)) = some (true, [.scalar d (truth (s.tokenDone a.core a.x t))]) ∧ u.ctxs = s.ctxs ∧ u.mem = s.mem))

/-! ### Control and status registers, traps, clocks -/

/-- R119: CSRR delivers a register's value; CSRW, CSRS and CSRC write the new value of its writable fields in the issue cycle and deliver the old one,
and CSRW and CSRS clear the write-one-to-clear field. R120, R42, R94, R96: what each control and status register reads as. R119, R120: a write
reaches the writable fields alone. TVEC, TEPC and FEREC keep their low bits zero, TVAL takes every bit, a flag register its seven flags; a read-only
register leaves the whole state as it is. A one written to STATUS bit 0 clears BRCOL, the one field of that kind. -/
def Obligations.CsrReadsAndOperations : Prop :=
  (∀ (f : SI) (s : State),
    let n := f.imm.toNat % 4096
    let old := s.csr s.cur.core s.cur.x n
    let a := s.rs f.a
    let wrote (v : W64) : State := s.writeCsr s.cur.core s.cur.x n v
    let back (t : State) : Host.Outcome State Fault Refusal := .next (t.delivers (.scalar f.d.toNat old) 1 0)
    (Issues s [] [sreg f.d] 1 → exec (.csrr f) s = back s)
    ∧ (Issues s [sreg f.a] [] 0 → exec (.csrw f) s = .next ((wrote a).clearCsr s.cur.core s.cur.x n a).issued)
    ∧ (Issues s [sreg f.a] [sreg f.d] 1 →
      exec (.csrs f) s = back ((wrote (old ||| a)).clearCsr s.cur.core s.cur.x n a)
      ∧ exec (.csrc f) s = back (wrote (old &&& ~~~a))))
  ∧ (∀ (s : State) (c x : Nat),
    let k := s.ctx c x
    let reads (n : Nat) (v : W64) : Prop := s.csr c x n = v
    reads 0x000 (BitVec.ofNat 64 (s.cycleOf c)) ∧ reads 0x001 k.issue ∧ reads 0x002 (BitVec.ofNat 64 c) ∧ reads 0x003 (BitVec.ofNat 64 x)
    ∧ reads 0x004 k.taskid ∧ reads 0x018 k.ferec ∧ reads 0x020 k.tvec ∧ reads 0x021 k.tepc ∧ reads 0x022 k.tcause
    ∧ reads 0x023 k.tval ∧ reads 0x030 ((s.core c).clkdiv.setWidth 64) ∧ reads 0x032 ((s.core c).mxcad.setWidth 64)
    ∧ reads 0x033 ((s.core c).mxshare.setWidth 64) ∧ reads 0x040 (k.scrbase.setWidth 64) ∧ reads 0x041 (k.scrlim.setWidth 64)
    ∧ reads 0x042 (k.accbase.setWidth 64) ∧ reads 0x043 (k.acclim.setWidth 64) ∧ reads 0x050 ((s.polver.getD (c / 128 * 2 + c % 16 / 8) 0).setWidth 64) ∧ reads 0x060 (k.mscnt.setWidth 64)
    ∧ reads 0x061 (k.msfro.setWidth 64) ∧ reads 0x062 (k.msvar.setWidth 64) ∧ reads 0x063 (k.msz.setWidth 64)
    ∧ (∀ i < 8, reads (0x010 + i) ((k.fpf.getD i 0).setWidth 64))
    ∧ (let st := s.csr c x 0x008
       st.getLsbD 0 = k.brcol ∧ st.getLsbD 1 = (s.core c).pinned ∧ st.getLsbD 2 = s.memready ∧ st.getLsbD 3 = k.inhdl
       ∧ st.toNat / 16 = (k.strands.length - 1) % 4)
    ∧ ((s.csr c x 0x031).getLsbD 0 = k.clkReq ∧ (s.csr c x 0x031).getLsbD 1 = (s.ctx c (1 - x)).clkReq
       ∧ (s.csr c x 0x031).toNat < 4))
  ∧ (∀ (s : State) (c x : Nat) (v : W64),
    let k := s.ctx c x
    let wrote (n : Nat) (k' : Ctx) : Prop := s.writeCsr c x n v = { s with ctxs := insertKey s.ctxs (2 * c + x) k' }
    wrote 0x018 { k with ferec := v &&& ~~~7#64 } ∧ wrote 0x020 { k with tvec := v &&& ~~~7#64 }
    ∧ wrote 0x021 { k with tepc := v &&& ~~~7#64 } ∧ wrote 0x022 { k with tcause := v &&& 0x7FFFF#64 }
    ∧ wrote 0x023 { k with tval := v }
    ∧ (∀ i < 8, wrote (0x010 + i) { k with fpf := k.fpf.setIfInBounds i (v.setWidth 7) })
    ∧ (∀ n ∈ [0x000, 0x001, 0x002, 0x003, 0x004, 0x008, 0x030, 0x031, 0x032, 0x040, 0x041, 0x042, 0x043, 0x050, 0x060, 0x061,
        0x062, 0x063], s.writeCsr c x n v = s)
    ∧ (s.clearCsr c x 0x008 v = if v.getLsbD 0 = true then { s with ctxs := insertKey s.ctxs (2 * c + x) { k with brcol := false } } else s)
    ∧ (∀ n, n ≠ 0x008 → s.clearCsr c x n v = s)
    ∧ (s.writeCsr c 0 0x033 v = { s with cores := insertKey s.cores c { s.core c with mxshare := v.setWidth 1 } })
    ∧ (x ≠ 0 → s.writeCsr c x 0x033 v = s))

/-- R121 to R125, R357: TRAP and HALT take effect after their bundle, TRET and CLKDIV start a drain, CLKMODE writes the context's request; each raises
what its rule names where it may not run. R126: DISCARD and ACCLIVE record their range for pre-emption; a misaligned operand raises ALIGN and a
range outside its window EXTENT with the lowest address outside. -/
def Obligations.TrapsHaltsAndDeclarations : Prop :=
  (∀ (f : TS) (s : State), Issues s [] [] 0 →
    let ill : Host.Outcome State Fault Refusal := .next (s.faultHere ⟨causeILLEGAL, s.cur.word, s.cur.slot⟩)
    let d : BitVec 12 := f.imm.setWidth 12
    let divs : Prop := (d.toNat / 8 % 8 + 1) % (d.toNat % 8 + 1) = 0
    exec (.trap f) s = .next { s with cur := { s.cur with verdict := .ok, trap := some (f.imm.setWidth 16) } }
    ∧ (s.me.inhdl = true → s.cur.nw = 1 → s.guardFault (some s.cur.strand) = none →
      exec (.tret f) s = .next (s.withMe { s.me with drain := .tret }))
    ∧ (s.me.inhdl = false ∨ s.cur.nw ≠ 1 → exec (.tret f) s = ill)
    ∧ (s.me.strands.length = 1 →
      exec (.halt f) s = .next { s with cur := { s.cur with verdict := .ok, halt := some (f.imm.setWidth 16) } })
    ∧ (s.me.strands.length ≠ 1 → exec (.halt f) s = ill)
    ∧ (s.cur.x = 0 → divs → s.guardFault none = none → exec (.clkdiv f) s = .next (s.withMe { s.me with drain := .clkdiv d }))
    ∧ (s.cur.x ≠ 0 ∨ ¬divs → exec (.clkdiv f) s = ill)
    ∧ (f.imm.getLsbD 0 = false → s.cur.exposed = true → exec (.clkmode f) s = .next (s.faultHere ⟨causeTIMING, 0, s.cur.slot⟩))
    ∧ (f.imm.getLsbD 0 = true ∨ s.cur.exposed = false →
      ∃ t, exec (.clkmode f) s = .next t
        ∧ t = { s.withMe { s.me with clkReq := f.imm.getLsbD 0 } with cores := t.cores }
        ∧ (s.myCore.switchEnd ≠ none → t.cores = s.cores)
        ∧ (s.myCore.switchEnd = none →
          let wants := f.imm.getLsbD 0 || (s.ctx s.cur.core (1 - s.cur.x)).clkReq
          s.cur.x < 2 → (wants = s.myCore.pinned → t.cores = s.cores)
          ∧ (wants ≠ s.myCore.pinned → t.cores = insertKey s.cores s.cur.core { s.myCore with
              switchEnd := some (s.now + 1 + 2048) }))))
  ∧ (∀ (f : TS) (s : State), Issues s [sreg f.a, sreg f.b] [] 0 →
    let a := s.rs f.a
    let n := s.rs f.b
    let i := f.imm.toNat % 8
    let k := s.me
    let first := k.accbase.toNat + 512 * a.toNat
    let faults (j : Instr) (e : Nat) (v : W64) : Prop := exec j s = .next (s.faultHere ⟨e, v, s.cur.slot⟩)
    (a.toNat % 64 = 0 → n.toNat % 64 = 0 → n = 0 ∨ k.inWindow a.toNat n.toNat = true →
      exec (.discard f) s = .next (s.withMe { k with discards := k.discards.setIfInBounds i (a, n) }))
    ∧ (a.toNat % 64 ≠ 0 → faults (.discard f) causeALIGN a)
    ∧ (a.toNat % 64 = 0 → n.toNat % 64 ≠ 0 → faults (.discard f) causeALIGN n)
    ∧ (a.toNat % 64 = 0 → n.toNat % 64 = 0 → n ≠ 0 → k.inWindow a.toNat n.toNat = false →
      faults (.discard f) causeEXTENT (BitVec.ofNat 64 (lowestOutside k.scrbase.toNat k.scrlim.toNat a.toNat n.toNat)))
    ∧ (n = 0 ∨ k.inAcc first (512 * n.toNat) = true →
      exec (.acclive f) s = .next (s.withMe { k with lives := k.lives.setIfInBounds i (a, n) }))
    ∧ (n ≠ 0 → k.inAcc first (512 * n.toNat) = false →
      faults (.acclive f) causeEXTENT (BitVec.ofNat 64 (lowestOutside k.accbase.toNat k.acclim.toNat first (512 * n.toNat)))))

/-! ### Addresses and scalar memory operations -/

/-- R140 to R146: the store and offset that an access reaches in each address space, and where it reaches none. In DEVICE memory the first entry of the
extent table that holds the whole range decides, by its rights. -/
def Obligations.AddressSpacesReachTheirStores : Prop :=
  ∀ (k : Ctx) (core ea n : Nat) (rd wr : Bool),
    let ext (i : Nat) : Extent := k.extents.getD i ⟨0, 0, 0, false, false⟩
    let holds (va i : Nat) : Prop := 0 < (ext i).len ∧ (ext i).vbase ≤ va ∧ va + n ≤ (ext i).vbase + (ext i).len
    let first (va i : Nat) : Prop := i < 8 ∧ holds va i ∧ ∀ j < i, ¬holds va j
    (k.place core 0 ea n rd wr = if k.scrbase.toNat ≤ ea ∧ ea + n ≤ k.scrlim.toNat then some (.scratch core, ea) else none)
    ∧ (k.place core 1 ea n rd wr = if k.accbase.toNat ≤ ea ∧ ea + n ≤ k.acclim.toNat then some (.acc core, ea) else none)
    ∧ (∀ r a, k.place core 2 ea n rd wr = some (r, a) ↔
        ea < 2 ^ 29 ∧ r = .scratch (ea / 2 ^ 21) ∧ a = ea % 2 ^ 21 ∧ ∃ i < 8, ∃ e, k.peers.getD i 0 = e ∧ e.getLsbD 63 = true
          ∧ (e.toNat % 256 = ea / 2 ^ 21) ∧ e.toNat / 2 ^ 8 % 2 ^ 21 ≤ a ∧ a + n ≤ e.toNat / 2 ^ 29 % 2 ^ 22)
    ∧ (∀ r a, k.place core 3 ea n rd wr = some (r, a) ↔
        ea < 2 ^ 28 ∧ r = .pool (ea / 2 ^ 26) ∧ a = ea % 2 ^ 26 ∧ a + n ≤ 2 ^ 26)
    ∧ (∀ r a, k.place core 4 ea n rd wr = some (r, a) ↔
        ((BitVec.ofNat 57 ea).signExtend 64).toNat = ea ∧ r = .dev ∧ ∃ i, first (ea % 2 ^ 57) i
          ∧ a = (ext i).pbase + (ea % 2 ^ 57 - (ext i).vbase) ∧ (rd = true → (ext i).r = true) ∧ (wr = true → (ext i).w = true))
    ∧ ∀ va i e, k.extentHit va n = some (i, e) ↔ first va i ∧ e = ext i

/-- R155, R156, R151: a load of LOCAL or ACC delivers the zero-extended bytes at its address after 5 or 6 issue cycles, with the wait and the clear of
the full/empty forms, whose result is interlocked and counts as an outstanding load, and which acquire where the granule was filled by an arrival of
R280; a load of another space sends an access; the checks raise ALIGN and EXTENT with the address. -/
def Obligations.LoadResults : Prop :=
  ∀ (f : SM) (s : State), Issues s [sreg f.base] [sreg f.data] 1 → (Instr.ld f).wf = true →
    let ea := s.rs f.base + f.off.signExtend 64
    let n := 2 ^ f.size.toNat
    let p := s.me.place s.cur.core f.space.toNat ea.toNat n true false
    let full : Prop := f.fe = 0 ∨ s.fullAtStart s.cur.core ea.toNat = true
    let free : Prop := s.myCore.heldBanks &&& banksOfRun ea.toNat n = 0
    (ea.toNat % n ≠ 0 → exec (.ld f) s = .next (s.faultHere ⟨causeALIGN, ea, s.cur.slot⟩))
    ∧ (ea.toNat % n = 0 → p = none → exec (.ld f) s = .next (s.faultHere ⟨causeEXTENT, ea, s.cur.slot⟩))
    ∧ (ea.toNat % n = 0 → ∀ r a, p = some (r, a) →
      let v := BitVec.ofNat 64 (ofBytes (s.bytes r a n))
      (f.space = 0 → ¬(full ∧ free) → exec (.ld f) s = .next (s.heldUp true))
      ∧ (f.space = 0 → full → free →
        let u := if f.ord = 1 then s.sends (.fence true false) none 0 0 f.scope.toNat 0 false false else s.issued
        (f.fe = 0 → exec (.ld f) s = .next (u.delivers (.scalar f.data.toNat v) 5 0))
        ∧ (f.fe ≠ 0 → ∃ t, exec (.ld f) s = .next t
            ∧ (let k : Ctx := if s.memStart.get (cellKey (.fe s.cur.core) (ea.toNat / 16)) = 2 then { s.me with snap := t.mem, copied := [] } else s.me
               SameButMemory { u.withMe { k with pend := k.pend ++ [{ u.entry (.scalar f.data.toNat v) 5 0 with
                 exposed := false, inter := true, isLoad := true }] } with seqN := u.seqN + 1 } t)
            ∧ (f.fe = 1 → t.mem = s.mem)
            ∧ (f.fe = 2 → Stores s t (cellKey (.fe s.cur.core) (ea.toNat / 16)) [0])))
      ∧ (f.space = 1 → exec (.ld f) s = .next (s.delivers (.scalar f.data.toNat v) 6 0))
      ∧ (2 ≤ f.space.toNat → exec (.ld f) s =
          .next (s.sends (.load n f.data.toNat) (some r) a f.ord.toNat f.scope.toNat f.ac.toNat true false)))

/-- R155, R156, R150: a store to LOCAL or ACC writes the low bytes of its register at its address in the issue cycle, and no other byte; .SF sets the
granule's bit; a store to another space sends an access. A LOCAL release waits until every earlier access of its unit has been performed and
publishes what its unit holds before its own bytes, and a relaxed LOCAL store waits for the releases before it (the model's reading, log entry 21).
No register changes. -/
def Obligations.StoreResults : Prop :=
  ∀ (f : SM) (s : State), Issues s [sreg f.base, sreg f.data] [] 0 → (Instr.st f).wf = true →
    let ea := s.rs f.base + f.off.signExtend 64
    let n := 2 ^ f.size.toNat
    let p := s.me.place s.cur.core f.space.toNat ea.toNat n false true
    let free : Prop := f.space = 0 → s.myCore.heldBanks &&& banksOfRun ea.toNat n = 0
    let after : Prop := f.space = 0 →
      (f.ord = 2 → s.allPerformed s.cur.core s.cur.x s.seqN = true)
      ∧ (f.ord = 3 → ∀ e ∈ s.accs, e.core = s.cur.core → e.x = s.cur.x → e.gen = s.me.gen → e.seq < s.seqN → e.releases = true → e.done = true)
    let bs := toBytes n (s.rs f.data).toNat
    (ea.toNat % n ≠ 0 → exec (.st f) s = .next (s.faultHere ⟨causeALIGN, ea, s.cur.slot⟩))
    ∧ (ea.toNat % n = 0 → p = none → exec (.st f) s = .next (s.faultHere ⟨causeEXTENT, ea, s.cur.slot⟩))
    ∧ (ea.toNat % n = 0 → ∀ r a, p = some (r, a) → ¬free → exec (.st f) s = .next (s.heldUp true))
    ∧ (ea.toNat % n = 0 → ∀ r a, p = some (r, a) → free → ¬after → exec (.st f) s = .next (s.heldUp false))
    ∧ (ea.toNat % n = 0 → ∀ r a, p = some (r, a) → free → after →
      (f.space.toNat ≤ 1 →
        let s0 := if f.space = 0 ∧ f.ord = 2 then s.publish s.cur.core s.cur.x s.me.gen s.seqN else s
        ∃ t, exec (.st f) s = .next t ∧ SameButMemory s0.issued t
          ∧ (f.fe = 0 → Stores s0 t (cellKey r a) bs)
          ∧ (f.fe = 1 → ∃ u, Stores s0 u (cellKey r a) bs ∧ Stores u t (cellKey (.fe s.cur.core) (a / 16)) [1]))
      ∧ (2 ≤ f.space.toNat → exec (.st f) s =
          .next (s.sends (.store bs) (some r) a f.ord.toNat f.scope.toNat f.ac.toNat false true)))

/-- R157 to R159: each atomic in LOCAL or ACC replaces the bytes at its address by the value of its row, in one step with the read of the old value,
which it delivers after 6 issue cycles; AMOCAS writes where the old value is the one expected. Elsewhere it sends an access. R160: FESET and FECLR
write the bits of the granules of their range and nothing else; FEQ delivers the bits of 64 granules, those past the window as 0. -/
def Obligations.AtomicsAndFullEmptyBits : Prop :=
  (∀ (f : SM) (s : State),
    let ea := s.rs f.base + f.off.signExtend 64
    let n := 2 ^ f.size.toNat
    let m := 2 ^ (8 * n)
    let x := (s.rs f.data).toNat % m
    let p := s.me.place s.cur.core f.space.toNat ea.toNat n true true
    let sx (v : Nat) : Int := (BitVec.ofNat (8 * n) v).toInt
    let free : Prop := f.space = 0 → s.myCore.heldBanks &&& banksOfRun ea.toNat n = 0
    let sum (o : Nat) : W32 × BitVec 7 := rndF32 .rne (addV .rne (vF32 (BitVec.ofNat 32 o)) (vF32 (BitVec.ofNat 32 x)))
    let does (i : Instr) (fn : Nat) (new : Nat → Option Nat) (fl : Nat → BitVec 7) : Prop :=
      ea.toNat % n = 0 → ∀ r a, p = some (r, a) → free →
        let old := ofBytes (s.bytes r a n)
        (f.space.toNat ≤ 1 → ∃ t, exec i s = .next t
          ∧ SameButMemory (if f.data = 0 then s.withMe (s.me.raise s.cur.slot (fl old) s.cur.ba)
              else s.delivers (.scalar f.data.toNat (BitVec.ofNat 64 old)) 6 (fl old)) t
          ∧ (match new old with
            | some v => Stores s t (cellKey r a) (toBytes n v)
            | none => t.mem = s.mem))
        ∧ (2 ≤ f.space.toNat → exec i s = .next (s.sends (.amo fn n (s.rs f.data) (s.me.s (f.data.toNat + 1)) f.data.toNat) (some r) a
            f.ord.toNat f.scope.toNat f.ac.toNat true false))
    let quiet : Nat → BitVec 7 := fun _ => 0
    (Issues s [sreg f.base, sreg f.data] [sreg f.data] 1 →
      does (.amoadd f) 0 (fun o => some ((o + x) % m)) quiet
      ∧ does (.amoand f) 1 (fun o => some (o &&& x)) quiet ∧ does (.amoor f) 2 (fun o => some (o ||| x)) quiet
      ∧ does (.amoxor f) 3 (fun o => some (o ^^^ x)) quiet
      ∧ does (.amomin f) 4 (fun o => some (if sx x < sx o then x else o)) quiet
      ∧ does (.amomax f) 5 (fun o => some (if sx o < sx x then x else o)) quiet
      ∧ does (.amominu f) 6 (fun o => some (min o x)) quiet ∧ does (.amomaxu f) 7 (fun o => some (max o x)) quiet
      ∧ does (.amoswp f) 8 (fun _ => some x) quiet
      ∧ (n = 4 → does (.amofadd f) 10 (fun o => some (sum o).1.toNat) fun o => (sum o).2))
    ∧ (Issues s [sreg f.base, sreg f.data, (0, f.data.toNat + 1)] [sreg f.data] 1 →
      does (.amocas f) 9 (fun o => if o = x then some ((s.me.s (f.data.toNat + 1)).toNat % m) else none) quiet))
  ∧ (∀ (f : SM) (s : State),
    let ea := s.rs f.base + f.off.signExtend 64
    let g := (s.rs f.data).toNat
    (Issues s [sreg f.base, sreg f.data] [] 0 →
      let inside : Prop := g = 0 ∨ s.me.inWindow ea.toNat (16 * g) = true
      (ea.toNat % 16 = 0 → inside →
        (∃ t, exec (.feset f) s = .next t ∧ SameButMemory s.issued t
          ∧ Stores s t (cellKey (.fe s.cur.core) (ea.toNat / 16)) (List.replicate g 1))
        ∧ ∃ t, exec (.feclr f) s = .next t ∧ SameButMemory s.issued t
          ∧ Stores s t (cellKey (.fe s.cur.core) (ea.toNat / 16)) (List.replicate g 0))
      ∧ (ea.toNat % 16 ≠ 0 → exec (.feset f) s = .next (s.faultHere ⟨causeALIGN, ea, s.cur.slot⟩)
        ∧ exec (.feclr f) s = .next (s.faultHere ⟨causeALIGN, ea, s.cur.slot⟩))
      ∧ (ea.toNat % 16 = 0 → ¬inside → exec (.feset f) s = .next (s.faultHere ⟨causeEXTENT, ea, s.cur.slot⟩)
        ∧ exec (.feclr f) s = .next (s.faultHere ⟨causeEXTENT, ea, s.cur.slot⟩)))
    ∧ (Issues s [sreg f.base] [sreg f.data] 1 → ea.toNat % 16 = 0 → s.me.inWindow ea.toNat 16 = true →
      ∃ v, exec (.feq f) s = .next (s.delivers (.scalar f.data.toNat v) 6 0)
        ∧ ∀ i < 64, v.getLsbD i = (decide (ea.toNat + 16 * i < s.me.scrlim.toNat) && s.full s.cur.core (ea.toNat + 16 * i))))

/-- R161, R162, R164, R165: a pool instruction whose operands pass their checks sends one access to its pool, counted as a load and as a store; in that
order, a misaligned pool address, LOCAL source or length raises ALIGN, and a range outside a pool, then one outside the LOCAL window, raises EXTENT,
each naming its operand (with L = 0 too, which is log entry 36); the access is relaxed-strong at DEVICE scope (R164). EXTQ delivers what the extent
table says of a range, 0 where no entry holds it. -/
def Obligations.PoolInstructionsAndExtentQuery : Prop :=
  ∀ (f : SR) (s : State),
    let a := s.rs f.a
    let b := s.rs f.b
    let l := s.rs f.c
    let ty := f.cc.toNat % 4
    let e := if ty = 1 then 2 else 4
    let sent (fn : Nat) : State := s.sends (.pool fn ty (f.cc.toNat / 4) a b l.toNat f.d.toNat 0 0) (some (.pool (a.toNat / 2 ^ 26)))
      (a.toNat % 2 ^ 26) 3 3 0 true true
    let inPool : Prop := a.toNat < 2 ^ 28 ∧ a.toNat % 2 ^ 26 + l.toNat ≤ 2 ^ 26
    let inLocal : Prop := s.me.inWindow b.toNat l.toNat = true
    let faults (i : Instr) (cause : Nat) (val : W64) : Prop := exec i s = .next (s.faultHere ⟨cause, val, s.cur.slot⟩)
    let noSource (i : Instr) (fn : Nat) : Prop :=
      (a.toNat % e = 0 → l.toNat % e = 0 → inPool → exec i s = .next (sent fn))
      ∧ (a.toNat % e ≠ 0 → faults i causeALIGN a)
      ∧ (a.toNat % e = 0 → l.toNat % e ≠ 0 → faults i causeALIGN l)
      ∧ (a.toNat % e = 0 → l.toNat % e = 0 → ¬inPool → faults i causeEXTENT a)
    let fromLocal (i : Instr) (fn : Nat) : Prop :=
      (a.toNat % e = 0 → b.toNat % e = 0 → l.toNat % e = 0 → inPool → inLocal → exec i s = .next (sent fn))
      ∧ (a.toNat % e ≠ 0 → faults i causeALIGN a)
      ∧ (a.toNat % e = 0 → b.toNat % e ≠ 0 → faults i causeALIGN b)
      ∧ (a.toNat % e = 0 → b.toNat % e = 0 → l.toNat % e ≠ 0 → faults i causeALIGN l)
      ∧ (a.toNat % e = 0 → b.toNat % e = 0 → l.toNat % e = 0 → ¬inPool → faults i causeEXTENT a)
      ∧ (a.toNat % e = 0 → b.toNat % e = 0 → l.toNat % e = 0 → inPool → ¬inLocal → faults i causeEXTENT b)
    (Issues s [sreg f.a, sreg f.c, sreg f.b] [sreg f.d] 0 →
      fromLocal (.pooladd f) 0 ∧ fromLocal (.poolmax f) 1 ∧ noSource (.poolfill f) 3)
    ∧ (Issues s [sreg f.a, sreg f.c] [sreg f.d] 0 → noSource (.poolred f) 2)
    ∧ (Issues s [sreg f.a, sreg f.b] [sreg f.d] 1 →
      ∃ v : W64, exec (.extq f) s = .next (s.delivers (.scalar f.d.toNat v) 3 0)
        ∧ (canonical a.toNat = false → v = 0)
        ∧ (canonical a.toNat = true → s.me.extentHit (a.toNat % 2 ^ 57) (max b.toNat 1) = none → v = 0)
        ∧ (canonical a.toNat = true → ∀ i x, s.me.extentHit (a.toNat % 2 ^ 57) (max b.toNat 1) = some (i, x) → i < 8 →
          v.getLsbD 63 = true ∧ v.toNat / 2 ^ 53 % 1024 = i ∧ v.getLsbD 52 = x.w ∧ v.getLsbD 51 = x.r ∧ v.toNat / 2 ^ 48 % 8 = 0
          ∧ v.toNat % 2 ^ 48 = (x.pbase + (a.toNat % 2 ^ 57 - x.vbase)) % 2 ^ 48))
    ∧ ((Instr.extq f).wf = true ↔ f.c = 0 ∧ f.cc = 0 ∧ f.rsv = 0)

/-! ### Vector operations -/

/-- R166 to R172, R175: the element-wise operations give every active lane the result of their row, integers exact and then wrapped or saturated as R170
says, floating-point values through the destination path of R92, 8 vector cycles later; VFMA rounds once; VSEL chooses by a mask. R23, R72: an
element-wise operation whose slot is still busy with an operation of interval above 1 waits in a scoreboard region and in a repeat, and raises
ISSUE_INTERVAL in an exposed region. -/
def Obligations.VectorArithmeticResults : Prop :=
  (∀ (f : VR) (s : State),
    let a (e : Nat) : W32 := (s.me.v f.va.toNat).getD e 0
    let b (e : Nat) : W32 := (s.me.v f.vb.toNat).getD e 0
    let c (e : Nat) : W32 := (s.me.v f.vc.toNat).getD e 0
    let m := Rnd.ofCode f.rnd
    let idle : Prop := s.myCore.busy.getD s.cur.slot 0 = 0
    let int (g : Int × Nat → Int × Nat → Int) (e : Nat) : W32 × BitVec 7 :=
      putI f.type.toNat (f.aux.getLsbD 5) (g (elemI f.type.toNat (a e)) (elemI f.type.toNat (b e)))
    let real (g : FVal → FVal → FVal × BitVec 7) (e : Nat) : W32 × BitVec 7 := VR.dest f (g (VR.srcA f (a e)) (VR.srcB f (b e)))
    (Issues s [mreg f.mask, vreg f.va, vreg f.vb] [vreg f.vd] 1 → idle →
      (f.isFloat = false →
        LaneResults s (.vadd f) f 8 4 (int fun a b => a.1 + b.1) ∧ LaneResults s (.vsub f) f 8 4 (int fun a b => a.1 - b.1)
        ∧ LaneResults s (.vmul f) f 8 4 (int fun a b => a.1 * b.1)
        ∧ LaneResults s (.vmin f) f 8 4 (int fun a b => min a.1 b.1) ∧ LaneResults s (.vmax f) f 8 4 (int fun a b => max a.1 b.1)
        ∧ LaneResults s (.vand f) f 8 4 (int fun a b => Int.ofNat (a.2 &&& b.2))
        ∧ LaneResults s (.vor f) f 8 4 (int fun a b => Int.ofNat (a.2 ||| b.2))
        ∧ LaneResults s (.vxor f) f 8 4 (int fun a b => Int.ofNat (a.2 ^^^ b.2))
        ∧ LaneResults s (.vshl f) f 8 4 (int fun a b => a.1 * 2 ^ (b.2 % 64))
        ∧ LaneResults s (.vshr f) f 8 4 (int fun a b => Int.ofNat (a.2 / 2 ^ (b.2 % 64)))
        ∧ LaneResults s (.vsar f) f 8 4 (int fun a b => a.1.fdiv (2 ^ (b.2 % 64))))
      ∧ (f.isFloat = true →
        LaneResults s (.vadd f) f 8 4 (real (addV m))
        ∧ LaneResults s (.vsub f) f 8 4 (real fun a b => addV m a (if b.isNan then b else b.negate))
        ∧ LaneResults s (.vmul f) f 8 4 (real mulV)
        ∧ LaneResults s (.vmin f) f 8 4 (real (minMaxV false)) ∧ LaneResults s (.vmax f) f 8 4 (real (minMaxV true))))
    ∧ (Issues s [mreg f.mask, vreg f.va, vreg f.vb, vreg f.vc] [vreg f.vd] 1 → idle →
      LaneResults s (.vfma f) f 8 4 fun e => VR.dest f (fmaV m (VR.srcA f (a e)) (VR.srcB f (b e)) (VR.srcC f (c e))))
    ∧ (Issues s [mreg f.mask, mreg (f.vc.setWidth 3), vreg f.va, vreg f.vb] [vreg f.vd] 1 → idle →
      LaneResults s (.vsel f) f 8 4 fun e => (if (s.me.m (f.vc.toNat % 8)).getLsbD e then a e else b e, 0)))
  ∧ (∀ (f : VR) (s : State), Issues s [mreg f.mask, vreg f.va, vreg f.vb] [vreg f.vd] 1 → s.myCore.busy.getD s.cur.slot 0 ≠ 0 →
    ∀ i ∈ [Instr.vadd f, .vsub f, .vmul f, .vmin f, .vmax f, .vand f, .vor f, .vxor f, .vshl f, .vshr f, .vsar f],
      (s.cur.exposed = false ∨ s.cur.isRepeat = true → exec i s = .next (s.heldUp false))
      ∧ (s.cur.exposed = true → s.cur.isRepeat = false → exec i s = .next (s.faultHere ⟨causeINTERVAL, 0, s.cur.slot⟩)))

/-- R173, R174, R181: VCMP writes each lane's relation into a mask, 0 where the lane is inactive; VCMPQ pushes whether any active lane, or every active
lane, satisfies it; the mask operations act on all 1,024 bits; MPOP counts. R180, R182: the moves within and across lanes. VMOVS broadcasts a scalar
register or writes one active element, a BF16 in the upper half of its container; VMOVX delivers one element; the rotations, broadcasts and shuffles
take each active lane's element from the lane that their rule names. -/
def Obligations.VectorMasksAndMoves : Prop :=
  (∀ (f : VR) (s : State),
    let q := s.myCore.q
    let act := s.me.m f.mask.toNat
    let rel (e : Nat) : Bool × BitVec 7 := laneRel f ((s.me.v f.va.toNat).getD e 0) ((s.me.v f.vb.toNat).getD e 0)
    let flagsOf (fl : BitVec 7) : Prop :=
      ∀ j, fl.getLsbD j = true ↔ ∃ e < 1024, act.getLsbD e = true ∧ (rel e).2.getLsbD j = true
    let all := BitVec.allOnes 1024
    let md := f.vd.toNat % 8
    let cq := f.vd.toNat % 4
    let room : Prop := s.me.cqLoad cq + s.countEarlier (fun i => decide (pushOf i = some cq)) - s.popsNow cq < 16
    let a := s.me.m (f.va.toNat % 8)
    let b := s.me.m (f.vb.toNat % 8)
    (Issues s [mreg f.mask, vreg f.va, vreg f.vb] [(2, md)] 1 →
      ∃ v fl, exec (.vcmp f) s = .next (s.delivers (.mask md all v) (6 * q) fl) ∧ flagsOf fl
        ∧ ∀ e < 1024, v.getLsbD e = (act.getLsbD e && (rel e).1))
    ∧ (Issues s [mreg f.mask, vreg f.va, vreg f.vb] [] 1 → room →
      ∃ fl, flagsOf fl
        ∧ exec (.vcmpqAny f) s = .next (s.delivers (.queue cq ((List.range 1024).any fun e => act.getLsbD e && (rel e).1)) (9 * q) fl)
        ∧ exec (.vcmpqAll f) s = .next (s.delivers (.queue cq ((List.range 1024).all fun e => !act.getLsbD e || (rel e).1)) (9 * q) fl))
    ∧ (Issues s [mreg (f.va.setWidth 3), mreg (f.vb.setWidth 3)] [(2, md)] 1 →
      exec (.mand f) s = .next (s.delivers (.mask md all (a &&& b)) (2 * q) 0)
      ∧ exec (.mor f) s = .next (s.delivers (.mask md all (a ||| b)) (2 * q) 0)
      ∧ exec (.mxor f) s = .next (s.delivers (.mask md all (a ^^^ b)) (2 * q) 0))
    ∧ (Issues s [mreg (f.va.setWidth 3)] [(2, md)] 1 → exec (.mnot f) s = .next (s.delivers (.mask md all (~~~a)) (2 * q) 0))
    ∧ (Issues s [mreg (f.va.setWidth 3)] [sreg f.aux] 1 →
      exec (.mpop f) s = .next (s.delivers
        (.scalar f.aux.toNat (BitVec.ofNat 64 ((List.range 1024).filter fun e => a.getLsbD e).length)) (4 * q) 0)))
  ∧ (∀ (f : VR) (s : State),
    let q := s.myCore.q
    let a (e : Nat) : W32 := (s.me.v f.va.toNat).getD e 0
    let x (e : Nat) : Nat := ((s.me.v f.vb.toNat).getD e 0).toNat
    let n := f.aux.toNat
    let pos := f.vb.toNat * 32 + f.vc.toNat
    let moves (i : Instr) (lat : Nat) (src : Nat → Nat) : Prop := LaneResults s i f lat 1 fun e => (a (src e), 0)
    (Issues s [mreg f.mask, vreg f.va] [vreg f.vd] 1 →
      moves (.vmov f) 4 id
      ∧ moves (.vrotR f) 6 (fun e => e / 64 * 64 + (e % 64 + 64 - n) % 64)
      ∧ moves (.vrotC f) 4 (fun e => (e / 64 + 16 - n % 16) % 16 * 64 + e % 64)
      ∧ moves (.vbcR f) 5 (fun e => e / 64 * 64 + n) ∧ moves (.vbcC f) 4 (fun e => n % 16 * 64 + e % 64))
    ∧ (Issues s [mreg f.mask, vreg f.va, vreg f.vb] [vreg f.vd] 1 →
      moves (.vshuf f) 8 fun e => if f.aux.getLsbD 0 then x e % 1024 else e / 64 * 64 + x e % 64)
    ∧ (Issues s [mreg f.mask] [vreg f.vd] 1 → LaneResults s (.viota f) f 4 1 fun e => (BitVec.ofNat 32 e, 0))
    ∧ (Issues s [mreg f.mask, sreg f.aux] [vreg f.vd] 1 →
      ∃ lanes v, exec (.vmovs f) s = .next (s.delivers (.vector f.vd.toNat lanes v) (6 * q) 0)
        ∧ (∀ e < 1024, lanes.getLsbD e = ((s.me.m f.mask.toNat).getLsbD e && (f.va.getLsbD 0 || decide (e = pos))))
        ∧ ∀ e < 1024, v.getD e 0 = if f.type = 1 then ((s.rs f.aux).setWidth 16 : BitVec 16) ++ (0 : BitVec 16) else (s.rs f.aux).setWidth 32)
    ∧ (Issues s [vreg f.va] [sreg f.aux] 1 →
      exec (.vmovx f) s = .next (s.delivers (.scalar f.aux.toNat
        (if f.type = 1 then (a pos >>> 16).setWidth 64 else if f.type = 2 then (a pos).signExtend 64 else (a pos).setWidth 64)) (6 * q) 0)))

/-- R176 to R179, R185, R187, R188: conversions, quantisation and special functions give every active lane the result of its rule; a special function
waits for the loads of its table; VSFTAB takes the image of a table from the first 260 elements, to replace it 8 vector cycles later. R183, R184: a
reduction gives every active element of a row or column the result of its group: for I32 the exact sum, maximum, minimum or sum of squares of the
active elements, wrapped or saturated; for floating point the balanced tree of R184. -/
def Obligations.VectorConversionResults : Prop :=
  (∀ (f : VR) (s : State),
    let a (e : Nat) : W32 := (s.me.v f.va.toNat).getD e 0
    let b (e : Nat) : W32 := (s.me.v f.vb.toNat).getD e 0
    let tab := f.aux.toNat % 8
    let idle : Prop := s.myCore.busy.getD s.cur.slot 0 = 0
    (Issues s [mreg f.mask, vreg f.va] [vreg f.vd] 1 →
      LaneResults s (.vcvt f) f 6 1 (fun e => convertLane f (a e))
      ∧ (idle → (∀ l ∈ s.me.tableLoads, l.tab ≠ tab) → LaneResults s (.vsfu f) f 12 4 fun e =>
        VR.dest f (sfuLane (Rnd.ofCode f.rnd) (s.me.table tab) (BitVec.ofNat 32 (roundV f32 .rne (VR.srcA f (a e))).1)))
      ∧ (idle → (∃ l ∈ s.me.tableLoads, l.tab = tab) → exec (.vsfu f) s = .next (s.heldUp false)))
    ∧ (Issues s [mreg f.mask, vreg f.va, vreg f.vb] [vreg f.vd] 1 → idle →
      LaneResults s (.vquant f) f 8 4 (fun e => quantLane f (a e) (b e)) ∧ LaneResults s (.vdeq f) f 8 4 fun e => dequantLane f (a e) (b e))
    ∧ (Issues s [vreg f.va] [] 0 →
      ∃ image : SfuTable, (∀ w < 260, image.getD w 0 = a w)
        ∧ exec (.vsftab f) s = .next (s.withMe { s.me with tableLoads := s.me.tableLoads ++ [⟨tab, image, 8 * s.myCore.q⟩] })))
  ∧ (∀ (f : VR) (s : State), Issues s [mreg f.mask, vreg f.va] [vreg f.vd] 1 →
    let act := s.me.m f.mask.toNat
    let v := s.me.v f.va.toNat
    let lanesOf (rows : Bool) (e : Nat) : List Nat :=
      (List.range 1024).filter fun i => (if rows then decide (i / 64 = e / 64) else decide (i % 64 = e % 64)) && act.getLsbD i
    let xs (rows : Bool) (e : Nat) : List Int := (lanesOf rows e).map fun i => (v.getD i 0).toInt
    let total (rows : Bool) (e : Nat) : Int :=
      if f.aux.toNat % 4 = 0 then (xs rows e).sum
      else if f.aux.toNat % 4 = 1 then (xs rows e).foldl max ((xs rows e).headD 0)
      else if f.aux.toNat % 4 = 2 then (xs rows e).foldl min ((xs rows e).headD 0)
      else ((xs rows e).map fun x => x * x).sum
    (2 ≤ f.type.toNat →
      LaneResults s (.vredR f) f 14 1 (fun e => putI 2 (f.aux.getLsbD 5) (total true e))
      ∧ LaneResults s (.vredC f) f 10 1 (fun e => putI 2 (f.aux.getLsbD 5) (total false e)))
    ∧ (f.type.toNat ≤ 1 →
      LaneResults s (.vredR f) f 14 1 (fun e => redFloat f act v true (e / 64))
      ∧ LaneResults s (.vredC f) f 10 1 (fun e => redFloat f act v false (e % 64))))

/-! ### Vector memory operations -/

/-- R189 to R193, R196: a vector load from LOCAL fills its register from the runs of its footprint 9 vector cycles later. Its full/empty forms wait for
every granule that the runs touch, are interlocked, and acquire where one of them was filled by an arrival of R280; .WFC clears exactly those
granules and no other cell of memory. In another space the load sends one access to the places of its runs. An illegal pattern raises ILLEGAL; a run
off a multiple of 16 raises ALIGN, and a run outside its space or a footprint in several pools EXTENT, each with the lowest address among those that
fail (of one in several pools the lowest run, log entry 11). The footprint has the runs of its layout, of its pattern's whole periods or of its
trits, and each element takes its own bytes of them. -/
def Obligations.VectorLoadResults : Prop :=
  (∀ (f : VM) (ea pitch : W64) (pat : BitVec 128) (data : List (List Byte)),
    let t := f.mtype.toNat
    let w := if t = 0 ∨ t = 2 then 4 else if t = 1 ∨ t = 3 then 2 else 1
    let rows (n : Nat) : Prop := (f.runs ea pitch pat).length = 16
      ∧ ∀ i < 16, (f.runs ea pitch pat).getD i (0, 0) = ((ea.toNat + i * pitch.toNat) % 2 ^ 64, n)
    let at' (r o : Nat) : Nat := ((data.getD r []).getD o 0).toNat
    let v := f.fill pat data
    let el (e : Nat) : W32 := v.1.getD e 0
    let code (e : Nat) : Nat := at' 0 (e / 4) / 4 ^ (e % 4) % 4
    let digit (e : Nat) : Nat := at' 0 (e / 5) / 3 ^ (e % 5) % 3
    let field (i : Nat) : Nat := pat.toNat / 256 ^ i % 256
    let n := field 3
    (f.pat = 0 → t < 6 → (f.layout = 1 → rows (64 * w)) ∧ (f.layout ≠ 1 → f.runs ea pitch pat = [(ea.toNat, 1024 * w)]) ∧ v.2 = 0
      ∧ ∀ e < 1024,
        let r := if f.layout = 1 then e / 64 else 0
        let off := if f.layout = 1 then e % 64 * w else if f.layout = 2 then (16 * (e % 64) + e / 64) * w else e * w
        let x := ((List.range w).map fun i => at' r (off + i) * 256 ^ i).sum
        el e = if t = 1 then BitVec.ofNat 32 (x * 65536) else if t = 3 then (BitVec.ofNat 16 x).signExtend 32
          else if t = 4 then (BitVec.ofNat 8 x).signExtend 32 else BitVec.ofNat 32 x)
    ∧ (f.pat = 0 → t = 6 → f.runs ea pitch pat = [(ea.toNat, 256)] ∧ (∀ e < 1024, el e = if code e = 1 then 1 else if code e = 3 then -1 else 0)
      ∧ v.2 = if (List.range 1024).any (fun e => code e = 2) then 0x40 else 0)
    ∧ (f.pat = 0 → t = 7 → f.runs ea pitch pat = [(ea.toNat, 205)]
      ∧ (∀ e < 1024, el e = if 243 ≤ at' 0 (e / 5) ∨ digit e = 0 then 0 else if digit e = 1 then 1 else -1)
      ∧ v.2 = if (List.range 205).any (fun b => 243 ≤ at' 0 b) then 0x40 else 0)
    ∧ (f.pat ≠ 0 → 0 < n → (f.layout = 0 → f.runs ea pitch pat = [(ea.toNat, (1024 + n - 1) / n * field 0)])
      ∧ (f.layout ≠ 0 → rows (64 / n * field 0)) ∧ v.2 = 0
      ∧ (0 < field 1 → field 1 ≤ 16 → field 5 ≤ 1 → ∀ e < 1024, ∀ j < 32,
        let r := if f.layout = 0 then 0 else e / 64
        let i := if f.layout = 0 then e else e % 64
        let bit (k : Nat) : Bool := (at' r ((i / n * (8 * field 0) + field 4 + i % n * field 2 + k) / 8)).testBit
          ((i / n * (8 * field 0) + field 4 + i % n * field 2 + k) % 8)
        (el e).getLsbD j = if j < field 1 then bit j else decide (field 5 = 1) && bit (field 1 - 1))))
  ∧ ∀ (f : VM) (s : State),
    let k := s.me
    let ea := k.s f.base.toNat + f.off.signExtend 64 * 16
    let pitch := if f.layout = 1 then k.s (f.base.toNat + 1) else 0
    let regs := sreg f.base :: (if f.layout = 1 then [(0, f.base.toNat + 1)] else [])
    let pat := if f.pat = 0 then 0 else k.p f.pat.toNat
    let runs := f.runs ea pitch pat
    let r := f.fill pat (runs.map fun r => s.bytes (.scratch s.cur.core) r.1 r.2)
    let res : Result := .vector f.vd.toNat (BitVec.allOnes 1024) r.1
    let fe (g : Nat) : Nat := cellKey (.fe s.cur.core) g
    let touched (g : Nat) : Prop := ∃ r ∈ runs, 0 < r.2 ∧ r.1 / 16 ≤ g ∧ g ≤ (r.1 + r.2 - 1) / 16
    let reach (r : Nat × Nat) : Bool := (k.place s.cur.core f.space.toNat r.1 r.2 true false).isSome
    let lined : Prop := ∀ r ∈ runs, r.1 % 16 = 0
    let together : Prop := f.space = 3 → ∀ p ∈ runs, ∀ q ∈ runs, p.1 / 2 ^ 26 = q.1 / 2 ^ 26
    let faults (c : Nat) (a : Nat) : Prop := exec (.vld f) s = .next (s.faultHere ⟨c, BitVec.ofNat 64 a, s.cur.slot⟩)
    let full : Prop := f.fe ≠ 0 → ∀ g, touched g → s.memStart.get (fe g) ≠ 0
    let free : Prop := s.myCore.heldBanks &&& banksOfRuns runs = 0
    Issues s (regs ++ (if f.pat = 0 then [] else [preg f.pat])) [vreg f.vd] 1 →
      (patternIllegal f k = true → exec (.vld f) s = .next (s.faultHere ⟨causeILLEGAL, s.cur.word, s.cur.slot⟩))
      ∧ (patternIllegal f k = false →
        (∀ r ∈ runs, r.1 % 16 ≠ 0 → (∀ q ∈ runs, q.1 % 16 ≠ 0 → r.1 ≤ q.1) → faults causeALIGN r.1)
        ∧ (lined → ∀ r ∈ runs, reach r = false → (∀ q ∈ runs, reach q = false → r.1 ≤ q.1) → faults causeEXTENT r.1)
        ∧ (lined → (∀ r ∈ runs, reach r = true) → ¬together → ∀ r ∈ runs, (∀ q ∈ runs, r.1 ≤ q.1) → faults causeEXTENT r.1)
        ∧ (lined → (∀ r ∈ runs, reach r = true) → together →
          (f.space = 0 → ¬(full ∧ free) → exec (.vld f) s = .next (s.heldUp true))
          ∧ (f.space = 0 → full → free →
            (f.fe = 0 → exec (.vld f) s = .next (s.delivers res (9 * s.myCore.q) r.2))
            ∧ (f.fe ≠ 0 → ∃ t, exec (.vld f) s = .next t
              ∧ (∀ snap : Ctx,
                  ((∃ g, touched g ∧ s.memStart.get (fe g) = 2) → snap = { k with snap := t.mem, copied := [] }) →
                  ((∀ g, touched g → s.memStart.get (fe g) ≠ 2) → snap = k) →
                  SameButMemory { s.withMe { snap with pend := k.pend ++ [{ s.entry res (9 * s.myCore.q) r.2 with
                    exposed := false, inter := true, isLoad := true }] } with seqN := s.seqN + 1 } t)
              ∧ (f.fe ≠ 2 → t.mem = s.mem)
              ∧ (f.fe = 2 → (∀ g, touched g → t.mem.get (fe g) = 0)
                ∧ ∀ c, (∀ g, touched g → c ≠ fe g) → t.mem.get c = s.mem.get c)))
          ∧ (f.space ≠ 0 → exec (.vld f) s = .next (s.sendsRuns (.vload f false pat f.vd.toNat)
              (physRuns k s.cur.core f runs true false) 0 0 f.ac.toNat true false))))

/-- R189 to R193, R197, R150: a vector store to LOCAL writes the bytes of its elements at the addresses of its footprint, the last of those that meet
standing; .SF sets the full/empty bits of exactly the granules that its runs touch; no other cell of memory and no register changes, and Saturate of
the store path is raised. In another space it sends one access to the places of its runs. ALIGN and EXTENT name the lowest address among those that
fail (of a footprint in several pools the lowest run, log entry 11). Each element's low bytes go to its own place, and trits are packed in fours or
fives, saturated. -/
def Obligations.VectorStoreResults : Prop :=
  (∀ (f : VM) (ea pitch : W64) (v : VReg),
    let t := f.mtype.toNat
    let w := if t = 0 ∨ t = 2 then 4 else if t = 1 ∨ t = 3 then 2 else 1
    let out := f.spill ea pitch v
    let value (e : Nat) : Int := ((v.getD e 0).extractLsb' 0 8).toInt
    let digit (e minus : Nat) : Nat := if 1024 ≤ e ∨ value e = 0 then 0 else if 0 < value e then 1 else minus
    let flags : Prop := out.2 = if (List.range 1024).any (fun e => value e < -1 || 1 < value e) then 0x20 else 0
    (t < 6 → out.2 = 0 ∧ out.1.length = 1024 * w ∧ ∀ e < 1024, ∀ i < w,
      let a := if f.layout = 1 then (ea.toNat + e / 64 * pitch.toNat) % 2 ^ 64 + e % 64 * w
        else if f.layout = 2 then ea.toNat + (16 * (e % 64) + e / 64) * w else ea.toNat + e * w
      out.1.getD (e * w + i) (0, 0) = (a + i, BitVec.ofNat 8 ((v.getD e 0).toNat / (if t = 1 then 65536 else 1) / 256 ^ i)))
    ∧ (t = 6 → flags ∧ out.1.length = 256 ∧ ∀ b < 256, out.1.getD b (0, 0) =
      (ea.toNat + b, BitVec.ofNat 8 ((List.range 4).map fun i => digit (4 * b + i) 3 * 4 ^ i).sum))
    ∧ (t = 7 → flags ∧ out.1.length = 205 ∧ ∀ b < 205, out.1.getD b (0, 0) =
      (ea.toNat + b, BitVec.ofNat 8 ((List.range 5).map fun i => digit (5 * b + i) 2 * 3 ^ i).sum)))
  ∧ ∀ (f : VM) (s : State),
    let k := s.me
    let ea := k.s f.base.toNat + f.off.signExtend 64 * 16
    let pitch := if f.layout = 1 then k.s (f.base.toNat + 1) else 0
    let regs := sreg f.base :: (if f.layout = 1 then [(0, f.base.toNat + 1)] else [])
    let runs := f.runs ea pitch 0
    let out := f.spill ea pitch (k.v f.vd.toNat)
    let cells := cellsOf k s.cur.core f runs out.1
    let fe (g : Nat) : Nat := cellKey (.fe s.cur.core) g
    let touched (g : Nat) : Prop := ∃ r ∈ runs, 0 < r.2 ∧ r.1 / 16 ≤ g ∧ g ≤ (r.1 + r.2 - 1) / 16
    let reach (r : Nat × Nat) : Bool := (k.place s.cur.core f.space.toNat r.1 r.2 false true).isSome
    let lined : Prop := ∀ r ∈ runs, r.1 % 16 = 0
    let together : Prop := f.space = 3 → ∀ p ∈ runs, ∀ q ∈ runs, p.1 / 2 ^ 26 = q.1 / 2 ^ 26
    let faults (c : Nat) (a : Nat) : Prop := exec (.vst f) s = .next (s.faultHere ⟨c, BitVec.ofNat 64 a, s.cur.slot⟩)
    let free : Prop := s.myCore.heldBanks &&& banksOfRuns runs = 0
    Issues s (vreg f.vd :: regs) [] 0 →
      (∀ r ∈ runs, r.1 % 16 ≠ 0 → (∀ q ∈ runs, q.1 % 16 ≠ 0 → r.1 ≤ q.1) → faults causeALIGN r.1)
      ∧ (lined → ∀ r ∈ runs, reach r = false → (∀ q ∈ runs, reach q = false → r.1 ≤ q.1) → faults causeEXTENT r.1)
      ∧ (lined → (∀ r ∈ runs, reach r = true) → ¬together → ∀ r ∈ runs, (∀ q ∈ runs, r.1 ≤ q.1) → faults causeEXTENT r.1)
      ∧ (lined → (∀ r ∈ runs, reach r = true) → together →
        (f.space = 0 → ¬free → exec (.vst f) s = .next (s.heldUp true))
        ∧ (f.space = 0 → free → ∃ u t : State, exec (.vst f) s = .next t
          ∧ SameButMemory (s.withMe (k.raise s.cur.slot out.2 s.cur.ba)) t
          ∧ (∀ c, (∀ b, (c, b) ∉ cells) → u.mem.get c = s.mem.get c)
          ∧ (∀ l c b l', cells = l ++ (c, b) :: l' → (∀ d, (c, d) ∉ l') → u.mem.get c = b)
          ∧ (f.fe ≠ 1 → t.mem = u.mem)
          ∧ (f.fe = 1 → (∀ g, touched g → t.mem.get (fe g) = 1) ∧ ∀ c, (∀ g, touched g → c ≠ fe g) → t.mem.get c = u.mem.get c))
        ∧ (f.space ≠ 0 → exec (.vst f) s = .next ((s.withMe (k.raise s.cur.slot out.2 s.cur.ba)).sendsRuns (.vstore cells false)
            (physRuns k s.cur.core f runs false true) 0 0 f.ac.toNat false true)))

/-- R198: a gather from LOCAL takes each element from its own address, 12 vector cycles later and with interval 8; a scatter writes each element to its
own address, the highest lane standing where lanes meet; in another space each sends one access to the places of its elements. ALIGN and EXTENT name
the address of the first lane that fails. -/
def Obligations.GatherAndScatter : Prop :=
  ∀ (f : VM) (s : State),
    let k := s.me
    let ea := k.s f.base.toNat + f.off.signExtend 64 * 16
    let idx := k.v (f.vd.toNat + 1)
    let w := mwidth f.mtype.toNat
    let at' (e : Nat) : W64 := ea + (idx.getD e 0).signExtend 64 * BitVec.ofNat 64 w
    let runs := f.gatherRuns ea idx
    let lined : Prop := ∀ e < 1024, (at' e).toNat % w = 0
    let reach (rd wr : Bool) (e : Nat) : Bool := (k.place s.cur.core f.space.toNat (at' e).toNat w rd wr).isSome
    let faults (i : Instr) (c e : Nat) : Prop := exec i s = .next (s.faultHere ⟨c, at' e, s.cur.slot⟩)
    let ready : Prop := f.fe = 0 ∧ (f.space = 0 → s.myCore.heldBanks = 0)
    let idle : Prop := s.myCore.busy.getD s.cur.slot 0 = 0
    (Issues s [sreg f.base, (1, f.vd.toNat + 1)] [vreg f.vd] 1 →
      (∀ e < 1024, (at' e).toNat % w ≠ 0 → (∀ d < e, (at' d).toNat % w = 0) → faults (.vldx f) causeALIGN e)
      ∧ (lined → ∀ e < 1024, reach true false e = false → (∀ d < e, reach true false d = true) → faults (.vldx f) causeEXTENT e)
      ∧ (lined → (∀ e < 1024, reach true false e = true) → ready →
        (f.space = 0 → idle → ∃ v, exec (.vldx f) s = .next ((s.slotBusy 8).delivers
            (.vector f.vd.toNat (BitVec.allOnes 1024) v) (12 * s.myCore.q) 0)
          ∧ ∀ e < 1024, v.getD e 0 = containerOf f.mtype.toNat (ofBytes (s.bytes (.scratch s.cur.core) (at' e).toNat w)))
        ∧ (f.space ≠ 0 → exec (.vldx f) s = .next (s.sendsRuns (.vload f true 0 f.vd.toNat)
            (physRuns k s.cur.core f runs true false) 0 0 f.ac.toNat true false))))
    ∧ (Issues s [sreg f.base, vreg f.vd, (1, f.vd.toNat + 1)] [] 0 →
      (∀ e < 1024, (at' e).toNat % w ≠ 0 → (∀ d < e, (at' d).toNat % w = 0) → faults (.vstx f) causeALIGN e)
      ∧ (lined → ∀ e < 1024, reach false true e = false → (∀ d < e, reach false true d = true) → faults (.vstx f) causeEXTENT e)
      ∧ (lined → (∀ e < 1024, reach false true e = true) → ready → idle →
        let cells := cellsOf k s.cur.core f runs (f.scatterBytes ea idx (k.v f.vd.toNat))
        (f.space = 0 → ∃ t, exec (.vstx f) s = .next t ∧ SameButMemory (s.slotBusy 8).issued t
          ∧ (∀ c, (∀ b, (c, b) ∉ cells) → t.mem.get c = s.mem.get c)
          ∧ ∀ l c b l', cells = l ++ (c, b) :: l' → (∀ d, (c, d) ∉ l') → t.mem.get c = b)
        ∧ (f.space ≠ 0 → exec (.vstx f) s = .next ((s.slotBusy 8).sendsRuns (.vstore cells false)
            (physRuns k s.cur.core f runs false true) 0 0 f.ac.toNat false true))))

/-- R199, R200, R194, R195: VLDA copies accumulator entries as bits and VSTA writes them, EXTENT naming the first byte of the lowest row refused; VSTR
and VSTR.REL send a footprint to the places of its runs in other cores; BFXP takes a legal pattern image and raises ILLEGAL for another one, with
the address as TVAL. -/
def Obligations.AccumulatorRemoteAndPatternAccess : Prop :=
  ∀ (f : VM) (s : State),
    let k := s.me
    let ea := k.s f.base.toNat + f.off.signExtend 64 * 16
    let pitch := if f.layout = 1 then k.s (f.base.toNat + 1) else 0
    let regs := sreg f.base :: (if f.layout = 1 then [(0, f.base.toNat + 1)] else [])
    let q := s.myCore.q
    let rows := if f.layout = 0 then 16 else 64
    let fits (i : Nat) : Prop := ea.toNat % 512 / 4 ≤ (if f.layout = 0 then 64 else 112)
      ∧ k.accbase.toNat ≤ (ea.toNat / 512 + i) * 512 ∧ (ea.toNat / 512 + i + 1) * 512 ≤ k.acclim.toNat
    let legal : Prop := ea.toNat % 4 = 0 ∧ ∀ i < rows, fits i
    (Issues s [sreg f.base] [vreg f.vd] 1 →
      (legal → ∃ v, exec (.vlda f) s = .next (s.delivers (.vector f.vd.toNat (BitVec.allOnes 1024) v) (9 * q) 0)
        ∧ ∀ e < 1024, v.getD e 0 = BitVec.ofNat 32 (ofBytes (s.bytes (.acc s.cur.core) (f.accAddr ea.toNat e) 4)))
      ∧ (ea.toNat % 4 = 0 → ∀ i < rows, ¬fits i → (∀ j < i, fits j) →
        exec (.vlda f) s = .next (s.faultHere ⟨causeEXTENT, BitVec.ofNat 64 (ea.toNat + 512 * i), s.cur.slot⟩)))
    ∧ (Issues s [sreg f.base, vreg f.vd] [] 0 → legal →
      ∃ t, exec (.vsta f) s = .next t ∧ SameButMemory s.issued t
        ∧ (∀ c, (∀ e < 1024, ∀ i < 4, c ≠ cellKey (.acc s.cur.core) (f.accAddr ea.toNat e + i)) → t.mem.get c = s.mem.get c)
        ∧ ∀ e < 1024, (∀ d < 1024, e < d → f.accAddr ea.toNat d + 4 ≤ f.accAddr ea.toNat e ∨ f.accAddr ea.toNat e + 4 ≤ f.accAddr ea.toNat d) →
          ∀ i < 4, t.mem.get (cellKey (.acc s.cur.core) (f.accAddr ea.toNat e + i)) =
            (toBytes 4 ((k.v f.vd.toNat).getD e 0).toNat).getD i 0)
    ∧ (Issues s (vreg f.vd :: regs) [] 0 →
      let runs := f.runs ea pitch 0
      let out := f.spill ea pitch (k.v f.vd.toNat)
      (∀ r ∈ runs, r.1 % 16 = 0) → (∀ r ∈ runs, (k.place s.cur.core f.space.toNat r.1 r.2 false true).isSome = true) →
      (f.space = 3 → ∀ p ∈ runs, ∀ r ∈ runs, p.1 / 2 ^ 26 = r.1 / 2 ^ 26) →
      ∀ rel : Bool, exec (if rel then .vstrRel f else .vstr f) s = .next ((s.withMe (k.raise s.cur.slot out.2 s.cur.ba)).sendsRuns
        (.vstore (cellsOf k s.cur.core f runs out.1) rel) (physRuns k s.cur.core f runs false true) 0 0 f.ac.toNat false true))
    ∧ (Issues s [sreg f.base] [(4, f.vd.toNat % 8)] 1 → ea.toNat % 16 = 0 → k.inWindow ea.toNat 16 = true →
      let image : BitVec 128 := BitVec.ofNat 128 (ofBytes (s.imageAtIssue ea.toNat 16))
      (patLegal image = true → s.myCore.heldBanks &&& banksOfRun ea.toNat 16 = 0 →
        exec (.bfxp f) s = .next (s.delivers (.pattern (f.vd.toNat % 8) image) q 0))
      ∧ (patLegal image = false → exec (.bfxp f) s = .next (s.faultHere ⟨causeILLEGAL, ea, s.cur.slot⟩)))

/-! ### Matrix and copy commands -/

/-- R210, R222 to R225, R230 to R232, R25: a matrix or weight command whose checks pass enters the back of its queue with the values of its registers,
and with the whole shadow for MXGO, and nothing else changes; where its queue is full the context stalls (after the operation's own faults, which is
log entry 11). R210, R222 to R225, R230, R232: a matrix command with a value out of range raises ENGINE with the operation word, before a misaligned
address raises ALIGN with that address. R237: MXSTAT asks for its two results, which wait for the commands that its context has in Q1. R207, R209,
R218 to R221: MXLOOP, MXADDR, MXFMT and MXIDX write their fields of the shadow and nothing else; a level word with a reserved bit set, or more than
1,024 indices, raises ENGINE with the operation word (a count of 0 makes no check of a range, and a gather none of ASTR[0], which is log entry 11). -/
def Obligations.MatrixCommandsIssue : Prop :=
  (∀ (f : MC) (s : State),
    let k := s.me
    let a := s.rs f.a
    let b := s.rs f.b
    let c := s.rs f.c
    let h := k.shadow
    let n := b.toNat
    let tile := tileBytes (f.aux.toNat % 8)
    let cmd (op : Instr) (vals : List W64) (sh : Option Shadow) (banks : W32) : Cmd :=
      s.newCmd op vals sh banks f.wp f.wn f.sp f.sn f.guard 0
    let goes (op : Instr) (q : Nat) (vals : List W64) (sh : Option Shadow) (banks : W32) : Prop :=
      (s.myCore.queueFull q s.cur.x 0 0 = false → exec op s = .next (s.pushes q (cmd op vals sh banks)))
      ∧ (s.myCore.queueFull q s.cur.x 0 0 = true → exec op s = .next (s.heldUp true))
    (Issues s [] [] 0 →
      goes (.msbuild f) 1 [] none 0
      ∧ (h.isEmpty = true ∨ ((h.gather = true → (h.level 0).count.toNat ≤ h.idx.length) ∧ alignAll h.alignValues = none
          ∧ h.extents k = none) → goes (.mxgo f) 1 [] (some h) h.mask))
    ∧ (Issues s [sreg f.a, sreg f.b] [] 0 →
      (b.toNat % 64 = 0 → (k.place s.cur.core 4 b.toNat tile true false).isSome = true → goes (.mxwstrm f) 3 [a, b, 0] none 0)
      ∧ (n ≤ 6144 → a.toNat % 512 = 0 → n = 0 ∨ k.inAcc a.toNat (512 * n) = true → goes (.mxzero f) 1 [a, b, 0] none 0))
    ∧ (Issues s [sreg f.a, sreg f.b, sreg f.c] [] 0 →
      (b.toNat % 64 = 0 → k.inWindow b.toNat tile = true → goes (.mxwld f) 3 [a, b, c] none (c.setWidth 32))
      ∧ (let rows := c.toNat / 2 ^ 32 % 2 ^ 13
         rows ≤ 6144 → a.toNat % 512 = 0 → b.toNat % 16 = 0 →
         rows = 0 ∨ (k.inAcc a.toNat (512 * rows) = true ∧ drainExtent f k b c = none) →
         goes (.mxdrain f) 1 [a, b, c] none (c.setWidth 32))
      ∧ (dimsOk c = true → a.toNat % 16 = 0 → b.toNat % 16 = 0 → k.inWindow a.toNat (128 * (c.toNat % 2 ^ 13)) = true →
         k.inWindow b.toNat (256 * (c.toNat % 2 ^ 13)) = true → goes (.mxnorm f) 1 [a, b, c] none h.mask)
      ∧ (b.setWidth 32 ≠ 0#32 → 0 < c.toNat / 2 ^ 48 → c.toNat / 2 ^ 32 % 2 ^ 16 ≤ c.toNat / 2 ^ 48 → badTau (c.setWidth 32) = false →
         a.toNat % 512 = 0 → goes (.mxsmp f) 1 [a, b, c] none h.mask)))
  ∧ (∀ (f : MC) (s : State),
    let a := s.rs f.a
    let b := s.rs f.b
    let c := s.rs f.c
    let h := s.me.shadow
    let engine (i : Instr) : Prop := exec i s = .next (s.faultHere ⟨causeENGINE, s.cur.word, s.cur.slot⟩)
    let align (i : Instr) (v : W64) : Prop := exec i s = .next (s.faultHere ⟨causeALIGN, v, s.cur.slot⟩)
    (Issues s [] [] 0 → h.isEmpty = false → h.gather = true → h.idx.length < (h.level 0).count.toNat → engine (.mxgo f))
    ∧ (Issues s [sreg f.a, sreg f.b] [] 0 →
      (6144 < b.toNat → engine (.mxzero f)) ∧ (b.toNat ≤ 6144 → a.toNat % 512 ≠ 0 → align (.mxzero f) a)
      ∧ (b.toNat % 64 ≠ 0 → align (.mxwstrm f) b))
    ∧ (Issues s [sreg f.a, sreg f.b, sreg f.c] [] 0 →
      (b.toNat % 64 ≠ 0 → align (.mxwld f) b)
      ∧ (dimsOk c = false → engine (.mxnorm f))
      ∧ (b.setWidth 32 = 0#32 → engine (.mxsmp f)) ∧ (c.toNat / 2 ^ 48 = 0 → engine (.mxsmp f))
      ∧ (6144 < c.toNat / 2 ^ 32 % 2 ^ 13 → engine (.mxdrain f))))
  ∧ (∀ (f : MC) (s : State), Issues s [] [sreg f.a, sreg f.b] 0 →
    exec (.mxstat f) s = .next (s.sends (.mxstat f.a.toNat f.b.toNat
      (((s.myCore.queue 1).filter fun c => decide (c.x = s.cur.x)).map Cmd.id)) none 0 0 0 0 false false))
  ∧ (∀ (f : MC) (s : State),
    let h := s.me.shadow
    let wrote (h' : Shadow) : Host.Outcome State Fault Refusal := .next (s.withMe { s.me with shadow := h' })
    let engine : Host.Outcome State Fault Refusal := .next (s.faultHere ⟨causeENGINE, s.cur.word, s.cur.slot⟩)
    let a := s.rs f.a
    let b := s.rs f.b
    (Issues s [sreg f.a, sreg f.b] [] 0 →
      (b.toNat < 2 ^ 58 →
        let level : Level := ⟨(b >>> 56).setWidth 2, (b >>> 32).setWidth 24, b.setWidth 32, (a >>> 32).setWidth 32, a.setWidth 32⟩
        exec (.mxloop f) s = wrote { h with levels := h.levels.setIfInBounds (f.aux.toNat % 8) level })
      ∧ (2 ^ 58 ≤ b.toNat → exec (.mxloop f) s = engine)
      ∧ exec (.mxfmt f) s = wrote { h with
          act := f.aux.setWidth 2
          tern := f.aux.getLsbD 2
          gather := f.aux.getLsbD 3
          nc := (f.aux >>> 4).setWidth 7
          mask := a.setWidth 32
          gpitch := b }
      ∧ (1024 < b.toNat → exec (.mxidx f) s = engine)
      ∧ (b.toNat ≤ 1024 → a.toNat % 16 ≠ 0 → exec (.mxidx f) s = .next (s.faultHere ⟨causeALIGN, a, s.cur.slot⟩))
      ∧ (b.toNat ≤ 1024 → a.toNat % 16 = 0 → b = 0 ∨ s.me.inWindow a.toNat (4 * b.toNat) = true →
        s.myCore.heldBanks &&& banksOfRun a.toNat (4 * b.toNat) = 0 →
        let words := (List.range b.toNat).map fun e => BitVec.ofNat 32 (ofBytes (s.bytes (.scratch s.cur.core) (a.toNat + 4 * e) 4))
        exec (.mxidx f) s = wrote { h with idx := words }))
    ∧ (Issues s [sreg f.a, sreg f.b, sreg f.c] [] 0 →
      exec (.mxaddr f) s = wrote { h with abase := a, wbase := b.setWidth 32, cbase := s.rs f.c }))

/-- R253 to R258: a copy command takes the next token of its context, enters its queue with the values of its registers, and delivers the token after
one issue cycle; a full queue stalls. Before that, in this order: a length or a total above 64 MiB, an empty peer set or one with its reserved bits
set raises ENGINE with the operation word; the first address, length, offset or pitch off a multiple of 16 raises ALIGN; a near span outside the
window, a far span outside one pool or not canonical, and a peer span outside its window raise EXTENT, the source's peers before the near side and
the destinations after the far side (the places of TOKD's PARTITION and of the full queue in that order are log entry 11). R264: CPCAN of a token
that no outstanding copy of the context holds changes nothing; a copy that has not started becomes a cancelled one with error 4; a running one is
cancelled, to stop after its current block; a parked one loses its fault, for which a reply is dropped, and is to complete with error 4 unless it
has met another. Beside the command and the faults that await a reply nothing changes. What becomes of a parked and of a running copy is the model's
reading (log entry 16). -/
def Obligations.CopyInstructionsIssue : Prop :=
  (∀ (f : CC) (s : State),
    let k := s.me
    let tok := k.newest + 1
    let dst := k.s f.dst.toNat
    let src := k.s f.src.toNat
    let len := k.s f.len.toNat
    let geo := k.s (f.len.toNat + 1)
    let bytes := len.toNat % 2 ^ 32
    let rows := geo.toNat % 2 ^ 16
    let srcStep := geo.toNat / 2 ^ 16 % 2 ^ 24
    let dstStep := geo.toNat / 2 ^ 40
    let long : Prop := 2 ^ 26 < bytes
    let sent (op : Instr) (q : Nat) (w : W64) (banks : W32) : State :=
      let c := { s.newCmd op [dst, src, len, w] none banks f.wp f.wn f.sp f.sn f.guard f.ac.toNat with tok := tok }
      ((s.pushes q c).withMe { k with newest := tok }).delivers (.scalar f.tokd.toNat (tok.setWidth 64)) 1 0
    let faults (op : Instr) (e : Nat) (v : W64) : Prop := exec op s = .next (s.faultHere ⟨e, v, s.cur.slot⟩)
    let lined (l : List W64) : Prop := ∀ v ∈ l, v.toNat % 16 = 0
    let goes (op : Instr) (q : Nat) (w : W64) (banks : W32) (engine : Prop) (values : List W64) (spans : Prop) : Prop :=
      (engine → faults op causeENGINE s.cur.word)
      ∧ (¬engine → ∀ l v r, values = l ++ v :: r → lined l → v.toNat % 16 ≠ 0 → faults op causeALIGN v)
      ∧ (¬engine → lined values → spans →
        (s.myCore.queueFull q s.cur.x 0 0 = false → exec op s = .next (sent op q w banks))
        ∧ (s.myCore.queueFull q s.cur.x 0 0 = true → exec op s = .next (s.heldUp true)))
    let extent (op : Instr) (engine : Prop) (values : List W64) (bad : Prop) (v : Nat) : Prop :=
      ¬engine → lined values → bad → faults op causeEXTENT (BitVec.ofNat 64 v)
    let near (a n : Nat) : Prop := n = 0 ∨ (k.scrbase.toNat ≤ a ∧ a + n ≤ k.scrlim.toNat)
    let nearOut (a : Nat) : Nat := if a < k.scrbase.toNat then a else max a k.scrlim.toNat
    let pool := f.flags.getLsbD 1
    let canon (a : Nat) : Prop := ((BitVec.ofNat 57 a).signExtend 64).toNat = a
    let far (a n : Nat) : Prop := if pool then a < 2 ^ 28 ∧ a % 2 ^ 26 + n ≤ 2 ^ 26 else canon a ∧ canon (a + (n - 1))
    let farOut (a : Nat) : Nat := if pool = true ∧ a < 2 ^ 28 then (a / 2 ^ 26 + 1) * 2 ^ 26 else a
    let spans (op : Instr) (q : Nat) (w : W64) (engine : Prop) (values : List W64) (na nn fa fn : Nat) : Prop :=
      goes op q w ((len >>> 32).setWidth 32) engine values (near na nn ∧ far fa fn)
      ∧ extent op engine values (¬near na nn) (nearOut na) ∧ extent op engine values (near na nn ∧ ¬far fa fn) (farOut fa)
    let noPeers (v : W64) : Prop := v.toNat / 2 ^ 56 = 0 ∨ v.toNat / 2 ^ 21 % 2 ^ 35 ≠ 0
    let offset (v : W64) : Nat := v.toNat % 2 ^ 21
    let first (i : Nat) : Nat := (k.peers.getD i 0).toNat / 2 ^ 8 % 2 ^ 21
    let limit (i : Nat) : Nat := (k.peers.getD i 0).toNat / 2 ^ 29 % 2 ^ 22
    let valid (i : Nat) : Bool := (k.peers.getD i 0).getLsbD 63
    let peer (v : W64) (i : Nat) : Prop :=
      v.getLsbD (56 + i) = true → valid i = true ∧ (bytes = 0 ∨ first i + offset v + bytes ≤ limit i)
    let peerOut (v : W64) (i : Nat) : Nat := (k.peers.getD i 0).toNat % 2 ^ 8 * 2 ^ 21
      + if valid i then max (first i + offset v) (limit i) else first i + offset v
    (Issues s [sreg f.dst, sreg f.src, sreg f.len] [sreg f.tokd] 1 →
      spans (.cpin f) 0 0 long [dst, src, BitVec.ofNat 64 bytes] dst.toNat bytes src.toNat bytes
      ∧ spans (.cpout f) 2 0 long [dst, src, BitVec.ofNat 64 bytes] src.toNat bytes dst.toNat bytes
      ∧ (let values := [BitVec.ofNat 64 (offset dst), src, BitVec.ofNat 64 bytes]
         let engine : Prop := long ∨ noPeers dst
         goes (.cpmc f) 0 0 0 engine values (far src.toNat bytes ∧ ∀ i < 8, peer dst i)
         ∧ extent (.cpmc f) engine values (¬far src.toNat bytes) (farOut src.toNat)
         ∧ ∀ i < 8, extent (.cpmc f) engine values (far src.toNat bytes ∧ ¬peer dst i ∧ ∀ j < i, peer dst j) (peerOut dst i))
      ∧ (let values := [dst, BitVec.ofNat 64 (offset src), BitVec.ofNat 64 bytes]
         let engine : Prop := long ∨ noPeers src
         let n := ((List.range 8).filter fun i => src.getLsbD (56 + i)).length * bytes
         goes (.cprs f) 0 0 ((len >>> 32).setWidth 32) engine values (near dst.toNat n ∧ ∀ i < 8, peer src i)
         ∧ (∀ i < 8, extent (.cprs f) engine values (¬peer src i ∧ ∀ j < i, peer src j) (peerOut src i))
         ∧ extent (.cprs f) engine values ((∀ i < 8, peer src i) ∧ ¬near dst.toNat n) (nearOut dst.toNat)))
    ∧ (Issues s [sreg f.dst, sreg f.src, sreg f.len, (0, f.len.toNat + 1)] [sreg f.tokd] 1 →
      let values := [dst, src, BitVec.ofNat 64 bytes, BitVec.ofNat 64 srcStep, BitVec.ofNat 64 dstStep]
      let engine : Prop := long ∨ 2 ^ 26 < rows * bytes
      let span (step : Nat) : Nat := (rows - 1) * step + bytes
      let nearSpan (step : Nat) : Nat := if bytes = 0 ∨ rows = 0 then 0 else span step
      (f.flags.getLsbD 2 = false → spans (.cp2d f) 0 geo engine values dst.toNat (nearSpan dstStep) src.toNat (span srcStep))
      ∧ (f.flags.getLsbD 2 = true → spans (.cp2d f) 2 geo engine values src.toNat (nearSpan srcStep) dst.toNat (span dstStep))))
  ∧ (∀ (f : CC) (s : State), Issues s [sreg f.src] [] 0 →
    let held (c : Cmd) : Bool := decide (c.x = s.cur.x ∧ c.tok = (s.rs f.src).setWidth 16) && c.isCopy
    let changed (id : Nat) (g : Cmd → Cmd) : List (Nat × Core) := insertKey s.cores s.cur.core { s.myCore with
      queues := s.myCore.queues.map fun l => l.map fun d => if d.id = id then g d else d }
    (s.myCore.cmds.any held = false → exec (.cpcan f) s = .next s.issued)
    ∧ ∃ t, exec (.cpcan f) s = .next t ∧ t = { s.issued with cores := t.cores, openFaults := t.openFaults }
      ∧ ∀ c, s.myCore.cmds.find? held = some c →
        let unfaulted := s.openFaults.filter fun o =>
          !decide (o.core = s.cur.core ∧ o.x = s.cur.x ∧ o.gen = c.gen ∧ o.token = some c.tok)
        (c.state = .waiting → t.openFaults = unfaulted
          ∧ t.cores = changed c.id fun d => { d with cancelled := true, err := 4, faultTag := none })
        ∧ (c.state = .stopped → t.openFaults = unfaulted
          ∧ t.cores = changed c.id fun d => { d with cancelled := true, err := 4, faultTag := none, state := .running })
        ∧ (c.state = .running → t.openFaults = s.openFaults ∧ t.cores = changed c.id fun d => { d with cancelled := true })
        ∧ (c.state = .parked → (∀ d ∈ s.myCore.cmds, d.id = c.id → d.state = .parked) → t.openFaults = unfaulted
          ∧ t.cores = changed c.id fun d => { d with
              cancelled := true, err := if d.err = 0 then 4 else d.err, state := if d.state = .parked then .running else d.state, faultTag := none })
        ∧ (c.state = .finishing → t.openFaults = s.openFaults ∧ t.cores = s.cores))

/-! ### Task and mailbox instructions -/

/-- R11, R285, R306, R307, R297: SPAWN publishes every earlier store of its unit, gives its record a TASKID and puts it into the core's own queue;
SPAWN.D sends it across the mesh in the order of its path, or puts it into the own queue where that is its target; a record outside the window
raises EXTENT, one that is not well formed ENGINE, and without a place for it, or while an earlier access has not been performed, the strand waits
(that it waits for those accesses and then publishes is log entry 21). R283, R286: the unit of a record holds the record's words, and its TASKID is
its die's number above the die's next sequence number. -/
def Obligations.SpawnSendsARecord : Prop :=
  (∀ (f : TS) (s : State),
    let a := s.rs f.a
    let img := s.imageAtIssue a.toNat 64
    let c := s.cur.core
    let ready : Prop := a.toNat % 64 = 0 ∧ s.me.inWindow a.toNat 64 = true ∧ recordOk img = true
      ∧ s.myCore.heldBanks &&& banksOfRun a.toNat 64 = 0
    let r := (s.publish c s.cur.x s.me.gen s.seqN).newUnit img
    let done : Prop := s.allPerformed c s.cur.x s.seqN = true
    let bad (i : Instr) : Prop :=
      (a.toNat % 64 ≠ 0 → exec i s = .next (s.faultHere ⟨causeALIGN, a, s.cur.slot⟩))
      ∧ (a.toNat % 64 = 0 → s.me.inWindow a.toNat 64 = false → exec i s = .next (s.faultHere ⟨causeEXTENT, a, s.cur.slot⟩))
      ∧ (a.toNat % 64 = 0 → s.me.inWindow a.toNat 64 = true → recordOk img = false →
        exec i s = .next (s.faultHere ⟨causeENGINE, a, s.cur.slot⟩))
    (Issues s [sreg f.a] [] 0 → bad (.spawn f)
      ∧ (ready → s.pushRoom c = true → done →
        exec (.spawn f) s = .next (r.2.pushUnit c r.1).issued)
      ∧ (ready → s.pushRoom c = false ∨ ¬done → exec (.spawn f) s = .next (s.heldUp false)))
    ∧ (Issues s [sreg f.a, sreg f.b] [] 0 → bad (.spawnD f)
      ∧ (let target := (s.rs f.b).toNat % 256
         (ready → s.pushRoom target = false ∨ ¬done → exec (.spawnD f) s = .next (s.heldUp false))
         ∧ (ready → s.pushRoom target = true → done →
           (target = c → exec (.spawnD f) s = .next (r.2.pushUnit c r.1).issued)
           ∧ (target ≠ c → ∃ due, (PathsOk s → s.follows c target s.now due) ∧ exec (.spawnD f) s = .next (State.issued { r.2 with
             packets := r.2.packets ++ [⟨c, target, s.now, due⟩]
             transits := r.2.transits ++ [{ id := r.2.seqN, unit := r.1, core := target, due := due }]
             freeN := r.2.freeN + 1
             seqN := r.2.seqN + 1 }))))))
  ∧ (∀ (s : State) (img : List Byte),
    let die := dieOf s.cur.core
    let w (i : Nat) : W64 := BitVec.ofNat 64 (ofBytes ((img.drop (8 * i)).take 8))
    let n := s.recSeq.getD die 0
    let u := (s.newUnit img).1
    die < 4 → u.code = w 0 ∧ u.frame = w 1 ∧ u.ctl = w 2 ∧ u.arg = w 3 ∧ u.rngs = [w 4, w 5, w 6, w 7] ∧ u.isStep = false
      ∧ u.taskid.toNat = die * 2 ^ 48 + n.toNat
      ∧ (s.newUnit img).2 = { s with recSeq := s.recSeq.setIfInBounds die (n + 1) })

/-- R309 to R311, R35: TEND, TCONT and TYIELD end or yield their unit after their bundle; in a forked context, and for a step's TCONT, they are ILLEGAL;
a continuation's record takes the JV and JADDR of the ending unit. R11, R12, R308: SPAWNOP reads the 256 bytes of its block as a plain load would,
raises ENGINE where the block is not well formed, and waits for acceptance (that it reads at issue, with its unit's own stores on their way, is log
entry 26); the reply comes after a round trip over the mesh (R11, R12) and an open access time (log entry 20). -/
def Obligations.UnitsEndAndBlocksAreRead : Prop :=
  (∀ (f : TS) (s : State),
    let ill : Host.Outcome State Fault Refusal := .next (s.faultHere ⟨causeILLEGAL, s.cur.word, s.cur.slot⟩)
    let a := s.rs f.a
    let img := s.imageAtIssue a.toNat 64
    let u := unitOfRecord img
    let alone : Prop := s.me.strands.length = 1
    let step := (s.me.unit.map WorkUnit.isStep).getD false
    let old := (s.me.unit.map WorkUnit.ctl).getD 0
    (Issues s [] [] 0 →
      (¬alone → exec (.tend f) s = ill ∧ exec (.tyield f) s = ill)
      ∧ (alone → exec (.tend f) s = .next { s with cur := { s.cur with verdict := .ok, tend := some none } })
      ∧ (alone → s.saveRoom s.cur.core s.cur.x = true →
        exec (.tyield f) s = .next { s with cur := { s.cur with verdict := .ok, yield := true } })
      ∧ (alone → s.saveRoom s.cur.core s.cur.x = false → exec (.tyield f) s = .next (s.heldUp false)))
    ∧ (Issues s [sreg f.a] [] 0 →
      (¬alone ∨ step = true → exec (.tcont f) s = ill)
      ∧ (alone → step = false → a.toNat % 64 = 0 → s.me.inWindow a.toNat 64 = true → recordOk img = true →
        s.myCore.heldBanks &&& banksOfRun a.toNat 64 = 0 →
        exec (.tcont f) s = .next { s with cur := { s.cur with verdict := .ok, tend := some (some { u with
          ctl := (u.ctl &&& ~~~0x7FFFFFFF#64) ||| (old &&& 0x7FFFFFFF#64) }) } })))
  ∧ (∀ (f : TS) (s : State) (r : Region) (o : Nat), Issues s [sreg f.a] [] 0 →
    let a := s.rs f.a
    let l := blockLoad s (r, o)
    let bs := blockBytes s l (r, o)
    let asked := s.freeN + 256 * s.held.length
    let c := s.cur.core
    let tile := nearestCorner c (o / (6 * 2 ^ 36))
    (a.toNat % 64 ≠ 0 → exec (.spawnop f) s = .next (s.faultHere ⟨causeALIGN, a, s.cur.slot⟩))
    ∧ (a.toNat % 64 = 0 → s.me.place s.cur.core 4 a.toNat 256 true false = none →
      exec (.spawnop f) s = .next (s.faultHere ⟨causeEXTENT, a, s.cur.slot⟩))
    ∧ (a.toNat % 64 = 0 → s.me.place s.cur.core 4 a.toNat 256 true false = some (r, o) →
      (blockWaits s l = true → exec (.spawnop f) s = .next (s.heldUp false))
      ∧ (blockWaits s l = false → blockOk bs = false → exec (.spawnop f) s = .next (s.faultHere ⟨causeENGINE, a, s.cur.slot⟩))
      ∧ (blockWaits s l = false → blockOk bs = true → ∃ there back,
          let left := there + 1 + Config.delay (asked + 1)
          (PathsOk s → s.follows c tile s.now there ∧ s.follows tile c left back)
          ∧ exec (.spawnop f) s = .next { s with
            packets := s.packets ++ [⟨c, tile, s.now, there⟩, ⟨tile, c, left, back⟩]
            freeN := asked + 3
            cur := { s.cur with verdict := .ok, waits := s.cur.waits ++ [.block a bs back s.seqN] } })))

/-- R312 to R314: TSTAT, JCNEW and JCADD check their operands and send one access to the join word, an acquire, a release and both; TSTAT of s0 asks for
the word that released its task. R348 to R351: the mailbox instructions check their operands, each reason of MAILBOX in its order, and send one
access to the unit. -/
def Obligations.JoinWordsAndMailboxesIssue : Prop :=
  (∀ (f : TS) (s : State),
    let a := s.rs f.a
    let b := s.rs f.b
    let place : Option Region := some (.pool (a.toNat / 2 ^ 26))
    let sent (k : AccessKind) (ord : Nat) : State := s.sends k place (a.toNat % 2 ^ 26) ord 3 0 true false
    let inPool : Prop := a.toNat % 8 = 0 ∧ a.toNat < 2 ^ 28
    (Issues s [sreg f.a] [sreg f.d] 0 →
      (f.a = 0 → exec (.tstat f) s = .next (s.sends (.query f.d.toNat s.me.relWord) none 0 0 0 0 true false))
      ∧ (f.a ≠ 0 → inPool → exec (.tstat f) s = .next (sent (.tstat a.toNat f.d.toNat) 1))
      ∧ (f.a ≠ 0 → a.toNat % 8 ≠ 0 → exec (.tstat f) s = .next (s.faultHere ⟨causeALIGN, a, s.cur.slot⟩))
      ∧ (f.a ≠ 0 → a.toNat % 8 = 0 → 2 ^ 28 ≤ a.toNat → exec (.tstat f) s = .next (s.faultHere ⟨causeEXTENT, a, s.cur.slot⟩)))
    ∧ (Issues s [sreg f.a, sreg f.b] [sreg f.d] 0 →
      (inPool → exec (.jcadd f) s = .next (sent (.jcadd a.toNat (b.toNat % 2 ^ 32) f.d.toNat) 4))
      ∧ (inPool → b.toNat % 64 = 0 → s.me.inWindow b.toNat 64 = true → recordOk (s.imageAtIssue b.toNat 64) = true →
        s.myCore.heldBanks &&& banksOfRun b.toNat 64 = 0 →
        exec (.jcnew f) s = .next (sent (.jcnew a.toNat f.imm.toNat (s.imageAtIssue b.toNat 64) f.d.toNat) 2))
      ∧ (a.toNat % 8 ≠ 0 → exec (.jcadd f) s = .next (s.faultHere ⟨causeALIGN, a, s.cur.slot⟩)
        ∧ exec (.jcnew f) s = .next (s.faultHere ⟨causeALIGN, a, s.cur.slot⟩))))
  ∧ (∀ (f : TS) (s : State),
    let a := s.rs f.a
    let b := s.rs f.b
    let m := f.imm.toNat % 64 + 1
    let pair := b.toNat % 2 ^ 14
    let n := b.toNat / 2 ^ 16 % 2 ^ 16
    let e := s.imageAtIssue a.toNat 256
    let sent (k : AccessKind) : Host.Outcome State Fault Refusal := .next (s.sends k none 0 3 2 0 true false)
    let faults (c : Nat) (v : W64) : Host.Outcome State Fault Refusal := .next (s.faultHere ⟨c, v, s.cur.slot⟩)
    let range : Prop := 1 ≤ n ∧ n ≤ 16384 ∧ pair + n ≤ 16384
    (Issues s [sreg f.a, sreg f.b] [sreg f.d] 0 →
      (a.toNat % 256 ≠ 0 → exec (.mbrecv f) s = faults causeALIGN a)
      ∧ (a.toNat % 256 = 0 → s.me.inWindow a.toNat (256 * m) = false → exec (.mbrecv f) s = faults causeEXTENT a)
      ∧ (a.toNat % 256 = 0 → s.me.inWindow a.toNat (256 * m) = true →
        (2 ^ 32 ≤ b.toNat → exec (.mbrecv f) s = faults causeMAILBOX 1)
        ∧ (b.toNat < 2 ^ 32 → ¬range → exec (.mbrecv f) s = faults causeMAILBOX 2)
        ∧ (b.toNat < 2 ^ 32 → range → exec (.mbrecv f) s = sent (.mbrecv a.toNat (b.toNat % 2 ^ 16) n m f.d.toNat)))
      ∧ (a.toNat % 32 = 0 → s.me.inWindow a.toNat 256 = true →
        (2 ^ 16 ≤ b.toNat → exec (.mbsend f) s = faults causeMAILBOX 1)
        ∧ (b.toNat < 2 ^ 16 → entryKind e ≠ 2 → exec (.mbsend f) s = faults causeMAILBOX 3)
        ∧ (b.toNat < 2 ^ 16 → entryKind e = 2 → 224 < entryField e 12 2 → exec (.mbsend f) s = faults causeMAILBOX 4)
        ∧ (b.toNat < 2 ^ 16 → entryKind e = 2 → entryField e 12 2 ≤ 224 →
          exec (.mbsend f) s = sent (.mbsend b.toNat e f.d.toNat))))
    ∧ (Issues s [sreg f.a] [sreg f.d] 0 →
      (2 ^ 16 ≤ a.toNat → exec (.mbstat f) s = faults causeMAILBOX 1)
      ∧ (a.toNat < 2 ^ 16 → exec (.mbstat f) s = sent (.mbstat a.toNat f.d.toNat))))

/-! ### Encodings -/

/-- R46, R50 to R63, R65, R345: the words of the manual's worked encodings decode to the operations that they stand for, and two words that the manual
calls unassigned to no operation. -/
def Obligations.WrittenWordsDecode : Prop :=
  decodeOp 0x92000C1080000000#64 = ⟨1, 1, 0, .add ⟨3, 1, 2, 0, 0, 0⟩⟩
    ∧ decodeOp 0x1210145FFFFFFFC0#64 = ⟨0, 1, 0, .addi ⟨5, 5, 0xFFFFFFFC0⟩⟩
    ∧ decodeOp 0xA380101000401800#64 = ⟨1, 2, 0, .ld ⟨4, 1, 0x40, 0, 3, 0, 0, 0, 0, 0⟩⟩
    ∧ decodeOp 0x90501E0000000000#64 = ⟨1, 1, 0, .rep ⟨7, 32, 0⟩⟩
    ∧ decodeOp 0x8010000000000002#64 = ⟨1, 0, 0, .br ⟨0, 0, 0, 0, 2⟩⟩
    ∧ decodeOp 0xBC10088640408200#64 = ⟨1, 3, 1, .vfma ⟨1, 2, 3, 4, 0, 0, 0, 1, 0, 0, 0, 0, 0, 1, 0, 2, 0, 0⟩⟩
    ∧ decodeOp 0xD6003A8000080800#64 = ⟨1, 5, 0, .vld ⟨7, 20, 4, 0, 1, 0, 0, 0, 0, 0⟩⟩
    ∧ decodeOp 0xE6C100A2A000000B#64 = ⟨1, 6, 0, .mxwstrm ⟨0, 0, 0, 0, 0, 20, 21, 0, 0xB⟩⟩
    ∧ decodeOp 0xF700105166066800#64 = ⟨1, 7, 0, .cpin ⟨0, 0, 0, 1, 0, 10, 11, 12, 3, 13, 0, 0, 0⟩⟩
    ∧ decodeOp 0x87A0515580000003#64 = ⟨1, 0, 0, .jcnew ⟨20, 21, 22, 3⟩⟩
    ∧ (decodeOp 0xE6F0000000000000#64).op = .unassignedEncoding 0xE6F0000000000000#64
    ∧ (decodeOp 0x8014000000000000#64).op = .unassignedEncoding 0x8014000000000000#64
    ∧ decodeCamp 0x00C5850B#32 = .mbPost 10 11 12 ∧ decodeCamp 0x0005B50B#32 = .epSwitch 10 11 0

/-- R46, R49 to R64: every operation of a bundle decodes from its word to itself, in every slot, region kind and bundle position, with every operand at
every value, and so do its eight bytes in front of any others. -/
def Obligations.EncodedOperationsDecode : Prop :=
  ∀ (o : OpWord) (rest : List Byte), (opBits o.op).isSome = true →
    ∃ w, encodeOp o = some w ∧ decodeOp w = o ∧ decodeWord (toBytes 8 w.toNat ++ rest) = some (o, rest)

/-- R46, R65, R345: a word decodes to one operation alone, whose encoding is that word again, for every word of a bundle and of a camp core; and the
camp extension's instructions decode from their words to themselves. -/
def Obligations.DecodedWordsEncode : Prop :=
  (∀ w : W64, encodeOp (decodeOp w) = some w)
    ∧ (∀ w : BitVec 32, encodeCamp (decodeCamp w) = some w)
    ∧ ∀ rd rs1 rs2 : BitVec 5, ∀ i ∈ [Instr.mbPost rd rs1 rs2, .mbTake rd rs1, .mbPeek rd, .epSwitch rd rs1 rs2, .epWdset rd rs1, .epEnd rd],
        (encodeCamp i).map decodeCamp = some i

/-! ### Reset, memory, steps -/

/-- R374, R340, R338, R364, R42, R120, R166: after a reset every on-chip store reads zero, every register has its Reset column's value, every pair is
IDLE, no camp core has an episode and nobody owns the device. That device memory reads zero is the model's choice (log entry 1), and so is that the
producer counters start at 0 (log entry 10). -/
def Obligations.ResetState : Prop :=
  let r := State.reset
  (∀ n a, r.byte (.scratch n) a = 0 ∧ r.byte (.fe n) a = 0 ∧ r.byte (.acc n) a = 0 ∧ r.byte (.pool n) a = 0 ∧ r.byte (.camp n) a = 0)
    ∧ (∀ core x n, let k := r.ctx core x
        k.s n = 0 ∧ (∀ e, (k.v n).getD e 0 = 0) ∧ k.p n = 0 ∧ k.cq n = [] ∧ k.m 0 = BitVec.allOnes 1024 ∧ (n ≠ 0 → k.m n = 0)
          ∧ k.tvec = 0 ∧ k.tepc = 0 ∧ k.tcause = 0 ∧ k.tval = 0 ∧ k.issue = 0 ∧ k.ferec = 0 ∧ k.inhdl = false ∧ k.state = .free)
    ∧ (∀ core, (r.core core).mxshare = 0 ∧ (r.core core).mxcad = 1 ∧ (r.core core).clkdiv = 0)
    ∧ (∀ n, (r.pair n) = ⟨pairIDLE, 0, 0, 0, 0, 0, 0, [], []⟩) ∧ (∀ n, (r.camp n).episode = none ∧ (r.camp n).running = false)
    ∧ r.polver = Vector.replicate 4 0 ∧ r.owner = none ∧ r.election = none ∧ r.memready = false ∧ r.resetting = true
    ∧ r.fqprod = 0 ∧ r.frprod = 0 ∧ r.sessions = [] ∧ PathsOk r ∧ MemoryOk r

/-- The model's memory keeps its canonical form in every step, from every state that has it: cells at strictly rising keys, none equal to what an
unlisted cell reads as, so that equal memories are equal data. -/
def Obligations.StepsKeepMemory : Prop :=
  ∀ s t : State, MemoryOk s → Sys2Proof.Machine.step s = .next t → MemoryOk t

/-- R22, R46 to R48, R65, R67: where the word at a strand's pc is a bundle of its own, well formed and in a slot that may hold it, and the context
issues, a step is exec of the decoded operation; then the bundle's end follows, or the operation is held or has faulted, and ISSUE counts as R24
says. R337, R342: a step whose turn is an event runs that event; one whose turn is a camp core that runs and neither waits nor takes an interrupt
runs the instruction that it fetches; and after the last turn of a stage comes the next stage (turns, stages and agenda are log entry 3). -/
def Obligations.StepRunsTheDecodedOperation : Prop :=
  (∀ (s : State) (core x : Nat) (rest : List Turn) (t : Strand) (w : W64),
    let s0 := { s with agenda := rest }
    let k := s.ctx core x
    let i := (decodeOp w).op
    let slot := (decodeOp w).slot.toNat
    let o : Offer :=
      { strand := t, ba := t.pc, nw := 1, x := bitAt w 59, ops := [(slot, i, w)], rep := false, bad := none, disarm := none }
    s.agenda = .issue core x :: rest → s0.controlTick core = true → k.running = true → k.drain = .none → k.leaving = false → (x = 0 → (s.core core).withheld = false) →
    sortStrands k.strands = [t] → t.waits = [] → t.bubbles = 0 → (∀ j < 8, k.runningSlot t j = false) →
    s.codeWord t.pc = some w → bitAt w 63 = true →
    (isUnassigned i = true ∨ (slotBad t slot i = false ∧ i.wf = true ∧ (∀ r, k.armed t slot = some r → badTarget w r.step = false)
      ∧ (t.kind = none ∨ t.kind = some (bitAt w 59)))) →
    s0.refuses core x o = false →
    Sys2Proof.Machine.step s = andThen (exec i { s0.starve core x [] with cur := { Cursor.reset with
        core := core, x := x, strand := t.id, slot := slot, ba := t.pc, exposed := bitAt w 59, word := w, bundle := [(slot, i)], seq0 := s.seqN } })
      fun u => .next (match u.cur.verdict with
        | .ok => (u.settleIssue core x [(o, u.cur)] []).counted core x true
        | .held true => u.counted core x false
        | .held false => u.counted core x true
        | .faulted _ => u.counted core x (decide (x = 0))))
  ∧ (∀ (s : State) (rest : List Turn),
    (∀ i core x strand slot id, s.agenda = .event i core x strand slot id :: rest →
      Sys2Proof.Machine.step s = exec i { s with
        agenda := rest, cur := { Cursor.reset with core := core, x := x, strand := strand, slot := slot, id := id } })
    ∧ (∀ n w len, s.agenda = .camp n :: rest → (s.camp n).running = true → (s.camp n).waiting = false → (s.camp n).interrupted = false →
      s.campFetch n = .ok (w, len) →
      let c := { { s with agenda := rest }.modCamp n fun k => { k with mcycle := k.mcycle + 1, posted := false, waiting := false } with
        cur := { Cursor.reset with id := n } }
      Sys2Proof.Machine.step s = andThen (exec (decodeCamp w) c) fun t => .next (t.campEnd n (s.campCounts n)))
    ∧ (s.agenda = [] → Sys2Proof.Machine.step s = .next s.advance))

/-- R41, R104, R106 to R110: at the end of a bundle the strand goes on after it, at the start of a loop whose body ends there, or at the target of its
taken operation with two bubbles. A LOOP makes its level active as the newest, one with count 0 clears it and leaves for the exit, and LCWR writes
the counter or, of an active level, its pending value. Of two operations with other targets, or that write one level, the lower slot's takes effect
and BRCOL is set. REP arms a repeat of its slot; an armed one is under way once its target has issued, and over where its count is 1. R26, R28, R33,
R34, R111, R121, R123, R309 to R311: what follows a bundle. FORK splits its strand into the groups of its descriptor, group 0 going on after the
bundle and the others starting at their entries after two bubbles with no loop. The JOIN that completes a mask merges the strands that it names into
the lowest one, which owns what they owned. TRAP enters the handler with its code and the address that would have issued next; HALT halts the
context and tells the management core; TEND and TCONT leave the strand waiting for the context's work, or fault where a guard is unresolved (with
the bundle of TEND as TEPC and an open TVAL, which is log entry 26); TYIELD stops the context for its save at the end of its issue cycle, with the
command of each engine. -/
def Obligations.BundleEnds : Prop :=
  (∀ (s : State) (o : Offer) (t : Strand),
    let c := s.cur
    let k := s.ctx c.core c.x
    let succ := o.ba + BitVec.ofNat 64 (8 * o.nw)
    let after := (s.endBundle o).ctx c.core c.x
    let now := after.strand? o.strand.id
    let inLoop (i : Nat) (q : Loop) : Prop := i < 4 ∧ t.loops.getD i Loop.reset = q ∧ q.active = true ∧ q.ex = succ
      ∧ ∀ j < 4, j ≠ i → (t.loops.getD j Loop.reset).active = true → (t.loops.getD j Loop.reset).ex = succ → (t.loops.getD j Loop.reset).age < q.age
    let count (q : Loop) : W32 := if q.pend then q.pval else q.lc
    let level (i : Nat) : Loop := t.loops.getD i Loop.reset
    let ends (i : Nat) : Prop := (level i).active = true ∧ (level i).ex = succ
    let loopsOn (pc : W64) (bubbles : Nat) (l : Vector Loop 4) : Prop :=
      now.map (fun u => (u.pc, u.bubbles, u.loops)) = some (pc, bubbles, l) ∧ after.brcol = k.brcol
    k.strand? o.strand.id = some t → o.rep = false → c.fork = none →
    (c.acts = [] →
      ((∀ j < 4, (t.loops.getD j Loop.reset).active = true → (t.loops.getD j Loop.reset).ex ≠ succ) →
        now.map (fun u => (u.pc, u.bubbles, u.kind, u.loops)) = some (succ, 0, some o.x, t.loops))
      ∧ (∀ i q, inLoop i q → 1 < (count q).toNat →
        now.map (fun u => (u.pc, u.bubbles, u.loops)) =
          some (q.st, 0, t.loops.setIfInBounds i { q with lc := count q - 1, pend := false }))
      ∧ (∀ i q, inLoop i q → (count q).toNat ≤ 1 →
        (∀ j < 4, j ≠ i → (t.loops.getD j Loop.reset).active = true → (t.loops.getD j Loop.reset).ex ≠ succ) →
        now.map (fun u => (u.pc, u.bubbles, u.loops)) =
          some (succ, 0, t.loops.setIfInBounds i { q with lc := 0, pend := false, active := false })))
    ∧ (∀ slot target, c.acts = [.jump slot target] →
      now.map (fun u => (u.pc, u.bubbles, u.loops)) = some (target, 3, t.loops) ∧ after.brcol = k.brcol)
    ∧ (∀ p q a b, c.acts = [.jump p a, .jump q b] → a ≠ b →
      now.map (fun u => (u.pc, u.bubbles)) = some (a, 3) ∧ after.brcol = true)
    ∧ (∀ slot target reg link, c.acts = [.call slot target reg link] →
      now.map (fun u => (u.pc, u.bubbles)) = some (target, 3)
        ∧ ∃ p ∈ after.pend, p.res = .scalar reg link ∧ p.left = 1 ∧ p.slot = slot)
    ∧ (∀ slot i n st ex, c.acts = [.loop slot i n st ex] → i < 4 → (∀ j < 4, j ≠ i → ¬ends j) → ex ≠ succ →
      ∃ age, (∀ j < 4, (level j).age < age)
        ∧ loopsOn succ 0 (t.loops.setIfInBounds i { level i with active := true, st := st, ex := ex, lc := n, age := age }))
    ∧ (∀ slot i ex, c.acts = [.loopSkip slot i ex] → i < 4 → loopsOn ex 3 (t.loops.setIfInBounds i { level i with active := false, lc := 0 }))
    ∧ (∀ slot i v, c.acts = [.lcwr slot i v] → i < 4 → (∀ j < 4, ¬ends j) →
      loopsOn succ 0 (t.loops.setIfInBounds i
        (if (level i).active then { level i with pval := v, pend := true } else { level i with lc := v })))
    ∧ (∀ slot i v, c.acts = [.lcwr slot i v] → i < 4 → ends i → (∀ j < 4, j ≠ i → ¬ends j) → 1 < v.toNat →
      loopsOn (level i).st 0 (t.loops.setIfInBounds i { level i with pval := v, pend := false, lc := v - 1 }))
    ∧ (∀ p q i v w, c.acts = [.lcwr p i v, .lcwr q i w] → i < 4 → (∀ j < 4, ¬ends j) → after.brcol = true
      ∧ now.map (fun u => u.loops) = some (t.loops.setIfInBounds i
        (if (level i).active then { level i with pval := v, pend := true } else { level i with lc := v })))
    ∧ (∀ slot n step, c.arms = [(slot, n, step)] → slot < 8 →
      after.repeatOf slot = some { strand := t.id, count := n, step := step, index := 0, target := none })
    ∧ (∀ slot i w r, c.arms = [] → o.ops = [(slot, i, w)] → slot < 8 → k.repeatOf slot = some r → r.strand = t.id → r.target = none →
      after.repeatOf slot = if r.count ≤ 1 then none else some { r with index := 1, target := some (w, o.ba, o.nw) }))
  ∧ ((∀ (s : State) (o : Offer) (t : Strand) (gs : List Group),
    let c := s.cur
    let k := s.ctx c.core c.x
    let succ := o.ba + BitVec.ofNat 64 (8 * o.nw)
    let u := s.endBundle o
    let after := u.ctx c.core c.x
    let holds (v : Strand) (g : Group) : Prop :=
      v.slots = g.slots ∧ v.kind = some o.x ∧ v.sOwn = g.sOwn ∧ v.vOwn = g.vOwn ∧ v.mOwn = g.mOwn ∧ v.pOwn = g.pOwn
    k.strand? o.strand.id = some t → o.rep = false → c.acts = [] → c.fork = some gs →
    (∀ j < 4, (t.loops.getD j Loop.reset).active = true → (t.loops.getD j Loop.reset).ex ≠ succ) →
    (∀ v ∈ k.strands, v.id ≠ t.id → v ∈ after.strands)
    ∧ (∀ g, gs[0]? = some g → ∃ v ∈ after.strands, v.id = t.id ∧ holds v g ∧ v.pc = succ ∧ v.bubbles = 0 ∧ v.loops = t.loops)
    ∧ (∀ i g, 0 < i → gs[i]? = some g → ∃ v ∈ after.strands, holds v g ∧ v.pc = g.entry ∧ v.bubbles = 3 ∧ v.waits = []
      ∧ v.loops = Vector.replicate 4 Loop.reset)
    ∧ after.strands.length = (k.strands.filter fun v => decide (v.id ≠ t.id)).length + gs.length
    ∧ (∀ i g j, 0 < i → gs[i]? = some g → j < 8 → g.slots.getLsbD j = true → after.repeatOf j = none)
    ∧ after.sregs = k.sregs ∧ after.vregs = k.vregs ∧ after.masks = k.masks ∧ after.pend = k.pend ∧ u.mem = s.mem ∧ u.accs = s.accs)
  ∧ (∀ (d : List W64) (t : Strand) (g : Nat), g < 4 →
    let w := d.getD 0 0
    let grp := forkGroup d t g
    let owner (v : W64) (i : Nat) : Nat := v.toNat / 2 ^ (2 * i) % 4
    forkGroups d = w.toNat / 2 ^ 32 % 4 + 1 ∧ grp.slots = (w >>> (8 * g)).setWidth 8 ∧ grp.entry = (if g = 0 then 0 else d.getD g 0)
      ∧ (∀ i < 64, grp.sOwn.getLsbD i = (t.sOwn.getLsbD i && decide ((if i = 0 then 0 else owner (d.getD (4 + i / 32) 0) (i % 32)) = g)))
      ∧ (∀ i < 32, grp.vOwn.getLsbD i = (t.vOwn.getLsbD i && decide (owner (d.getD 6 0) i = g)))
      ∧ (∀ i < 8, grp.mOwn.getLsbD i = (t.mOwn.getLsbD i && decide (owner (d.getD 7 0) i = g)))
      ∧ ∀ i < 8, grp.pOwn.getLsbD i = (t.pOwn.getLsbD i && decide (owner (d.getD 7 0) (i + 8) = g)))
  ∧ (∀ (s : State) (core x : Nat) (m : BitVec 8) (lead : Strand),
    let k := s.ctx core x
    let named (t : Strand) : Bool := decide (t.slots &&& m ≠ 0)
    let u := s.settleIssue core x [] []
    let after := u.ctx core x
    (∀ t ∈ k.strands, t.slots ≠ 0) → k.strands.Pairwise (fun a b => a.slots &&& b.slots = 0) →
    (∀ t ∈ k.strands, if named t then t.waits = [.join m] else t.joinMask = none) →
    lead ∈ k.strands → named lead = true → (∀ t ∈ k.strands, named t = true → lead.low ≤ t.low) →
    (∃ v ∈ after.strands, v.id = lead.id ∧ v.slots = m ∧ v.pc = lead.pc ∧ v.kind = lead.kind ∧ v.loops = lead.loops ∧ v.waits = []
      ∧ (∀ i, v.sOwn.getLsbD i = true ↔ ∃ t ∈ k.strands, named t = true ∧ t.sOwn.getLsbD i = true)
      ∧ (∀ i, v.vOwn.getLsbD i = true ↔ ∃ t ∈ k.strands, named t = true ∧ t.vOwn.getLsbD i = true)
      ∧ (∀ i, v.mOwn.getLsbD i = true ↔ ∃ t ∈ k.strands, named t = true ∧ t.mOwn.getLsbD i = true)
      ∧ (∀ i, v.pOwn.getLsbD i = true ↔ ∃ t ∈ k.strands, named t = true ∧ t.pOwn.getLsbD i = true)
      ∧ ∀ w, w ∈ after.strands ↔ w = v ∨ (w ∈ k.strands ∧ named w = false))
    ∧ after.pend = (k.pend.map fun p =>
      if k.strands.any (fun t => named t && decide (t.id = p.strand)) then { p with strand := lead.id } else p)
    ∧ after.sregs = k.sregs ∧ after.vregs = k.vregs ∧ after.masks = k.masks ∧ u.mem = s.mem)
  ∧ ∀ (s : State) (o : Offer) (c : Cursor) (t : Strand),
    let k := s.ctx c.core c.x
    let succ := o.ba + BitVec.ofNat 64 (8 * o.nw)
    let u := s.settleIssue c.core c.x [(o, c)] []
    let after := u.ctx c.core c.x
    let gone : Strand := { t with pc := succ, kind := some o.x, bubbles := 0 }
    let entered (e : Exn) (tepc : W64) : Prop :=
      after.inhdl = true ∧ after.tepc = (tepc &&& ~~~7#64) ∧ after.tval = e.tval
        ∧ after.tcause = BitVec.ofNat 64 (e.slot * 2 ^ 16 + t.slots.toNat * 2 ^ 8 + e.code) ∧ after.stopped = [gone]
        ∧ after.strands.map (fun v => (v.slots, v.pc)) = [(0xFF, k.tvec)] ∧ after.sregs = k.sregs ∧ u.mem = s.mem
    k.strands = [t] → t.id = o.strand.id → t.waits = [] → o.rep = false → c.acts = [] → c.waits = [] → c.arms = [] → c.fork = none →
    (∀ j < 4, (t.loops.getD j Loop.reset).active = true → (t.loops.getD j Loop.reset).ex ≠ succ) → (∀ j < 8, k.repeatOf j = none) →
    (∀ code f w slot, c.trap = some code → c.tend = none → o.ops = [(slot, .trap f, w)] →
      k.handles true causeTRAP (code.setWidth 64) = true → entered ⟨causeTRAP, code.setWidth 64, slot⟩ succ)
    ∧ (∀ code, c.halt = some code → c.trap = none → c.tend = none →
      after.state = .halted ∧ after.strands = [gone] ∧ after.sregs = k.sregs ∧ after.unit = k.unit ∧ u.mem = s.mem
        ∧ u.notices = s.notices ++ [.halt c.core c.x succ code])
    ∧ (∀ cont, c.tend = some cont → c.trap = none → c.halt = none →
      (s.unresolvedGuard c.core c.x 0 = false → after.strands = [{ gone with waits := [.tend cont], waitBa := o.ba }]
        ∧ after.state = k.state ∧ after.unit = k.unit ∧ after.sregs = k.sregs ∧ u.mem = s.mem)
      ∧ (s.unresolvedGuard c.core c.x 0 = true → (∀ v, k.handles true causeENGINE v = true) → ∃ v,
        entered ⟨causeENGINE, v, o.strand.low⟩ o.ba))
    ∧ (c.yield = true → c.trap = none → c.halt = none → c.tend = none → k.running = true →
      after.drain = .yield ∧ after.state = k.state ∧ after.strands = [gone] ∧ after.unit = k.unit ∧ after.sregs = k.sregs
        ∧ after.pend = k.pend ∧ u.mem = s.mem
        ∧ ∀ l m, s.ctxs = l ++ (2 * c.core + c.x, k) :: m → c.x < 2 → (∀ e ∈ l ++ m, e.2.drain ≠ .yield ∧ e.1 ≠ 2 * c.core + c.x) →
          let ended (core : Nat) : Prop := u.domainTime core 0 % (u.core core).divisor 0 = 0 ∧ (u.core core).stretched.getLsbD 0 = false
          let v := u.stopYielded
          (¬ended c.core → v = u)
          ∧ (ended c.core → (v.ctx c.core c.x).state = .stopping true false (u.cycleOf c.core)
            ∧ (v.ctx c.core c.x).strands = [gone] ∧ (v.ctx c.core c.x).sregs = k.sregs ∧ (v.ctx c.core c.x).drain = .none
            ∧ ∀ d ∈ (v.core c.core).cmds, d.x = c.x → d.state ≠ .running)))

/-- R22, R46 to R48, R66, R67, R154: where the words from a strand's pc are a bundle whose words pass their own checks, and the context has no other
strand, each of its operations is first checked alone, with no effect. A stall or a wait holds the whole bundle; without one the fault of the lowest
slot is taken and nothing else happens; and where all pass, the operations take effect one after another in ascending slots, and the bundle's end
follows. That a stall or a wait is found before the faults of the operations, which R66 does not order, is log entry 11. -/
def Obligations.BundlesRunTheirOperations : Prop :=
  (∀ (s : State) (core x : Nat) (rest : List Turn) (t : Strand) (ws : List W64),
    let s0 := { s with agenda := rest }
    let k := s.ctx core x
    let ops := ws.map fun w => ((decodeOp w).slot.toNat, (decodeOp w).op, w)
    let region := bitAt (ws.headD 0) 59
    let o : Offer := { strand := t, ba := t.pc, nw := ws.length, x := region, ops := ops, rep := false, bad := none, disarm := none }
    let cursor (mode : Mode) : Cursor := { Cursor.reset with
      core := core, x := x, strand := t.id, ba := t.pc, nw := ws.length, exposed := region, bundle := ops.map fun p => (p.1, p.2.1),
      mode := mode, seq0 := s.seqN }
    let finds (p : Nat × Instr × W64) (v : Verdict) : Prop :=
      ∃ u, exec p.2.1 { s0 with cur := { cursor .probe with slot := p.1, word := p.2.2 } } = .next u ∧ u.cur.verdict = v
    let quiet : State := s0.occupy core []
    s.agenda = .issue core x :: rest → s0.controlTick core = true → k.running = true → k.drain = .none → k.leaving = false →
    (x = 0 → (s.core core).withheld = false) → (x ≠ 0 → (s.core core).starved = []) →
    k.strands = [t] → t.low < 8 → t.waits = [] → t.bubbles = 0 → (∀ j < 8, k.runningSlot t j = false) →
    2 ≤ ws.length → ws.length ≤ 8 → (∀ j w, ws[j]? = some w → s.codeWord (t.pc + BitVec.ofNat 64 (8 * j)) = some w
      ∧ bitAt w 63 = decide (j + 1 = ws.length) ∧ bitAt w 59 = region) →
    ws.Pairwise (fun v w => (decodeOp v).slot.toNat < (decodeOp w).slot.toNat) → (t.kind = none ∨ t.kind = some region) →
    (∀ p ∈ ops, isUnassigned p.2.1 = false ∧ slotBad t p.1 p.2.1 = false ∧ p.2.1.wf = true
      ∧ ∀ r, k.armed t p.1 = some r → badTarget p.2.2 r.step = false) →
    s0.refuses core x o = false →
    ((∃ p ∈ ops, finds p (.held true)) → Sys2Proof.Machine.step s = .next (s0.counted core x false))
    ∧ ((∀ p ∈ ops, ¬finds p (.held true)) → (∃ p ∈ ops, finds p (.held false)) → (∀ p ∈ ops, ∃ v, finds p v) →
      Sys2Proof.Machine.step s = .next (quiet.counted core x true))
    ∧ (∀ l p r e, ops = l ++ p :: r → (∀ q ∈ l, finds q .ok) → finds p (.faulted e) → (∀ q ∈ r, finds q .ok ∨ ∃ f, finds q (.faulted f)) →
      Sys2Proof.Machine.step s = .next ((State.counted
        { quiet.takeFault core x t.id e.code e.slot e.tval t.pc true with freeN := s.freeN + 1 } core x (decide (x = 0)))))
    ∧ (∀ v, (∀ p ∈ ops, finds p .ok) → State.takesAll ops { s0 with cur := cursor .commit } v →
      (region = true → (v.ctx core x).pendingCount + ((settleActs v.cur.acts).1.filter SeqAct.isCall).length ≤ 64) →
      Sys2Proof.Machine.step s = .next ((v.settleIssue core x [(o, v.cur)] []).counted core x true)))
  ∧ ∀ (o : OpSem) (s : State),
    (s.cur.mode = .probe → runOp o s = .next { s with cur := { s.cur with verdict := o.verdict s } })
    ∧ (s.cur.mode = .commit → runOp o s = .next (o.eff s))

/-! ### Faults and the events of a context -/

/-- R35, R65, R315 to R319, R110, R122, R124, R375: a word that decodes to no operation raises ILLEGAL precisely, and a posted fault is taken at the
boundary of the strand that holds its slot. A unit whose policy is HANDLER, with a TVEC and no double fault, enters it: the registers of R120 are
written, every strand is stopped, its entries are frozen, and one strand of all slots starts at TVEC. Any other unit stops to end under KILL: its
results are dropped, its commands discarded or stopped, and it keeps its context until its engines have let go (then follows the end of R319). That
a posted fault may fall between two repeats, with the target's bundle as TEPC, is log entry 27. TRET brings the stopped strands back with their
repeats and waits, the faulting one at TEPC where the handler moved it. -/
def Obligations.FaultsEnterTheHandler : Prop :=
  (∀ (k : Ctx) (sync : Bool) (code : Nat) (tval : W64), k.handles sync code tval = true ↔
    (∃ u, k.unit = some u ∧ u.ctl.getLsbD 35 = true) ∧ k.tvec ≠ 0 ∧ ¬(sync = true ∧ k.inhdl = true)
      ∧ ¬(code = causeRETENTION ∧ tval.getLsbD 5 = true))
  ∧ ∀ (s : State),
    let k := s.me
    let entered (strand : Strand) (slot code : Nat) (tval tepc : W64) (u : State) : Prop :=
      let h := u.me
      h.tepc = (tepc &&& ~~~7#64) ∧ h.tcause = BitVec.ofNat 64 (slot * 2 ^ 16 + strand.slots.toNat * 2 ^ 8 + code) ∧ h.tval = tval
        ∧ h.inhdl = true ∧ h.stopped = k.strands ∧ h.faulted = strand.id ∧ h.stoppedReps = k.repeats ∧ (∀ i < 8, h.repeatOf i = none)
        ∧ h.pend = k.pend.map (fun p => { p with frozen := !p.inter }) ∧ (∃ n, h.strands = [Strand.lockstep n k.tvec none])
        ∧ h.drain = .none ∧ h.stoppedDrain = (match k.drain with | .clkdiv d => .clkdiv d | _ => .none)
        ∧ h.sregs = k.sregs ∧ h.vregs = k.vregs ∧ h.masks = k.masks ∧ h.state = k.state ∧ h.unit = k.unit
        ∧ u.mem = s.mem ∧ u.accs = s.accs ∧ u.cores = s.cores
    (∀ (w : W64) (t : Strand), s.cur.mode = .whole → k.strand? s.cur.strand = some t → k.handles true causeILLEGAL w = true →
      Answers (.unassignedEncoding w) s (entered t s.cur.slot causeILLEGAL w s.cur.ba))
    ∧ (∀ (w : W64) (t : Strand) (u : WorkUnit), s.cur.mode = .whole → k.strand? s.cur.strand = some t → k.unit = some u →
      k.handles true causeILLEGAL w = false →
      let cause : W64 := BitVec.ofNat 64 (s.cur.slot * 2 ^ 16 + t.slots.toNat * 2 ^ 8 + causeILLEGAL)
      ∃ m : State, (exec (.unassignedEncoding w) s = .next { m.finishEnd s.cur.core s.cur.x with
          cur := { s.cur with verdict := .faulted ⟨causeILLEGAL, w, s.cur.slot⟩ }, freeN := (m.finishEnd s.cur.core s.cur.x).freeN + 1 })
        ∧ m.me.state = .ending ⟨cause, w, s.cur.ba, 1, k.inhdl⟩ true false (s.cycleOf s.cur.core) ∧ m.me.unit = k.unit
        ∧ m.me.tcause = cause ∧ m.me.tval = w ∧ m.me.tepc = s.cur.ba ∧ m.me.pend = [] ∧ m.me.strands = k.strands ∧ m.me.sregs = k.sregs
        ∧ (∀ d ∈ m.myCore.cmds, d.x = s.cur.x → d.state ≠ .waiting ∧ d.state ≠ .running)
        ∧ ((∀ a ∈ s.accs, ¬(a.core = s.cur.core ∧ a.x = s.cur.x ∧ a.gen = k.gen)) → m.accs = s.accs ∧ m.mem = s.mem)
        ∧ (m.myCore.enginesQuiet s.cur.x = false → m.finishEnd s.cur.core s.cur.x = m))
    ∧ (∀ (p : Posted) (rest : List Posted) (t : Strand) (tepc : W64), k.inhdl = false → k.posted = p :: rest →
      k.holder p.slot = some t → k.strand? t.id = some t → k.handles false p.code p.tval = true →
      ¬(p.code = causeRETENTION ∧ k.unit.map WorkUnit.isStep = some true) → s.controlTick s.cur.core = true → k.running = true →
      (t.waits ≠ [] ∧ tepc = t.waitBa ∨ t.waits = [] ∧ (∀ j < 8, k.runningSlot t j = false) ∧ tepc = t.pc
        ∨ t.waits = [] ∧ ∃ j r g, j < 8 ∧ t.slots.getLsbD j = true ∧ k.runningSlot t j = true ∧ (∀ i < j, k.runningSlot t i = false)
          ∧ k.repeatOf j = some r ∧ r.target = some g ∧ tepc = g.2.1) →
      Answers .postedFaultTaken s fun u => entered t p.slot p.code p.tval tepc u ∧ u.me.posted = rest)
    ∧ (s.controlTick s.cur.core = true → k.running = true → k.drain = .tret → s.handlerQuiet s.cur.core s.cur.x = true →
      Answers .tretResume s fun u =>
        u.me.inhdl = false ∧ u.me.stopped = [] ∧ u.me.drain = k.stoppedDrain
          ∧ u.me.pend = k.pend.map (fun p => { p with frozen := false })
          ∧ u.me.strands = k.stopped.map (fun t => if t.id = k.faulted ∧ k.tepc ≠ k.faultPc then { t with pc := k.tepc, waits := [] } else t)
          ∧ (k.tepc = k.faultPc → u.me.repeats = k.stoppedReps)
          ∧ u.me.sregs = k.sregs ∧ u.me.tepc = k.tepc ∧ u.mem = s.mem ∧ u.accs = s.accs ∧ u.cores = s.cores)

/-- R23, R35, R37, R38, R45, R109, R124, R187, R355, R357: a repeat is counted and the last one ends it; a drained context issues again, with its new
divisors where it drained for them; a mode switch ends in the other mode, pinned mode with every domain in step; secondary relief withholds a
primary cycle outside the exposed regions of the primary's strands, stopped and halted ones among them (log entry 27); a table load replaces its
table. -/
def Obligations.IssueEventsTakeEffect : Prop :=
  ∀ (s : State),
    let k := s.me
    let c := s.myCore
    let me (k' : Ctx) : State := s.setCtx s.cur.core s.cur.x k'
    let acts : Prop := s.controlTick s.cur.core = true ∧ k.running = true
    let primary := s.ctx s.cur.core 0
    (∀ r g, s.cur.slot < 8 → k.repeatOf s.cur.slot = some r → r.target = some g →
      exec .repRepeatIssue s = .next (me { k with
        repeats := k.repeats.setIfInBounds s.cur.slot (if r.index + 1 < r.count then some { r with index := r.index + 1 } else none) }))
    ∧ (acts → k.drain = .crossing → s.drained s.cur.core s.cur.x = true → exec .crossingDrainEnd s = .next (me { k with drain := .none }))
    ∧ (∀ d, acts → k.drain = .clkdiv d → s.drained s.cur.core s.cur.x = true →
      Answers .clkdivApply s fun u => u.myCore = { c with clkdiv := d } ∧ u.me = { k with drain := .none } ∧ u.mem = s.mem ∧ u.accs = s.accs)
    ∧ (∀ e, c.switchEnd = some e → e ≤ s.now →
      Answers .clockModeSwitchDone s fun u => u.myCore.pinned = !c.pinned ∧ u.myCore.thawed = true ∧ u.ctxs = s.ctxs ∧ u.mem = s.mem
        ∧ (c.pinned = false → u.myCore.droops = 0 ∧ u.myCore.stretched = 0 ∧ ∀ d < 4, u.myCore.skew.getD d 0 = c.skew.getD 0 0)
        ∧ (s.wantsPinned s.cur.core = !c.pinned → u.myCore.switchEnd = none)
        ∧ (s.wantsPinned s.cur.core = c.pinned → u.myCore.switchEnd = some (s.now + Config.switchCycles)))
    ∧ (∀ e ∈ c.starved, Config.starveAfter ≤ e.2 → s.controlTick s.cur.core = true →
      ¬((primary.running = true ∨ primary.state = .halted ∧ primary.unit.isSome = true)
        ∧ ∃ t, (t ∈ primary.strands ∨ t ∈ primary.stopped) ∧ t.kind = some true) →
      exec .secondaryStarvationRelief s = .next (s.setCore s.cur.core { c with withheld := true, starved := [] }))
    ∧ (∀ l, k.tableLoads = [l] → l.left ≤ 1 → s.pendCounts s.cur.core s.cur.x = true →
      exec .sfuTableReady s = .next (me { k with tables := k.tables.setIfInBounds l.tab l.image, tableLoads := [] }))

/-- R39, R40, R71, R95, R96, R166, R32, R35, R123, R355: an issue cycle of the context brings every fixed-latency entry that no handler has frozen a
cycle nearer, and a control cycle every variable one (log entry 8), what a stretched vector cycle holds back apart (log entry 17); those that are
due leave the list and write their registers, the last one in issue order where several name one, their queues in slot order, and their flags; s0
and m0 are never written; all else stays. FEREC keeps its event until it is cleared, and then takes the cycle's flag of the lowest slot and code,
with its bundle's address. -/
def Obligations.WritebacksLand : Prop :=
  (∀ k : Ctx,
    let r := k.recordFlags
    (k.flagEvents = [] → r = k) ∧ (k.ferec.getLsbD 63 = true → r.ferec = k.ferec)
    ∧ (k.flagEvents ≠ [] → r.flagEvents = [] ∧ r.fpf = k.fpf ∧ r.sregs = k.sregs)
    ∧ (k.ferec.getLsbD 63 = false → k.flagEvents ≠ [] → (∀ e ∈ k.flagEvents, e.1 < 8 ∧ e.2.1 ≠ 0) → ∃ e ∈ k.flagEvents, ∃ j < 7,
      e.2.1.getLsbD j = true ∧ (∀ f ∈ k.flagEvents, e.1 ≤ f.1 ∧ (f.1 = e.1 → ∀ i < j, f.2.1.getLsbD i = false))
      ∧ r.ferec.getLsbD 63 = true ∧ r.ferec.extractLsb' 60 3 = BitVec.ofNat 3 e.1 ∧ r.ferec.extractLsb' 57 3 = BitVec.ofNat 3 j
      ∧ r.ferec.extractLsb' 3 54 = e.2.2.extractLsb' 3 54 ∧ r.ferec.extractLsb' 0 3 = 0))
  ∧ ∀ (s : State),
    let k := s.me
    let counts (p : Pending) : Bool :=
      !(decide (3 ≤ p.slot ∧ p.slot ≤ 5) && s.myCore.stretched.getLsbD 1)
        && (if p.inter then s.controlTick s.cur.core else s.pendCounts s.cur.core s.cur.x && !p.frozen)
    let isDue (p : Pending) : Bool := counts p && decide (p.left ≤ 1)
    let due := k.pend.filter isDue
    Answers .writebackLand s fun u =>
      u.me.pend = (k.pend.filter fun p => !isDue p).map (fun p => if counts p then { p with left := p.left - 1 } else p)
        ∧ u.me.s 0 = k.s 0 ∧ u.me.m 0 = k.m 0 ∧ u.me.ferec = k.ferec
        ∧ (∀ e, e ∈ u.me.flagEvents ↔ e ∈ k.flagEvents ∨ ∃ p ∈ due, p.flags ≠ 0 ∧ (p.res.dest.1 = 3 → p.slot < 8) ∧ e = (p.slot, p.flags, p.ba))
        ∧ (∀ d, 0 < d → d < 64 → u.me.s d =
            ((due.filterMap fun p => match p.res with | .scalar n v => if n = d then some v else none | _ => none).getLast?).getD (k.s d))
        ∧ (∀ d < 32, ∀ e < 1024, (u.me.v d).getD e 0 =
            ((due.filterMap fun p => match p.res with
              | .vector n l v => if n = d ∧ l.getLsbD e then some (v.getD e 0) else none
              | _ => none).getLast?).getD ((k.v d).getD e 0))
        ∧ (∀ d, 0 < d → d < 8 → ∀ e < 1024, (u.me.m d).getLsbD e =
            ((due.filterMap fun p => match p.res with
              | .mask n l v => if n = d ∧ l.getLsbD e then some (v.getLsbD e) else none
              | _ => none).getLast?).getD ((k.m d).getLsbD e))
        ∧ (∀ d < 8, u.me.p d =
            ((due.filterMap fun p => match p.res with | .pattern n v => if n = d then some v else none | _ => none).getLast?).getD (k.p d))
        ∧ (∀ q < 4, u.me.cq q = k.cq q ++ (upTo 8).flatMap fun i => due.filterMap fun p => match p.res with
            | .queue n b => if n = q ∧ p.slot = i then some b else none
            | _ => none)
        ∧ ((∀ p ∈ due, p.slot < 8) → ∀ i < 8, ∀ j, (u.me.fpf.getD i 0).getLsbD j = true ↔
            (k.fpf.getD i 0).getLsbD j = true ∨ ∃ p ∈ due, p.slot = i ∧ p.flags.getLsbD j = true)
        ∧ u.mem = s.mem ∧ u.accs = s.accs ∧ u.cores = s.cores ∧ u.me.strands = k.strands ∧ u.me.guards = k.guards ∧ u.me.cb = k.cb
        ∧ u.me.bars = k.bars ∧ u.me.tables = k.tables ∧ u.me.tepc = k.tepc ∧ u.me.tcause = k.tcause ∧ u.me.tval = k.tval

/-- R71, R153, R147, R150, R156, R159, R237, R247, R267, R280: an access whose turn has come is performed at its place, as a load that answers the bytes
it finds, a store, an atomic, or a plain store that is held (a release is published to all observers at once, log entry 21; an address past the last
stack ends the run, log entry 33); its result then lands, over the earlier entries of its register that land in the same cycle, and its interlock is
released. MXSTAT lands the sampler's registers once the commands before it have left their queue. R118, R189, R190, R196, R198, R200, R267 to R272,
R280: a vector load outside LOCAL takes its bytes run by run, of a scratchpad as they stand and of shared memory by the context's snapshot, all of
it at one moment (log entry 24). A vector store is held, byte by byte, or lands in the scratchpads that it names, each granule set full. A fence
takes its place: with release every earlier held store of its unit becomes visible, to all observers at once (log entry 21), and with acquire the
context takes a full snapshot. -/
def Obligations.AccessesArePerformed : Prop :=
  (∀ (s : State) (a : Access) (r : Region) (ad : Nat), s.access? s.cur.id = some a →
    let ready : Prop := s.canPerform a = true ∧ s.roomFor a = true
    let answered (rs : List Result) (fl : BitVec 7) (u : State) : Prop :=
      (u.access? a.id).map (fun b => (b.done, b.results, b.flags)) = some (true, rs, fl)
    let covers (n : Nat) : Prop := a.runs = [(r, ad, n)]
    let value (n : Nat) : Nat := s.word r ad n
    let lives : Prop := s.alive a = true
    let lands : Prop := a.due ≤ s.now ∧ s.frozen a.core = false ∧ s.clusterOn a.core = true
    let others (u : State) : Prop := u.accs = s.accs.filter (fun b => decide (b.id ≠ a.id)) ∧ u.mem = s.mem ∧ u.cores = s.cores
    (ready → lives → ∀ n d c, a.kind = .load n d → covers n → r = .scratch c →
      Answers .networkPortAccess s fun u => u.mem = s.mem ∧ answered [.scalar d (BitVec.ofNat 64 (value n))] 0 u
        ∧ (a.ord = 1 → (u.ctx a.core a.x).snap = s.mem))
    ∧ (ready → a.ord ≠ 2 → ∀ bs c, a.kind = .store bs → covers bs.length → r = .scratch c → ad + bs.length ≤ 2 ^ 21 → bs ≠ [] →
      Answers .networkPortAccess s fun u => u.access? a.id = none
        ∧ (∀ i < bs.length, u.byte (.scratch c) (ad + i) = bs.getD i 0)
        ∧ (∀ g, ad / 16 ≤ g → g ≤ (ad + bs.length - 1) / 16 → u.byte (.fe c) g = 2)
        ∧ ∀ key, (key < cellKey (.scratch c) ad ∨ cellKey (.scratch c) (ad + bs.length) ≤ key) →
            (key < cellKey (.fe c) (ad / 16) ∨ cellKey (.fe c) ((ad + bs.length - 1) / 16) < key) → u.mem.get key = s.mem.get key)
    ∧ (ready → lives → s.held = [] → a.ord = 3 → ∀ fn n v w d p y fl, a.kind = .amo fn n v w d → covers n → r = .pool p → d ≠ 0 →
      amoValue fn n (value n) v.toNat w.toNat = (some y, fl) →
      Answers .poolBankAccess s fun u => answered [.scalar d (BitVec.ofNat 64 (value n))] fl u ∧ Stores s u (cellKey (.pool p) ad) (toBytes n y))
    ∧ (ready → lives → s.held = [] → a.ord = 1 → ∀ n d, a.kind = .load n d → covers n → r = .dev →
      (ad + n ≤ deviceLimit →
        Answers .deviceMemoryAccess s fun u => u.mem = s.mem ∧ answered [.scalar d (BitVec.ofNat 64 (value n))] 0 u
          ∧ ∀ key, (u.ctx a.core a.x).snap.get key = s.mem.get key)
      ∧ (deviceLimit < ad + n → exec .deviceMemoryAccess s = .fault (.noSuchAddress ad)))
    ∧ (ready → lives → a.ord = 0 → ∀ bs p, a.kind = .store bs → covers bs.length → r = .pool p →
      Answers .destinationAccept s fun u => u.mem = s.mem ∧ u.access? a.id = none
        ∧ u.held.map (fun h => (h.core, h.x, h.gen, h.key, h.byte)) = s.held.map (fun h => (h.core, h.x, h.gen, h.key, h.byte))
          ++ (List.range bs.length).map fun i => (a.core, a.x, a.gen, cellKey (.pool p) ad + i, bs.getD i 0))
    ∧ (a.done = true → lands → lives → ∀ d v, a.results = [.scalar d v] → a.dests = [(0, d)] → 0 < d → d < 64 →
      let now (p : Pending) : Bool := s.countsFor a.core a.x p && decide (p.left ≤ 1 ∧ p.seq < a.seq ∧ p.res.dest = (0, d))
      Answers .variableResultLand s fun u => others u ∧ (u.ctx a.core a.x).s d = v
        ∧ (u.ctx a.core a.x).pend = (s.ctx a.core a.x).pend.filter (fun p => !now p)
        ∧ (∀ i < 8, ∀ j, ((u.ctx a.core a.x).fpf.getD i 0).getLsbD j = true ↔ ((s.ctx a.core a.x).fpf.getD i 0).getLsbD j = true
          ∨ (i = a.slot ∧ a.flags.getLsbD j = true) ∨ ∃ p ∈ (s.ctx a.core a.x).pend, now p = true ∧ p.slot = i ∧ p.flags.getLsbD j = true)
        ∧ ∀ n, n ≠ d → (u.ctx a.core a.x).s n = (s.ctx a.core a.x).s n)
    ∧ (a.done = false → lands → lives → ∀ d e cmds, a.kind = .mxstat d e cmds → 0 < d → d < 64 → 0 < e → e < 64 → d ≠ e →
      ((∃ c ∈ (s.core a.core).queue 1, c.id ∈ cmds) → exec .variableResultLand s = .next s)
      ∧ ((∀ c ∈ (s.core a.core).queue 1, c.id ∉ cmds) →
        Answers .variableResultLand s fun u => others u
          ∧ (u.ctx a.core a.x).s d = (s.ctx a.core a.x).mscnt.setWidth 64
          ∧ (u.ctx a.core a.x).s e = (s.ctx a.core a.x).msvar ++ (s.ctx a.core a.x).msfro
          ∧ ∀ n, n ≠ d → n ≠ e → (u.ctx a.core a.x).s n = (s.ctx a.core a.x).s n)))
  ∧ (∀ (s : State) (a : Access), s.access? s.cur.id = some a → s.canPerform a = true → s.roomFor a = true → s.alive a = true →
    let k := s.ctx a.core a.x
    let answered (rs : List Result) (fl : BitVec 7) (u : State) : Prop :=
      (u.access? a.id).map (fun b => (b.done, b.results, b.flags)) = some (true, rs, fl)
    let served (r : Region) : Instr := match r with
      | .scratch _ => .networkPortAccess
      | .pool _ => .poolBankAccess
      | _ => .deviceMemoryAccess
    let mine (h : Held) : Bool := decide (h.core = a.core ∧ h.x = a.x ∧ h.gen = a.gen ∧ h.seq < a.seq)
    (∀ f gather pat d r, a.kind = .vload f gather pat d → s.held = [] → a.runs.head?.map Prod.fst = some r →
      (r = .dev ∨ (∃ p, r = .pool p) ∨ ∃ c, r = .scratch c) → (∀ q ∈ a.runs, q.1 = .dev → q.2.1 + q.2.2 ≤ deviceLimit) →
      let data := a.runs.map fun q => match q.1 with
        | .scratch c => s.bytes (.scratch c) q.2.1 q.2.2
        | _ => (List.range q.2.2).map fun i => k.snap.get (cellKey q.1 (q.2.1 + i))
      Answers (served r) s fun u => u.mem = s.mem ∧ u.held = []
        ∧ (gather = false → answered [.vector d (BitVec.allOnes 1024) (f.fill pat data).1] (f.fill pat data).2 u)
        ∧ (gather = true → ∃ v, answered [.vector d (BitVec.allOnes 1024) v] 0 u
          ∧ ∀ e < 1024, v.getD e 0 = containerOf f.mtype.toNat (ofBytes (data.getD e []))))
    ∧ (∀ cells rel c, a.kind = .vstore cells rel → a.runs.head?.map Prod.fst = some (.scratch c) →
      (∀ q ∈ a.runs, ∃ c, q.1 = .scratch c) → (∀ z ∈ cells, ∃ c b, c < 256 ∧ b < 2 ^ 21 ∧ z.1 = cellKey (.scratch c) b) →
      Answers .networkPortAccess s fun u => u.access? a.id = none ∧ u.held = s.held
        ∧ (∀ l z r, cells = l ++ z :: r → (∀ y ∈ r, y.1 ≠ z.1) → u.mem.get z.1 = z.2)
        ∧ (∀ c b v, c < 256 → b < 2 ^ 21 → (cellKey (.scratch c) b, v) ∈ cells → u.byte (.fe c) (b / 16) = 2)
        ∧ ∀ key, (∀ z ∈ cells, z.1 ≠ key) →
            (∀ c b v, c < 256 → b < 2 ^ 21 → (cellKey (.scratch c) b, v) ∈ cells → key ≠ cellKey (.fe c) (b / 16)) → u.mem.get key = s.mem.get key)
    ∧ (∀ cells rel r, a.kind = .vstore cells rel → a.runs.head?.map Prod.fst = some r → (∀ c, r ≠ .scratch c) →
      (∀ q ∈ a.runs, q.1 = .dev → q.2.1 + q.2.2 ≤ deviceLimit) →
      Answers .destinationAccept s fun u => u.mem = s.mem ∧ u.access? a.id = none
        ∧ u.held.map (fun h => (h.core, h.x, h.gen, h.key, h.byte)) = s.held.map (fun h => (h.core, h.x, h.gen, h.key, h.byte))
          ++ cells.map fun z => (a.core, a.x, a.gen, z.1, z.2))
    ∧ ∀ q rl, a.kind = .fence q rl → a.runs = [] →
      Answers .destinationAccept s fun u => u.access? a.id = none
        ∧ (rl = false → u.mem = s.mem ∧ u.held = s.held)
        ∧ (rl = true → u.held = s.held.filter (fun h => !mine h)
          ∧ ((∀ h ∈ s.held, mine h = true → h.ac = 0 ∧ (h.key / 2 ^ 64 = 1 ∨ 8 ≤ h.key / 2 ^ 64)) →
            (∀ l h r, s.held.filter mine = l ++ h :: r → (∀ g ∈ r, g.key ≠ h.key) → u.mem.get h.key = h.byte)
            ∧ ∀ key, key / 2 ^ 64 ≠ 4 → (∀ h ∈ s.held, mine h = true → h.key ≠ key) → u.mem.get key = s.mem.get key))
        ∧ (q = true → (u.ctx a.core a.x).snap = u.mem ∧ (u.ctx a.core a.x).copied = []))

/-- R253, R261, R263, R272, R273, R375, R113, R117, R118, R279, R281: a wait ends as soon as what it waits for holds: it leaves the strand's waits,
BARWAIT with the status of the barrier's last phase, and what the copies that it counted wrote in shared memory enters the snapshot, and no other
byte does; BARWAIT.T whose time is over answers 2, the barrier unchanged; until then nothing happens. A strong LOCAL store that waits behind its
bundle's other accesses is then written (log entry 21), and entries that a handler froze hold no FENCE.ALL back (log entry 36). -/
def Obligations.WaitsEnd : Prop :=
  ∀ (s : State) (t : Strand), s.me.strand? s.cur.strand = some t → s.awake s.cur.core = true → s.me.running = true →
    let k := s.me
    let own (a : Access) : Bool := decide (a.core = s.cur.core ∧ a.x = s.cur.x ∧ a.gen = k.gen)
    let queued (q : Nat) : Nat := ((s.myCore.queue q).filter fun c => decide (c.x = s.cur.x)).length
    let loads := (s.accs.filter fun a => own a && a.isLoad).length + (k.pend.filter fun p => p.isLoad).length
    let stores := (s.accs.filter fun a => own a && a.isStore).length
    let complete (n : BitVec 16) : Prop := 32768 < (k.newest - n).toNat
      ∨ ∀ c ∈ s.myCore.cmds, c.x = s.cur.x → c.tok = n → c.isCopy = false
    let earlier (seq id b : Nat) : Prop := seq < b ∨ id = t.id
    let hasEnded (w : Wait) : Prop := match w with
      | .cb m v => (k.cb &&& m) = if v then m else 0
      | .count l st c n => loads ≤ l ∧ stores ≤ st ∧ queued 0 + queued 2 ≤ c ∧ queued 1 + queued 3 ≤ n
      | .all b => (∀ p ∈ k.pend, earlier p.seq p.strand b → p.frozen = true) ∧ (∀ a ∈ s.accs, own a = true → ¬earlier a.seq a.strand b)
        ∧ ∀ c ∈ s.myCore.cmds, c.x = s.cur.x → ¬earlier c.seq c.strand b
      | .bar b p _ _ => (k.bar b).ph ≠ p
      | .tok n => complete n
      | .store rel _ _ _ b => ∀ a ∈ s.accs, own a = true → a.seq < b → (if rel then a.inOrder = true else a.releases = true) → a.done = true
      | _ => False
    let acquires (w : Wait) (c : Copied) : Prop := match w with
      | .count _ _ _ _ => complete c.tok
      | .all b => complete c.tok ∧ earlier c.seq c.strand b
      | .bar b _ _ _ => c.bar = some b ∧ c.phased = true
      | .tok n => c.tok = n
      | _ => False
    let runsOn (ws : List Wait) (u : State) : Prop := (u.me.strand? t.id).map (fun v => (v.pc, v.waits, v.slots)) = some (t.pc, ws, t.slots)
      ∧ u.accs = s.accs ∧ u.cores = s.cores ∧ u.me.bars = k.bars ∧ u.me.pend = k.pend
    (∀ l rel a bs full b r, let w := Wait.store rel a bs full b
      t.waits = l ++ w :: r → (∀ v ∈ l, ¬hasEnded v) → hasEnded w →
      Answers .completionWaitEnd s fun u => runsOn (l ++ r) u
        ∧ ∃ v, Stores (if rel then s.publish s.cur.core s.cur.x k.gen b else s) v (cellKey (.scratch s.cur.core) a) bs
          ∧ (full = false → u.mem = v.mem) ∧ (full = true → Stores v u (cellKey (.fe s.cur.core) (a / 16)) [1]))
    ∧ (∀ l w r, t.waits = l ++ w :: r → (∀ v ∈ l, ¬hasEnded v) → hasEnded w → (∀ rel a bs full b, w ≠ .store rel a bs full b) →
      Answers .completionWaitEnd s fun u => runsOn (l ++ r) u ∧ u.mem = s.mem
        ∧ (∀ b p d n, w = .bar b p d n → 0 < d → d < 64 → u.me.s d = truth (k.bar b).lastst)
        ∧ (∀ c ∈ k.copied, acquires w c → ∀ i < c.len, u.me.snap.get (c.key + i) = s.mem.get (c.key + i))
        ∧ ∀ key, (∀ c ∈ k.copied, acquires w c → key < c.key ∨ c.key + c.len ≤ key) → u.me.snap.get key = k.snap.get key)
    ∧ ((∀ w ∈ t.waits, ¬hasEnded w) → exec .completionWaitEnd s = .next s)
    ∧ (∀ b p d, t.waits = [.bar b p d (some 0)] → (k.bar b).ph = p → 0 < d → d < 64 →
      Answers .barwaitTimeout s fun u => runsOn [] u ∧ u.mem = s.mem ∧ u.me.s d = 2)

/-! ### Pool elements, mailboxes and join words at their units -/

/-- R11, R12, R161 to R164, R303, R305, R312 to R314, R340, R341, R343, R347 to R351: a pool instruction updates one element, or folds one, at each
access and brings its result with the last; MBRECV takes the oldest entries of its pairs, MBSEND answers by its table, MBSTAT reads the status word;
TSTAT reads, JCADD adds and JCNEW makes a join word, with its record in the continuation store, or on its way to its core at once. A pool
instruction takes its elements one at a time from the lowest address up, and a receive, a send or a join-word access is one step (log entry 19). -/
def Obligations.PoolMailboxAndJoinWordsArePerformed : Prop :=
  (∀ kind reason ptr epid step ver paddr len prev : Nat, ∀ payload : List Byte, kind < 4 → reason < 16 → ptr < 2 → epid < 2 ^ 20 → step < 2 ^ 32 →
    ver < 2 ^ 16 → paddr < 2 ^ 16 → len < 2 ^ 16 → prev < 2 ^ 16 →
    let e := entryBytes kind reason ptr epid step ver paddr len prev payload
    e.length = 256 ∧ entryField e 0 4 = reason * 2 ^ 28 + ptr * 2 ^ 26 + kind * 2 ^ 24 + epid ∧ entryField e 4 4 = step ∧ entryField e 8 2 = ver
      ∧ entryField e 10 2 = paddr ∧ entryField e 12 2 = len ∧ entryField e 14 2 = prev ∧ entryField e 16 16 = 0
      ∧ ∀ i < 224, e.getD (32 + i) 0 = payload.getD i 0)
  ∧ ∀ (s : State) (a : Access), s.access? s.cur.id = some a → s.canPerform a = true → s.roomFor a = true → s.alive a = true →
    (∀ h ∈ s.held, ¬(h.core = a.core ∧ h.x = a.x ∧ h.gen = a.gen)) →
    let answered (rs : List Result) (fl : BitVec 7) (u : State) : Prop :=
      (u.access? a.id).map (fun b => (b.done, b.results, b.flags)) = some (true, rs, fl)
    (∀ (fn ty qual : Nat) (pa b : W64) (len d pos : Nat) (sum : W64) (p ad : Nat), a.kind = .pool fn ty qual pa b len d pos sum → a.runs = [(.pool p, ad, len)] →
      fn < 4 → ty < 4 →
      let e := if ty = 1 then 2 else 4
      let x := s.word (.pool p) (ad + e * pos) e
      let l := if fn = 3 then b.toNat % 2 ^ (8 * e) else s.word (.scratch a.core) (b.toNat + e * pos) e
      let f32 (n : Nat) : W32 := BitVec.ofNat 32 n
      let half (n : Nat) : FVal := vBF16 (BitVec.ofNat 16 n)
      let narrow (r : FVal × BitVec 7) : Nat × BitVec 7 := ((roundV bf16 .rne r.1).1, r.2 ||| (roundV bf16 .rne r.1).2)
      let clip (i lo hi : Int) : Nat × BitVec 7 := ((BitVec.ofInt 32 (max lo (min hi i))).toNat, if lo ≤ i ∧ i ≤ hi then 0 else 0x20)
      let sat := qual = 1
      let new : Nat × BitVec 7 := match fn, ty with
        | 0, 0 => ((addF32 (f32 x) (f32 l)).1.toNat, (addF32 (f32 x) (f32 l)).2)
        | 0, 1 => narrow (addV .rne (half x) (half l))
        | 0, 2 => if sat then clip ((f32 x).toInt + (f32 l).toInt) (-2147483648) 2147483647 else ((x + l) % 2 ^ 32, 0)
        | 0, _ => if sat then clip ((x + l : Nat) : Int) 0 4294967295 else ((x + l) % 2 ^ 32, 0)
        | 1, 0 => let z := rndF32 .rne (minMaxV true (vF32 (f32 x)) (vF32 (f32 l)))
          (z.1.toNat, z.2)
        | 1, 1 => narrow (minMaxV true (half x) (half l))
        | 1, 2 => (if (f32 x).toInt < (f32 l).toInt then l else x, 0)
        | 1, _ => (max x l, 0)
        | _, _ => (l, 0)
      let wide : W64 × BitVec 7 := match ty with
        | 0 => ((f32 x).setWidth 64, 0)
        | 1 => ((cvtBF16F32 (BitVec.ofNat 16 x)).1.setWidth 64, (cvtBF16F32 (BitVec.ofNat 16 x)).2)
        | 2 => ((f32 x).signExtend 64, 0)
        | _ => ((f32 x).setWidth 64, 0)
      let old := vF32 (sum.setWidth 32)
      let next := vF32 (wide.1.setWidth 32)
      let real := rndF32 .rne (if qual = 0 then addV .rne old next else minMaxV (decide (qual = 1)) old next)
      let folded : W64 × BitVec 7 := if pos = 0 then wide else if ty < 2 then (real.1.setWidth 64, wide.2 ||| real.2)
        else (if qual = 0 then sum + wide.1 else if qual = 1 then (if sum.slt wide.1 then wide.1 else sum) else if wide.1.slt sum then wide.1 else sum, 0)
      let goesOn (r : W64) (fl : BitVec 7) (u : State) : Prop := ∃ b', u.access? a.id = some b' ∧ b'.kind = .pool fn ty qual pa b len d (pos + 1) r
        ∧ b'.flags = a.flags ||| fl ∧ b'.done = false ∧ b'.runs = a.runs ∧ s.now < b'.due
      (len = 0 → Answers .poolBankAccess s fun u => answered [.scalar d 0] 0 u ∧ u.mem = s.mem)
      ∧ (0 < len → fn = 2 → Answers .poolBankAccess s fun u => u.mem = s.mem
        ∧ (len ≤ e * (pos + 1) → answered [.scalar d folded.1] (a.flags ||| folded.2) u) ∧ (e * (pos + 1) < len → goesOn folded.1 folded.2 u))
      ∧ (0 < len → fn ≠ 2 → Answers .poolBankAccess s fun u => Stores s u (cellKey (.pool p) (ad + e * pos)) (toBytes e new.1)
        ∧ (len ≤ e * (pos + 1) → answered [.scalar d (BitVec.ofNat 64 (len / e))] (a.flags ||| new.2) u)
        ∧ (e * (pos + 1) < len → goesOn 0 new.2 u)))
    ∧ (∀ lo pair n m d : Nat, a.kind = .mbrecv lo pair n m d → a.runs = [] → (∀ q, ∀ e ∈ (s.pair q).obs, e.length = 256) →
      let taken := ((List.range n).filter fun i => !(s.pair (pair + i)).obs.isEmpty).take m
      let first := cellKey (.scratch a.core) lo
      Answers .networkPortAccess s fun u => answered [.scalar d (BitVec.ofNat 64 taken.length)] 0 u
        ∧ (∀ j < taken.length, let q := pair + taken.getD j 0
          ∃ e r, (s.pair q).obs = e :: r ∧ (∀ i < 256, u.mem.get (first + 256 * j + i) = e.getD i 0)
            ∧ u.pair q = { s.pair q with obs := r, state := if entryField e 0 4 / 2 ^ 24 % 4 = 3 then 0 else (s.pair q).state })
        ∧ (∀ q, (∀ i ∈ taken, q ≠ pair + i) → u.pair q = s.pair q)
        ∧ ∀ key, key < first ∨ first + 256 * taken.length ≤ key → u.mem.get key = s.mem.get key)
    ∧ (∀ pair d : Nat, ∀ e : List Byte, a.kind = .mbsend pair e d → a.runs = [] →
      let p := s.pair pair
      let ver := entryField e 8 2
      let delta := (BitVec.ofNat 16 ver - p.rver).toNat
      let refused2 : Prop := p.state ≠ 2 ∨ entryField e 0 4 % 2 ^ 20 ≠ p.epid.toNat ∨ entryField e 4 4 ≠ p.step.toNat ∨ p.obs ≠ []
      let answers (status : Nat) (q : Pair) : Prop := Answers .networkPortAccess s fun u => answered [.scalar d (BitVec.ofNat 64 status)] 0 u
        ∧ u.pair pair = q ∧ u.mem = s.mem ∧ ∀ r, r ≠ pair → u.pair r = s.pair r
      (p.state = 4 ∨ p.state = 0 → answers 3 p)
      ∧ (p.state ≠ 4 → p.state ≠ 0 → refused2 → answers 2 p)
      ∧ (p.state ≠ 4 → p.state ≠ 0 → ¬refused2 → 32768 ≤ delta → answers 4 p)
      ∧ (p.state ≠ 4 → p.state ≠ 0 → ¬refused2 → p.mode = 0 → 0 < delta → delta < 32768 → answers 5 { p with
          state := 4
          reason := 3
          act := []
          obs := [entryBytes 3 3 0 p.epid.toNat p.step.toNat p.rver.toNat pair 0 0 []] })
      ∧ (p.state ≠ 4 → p.state ≠ 0 → ¬refused2 → delta = 0 ∨ p.mode ≠ 0 ∧ delta < 32768 → answers 0 { p with
          state := 3
          rver := BitVec.ofNat 16 ver
          act := [entryBytes 2 0 (entryField e 0 4 / 2 ^ 26 % 2) p.epid.toNat p.step.toNat ver pair (entryField e 12 2)
            (if delta = 0 then 0 else p.rver.toNat) (e.drop 32)]
          chg := if delta = 0 then p.chg else BitVec.ofNat 5 (min (p.chg.toNat + 1) 31) }))
    ∧ (∀ pair d : Nat, a.kind = .mbstat pair d → a.runs = [] → (s.pair pair).state ≤ 4 → (s.pair pair).obs.length ≤ 2 → (s.pair pair).act.length ≤ 1 →
      let p := s.pair pair
      ∃ w : W64, Answers .networkPortAccess s (fun u => answered [.scalar d w] 0 u ∧ u.mem = s.mem ∧ u.pairs = s.pairs)
        ∧ w.extractLsb' 48 16 = p.rver ∧ w.extractLsb' 16 32 = p.step ∧ w.extractLsb' 12 4 = p.reason ∧ w.extractLsb' 11 1 = p.mode
        ∧ (w.extractLsb' 8 3).toNat = p.state ∧ (w.extractLsb' 6 2).toNat = p.obs.length ∧ (w.extractLsb' 5 1).toNat = p.act.length
        ∧ w.extractLsb' 0 5 = p.chg)
    ∧ (∀ p ad d addr n count : Nat, ∀ rec : List Byte, a.runs = [(.pool p, ad, 8)] →
      let w := s.word (.pool p) ad 8
      let sum := w % 2 ^ 32 + n
      let put (u : State) (v : Nat) : Prop := Stores s u (cellKey (.pool p) ad) (toBytes 8 v)
      let die := addr / 67108864
      (a.kind = .tstat addr d → Answers .poolBankAccess s fun u => answered [.scalar d (BitVec.ofNat 64 w)] 0 u ∧ u.mem = s.mem
        ∧ ∀ key, (u.ctx a.core a.x).snap.get key = s.mem.get key)
      ∧ (a.kind = .jcadd addr n d → Answers .poolBankAccess s fun u => answered [.scalar d (BitVec.ofNat 64 w)] 0 u
        ∧ (w / 2 ^ 34 % 2 = 1 ∨ 2 ^ 32 ≤ sum ∨ n = 0 → u.mem = s.mem)
        ∧ (w / 2 ^ 34 % 2 = 0 → sum < 2 ^ 32 → 0 < n → put u (w / 2 ^ 32 * 2 ^ 32 + sum)))
      ∧ (a.kind = .jcnew addr count rec d → ∃ c v, c < s.contCapacity die ∧ (∀ e ∈ s.conts, e.die = die → e.index ≠ c)
        ∧ v = c * 2 ^ 40 + (if count = 0 then 2 ^ 34 else 0) + count ∧ Answers .poolBankAccess s fun u => answered [.scalar d (BitVec.ofNat 64 v)] 0 u
        ∧ put u v ∧ ∃ unit : WorkUnit, unit.code = (unitOfRecord rec).code ∧ unit.arg = (unitOfRecord rec).arg ∧ unit.ctl = (unitOfRecord rec).ctl
          ∧ (count ≠ 0 → ∃ e, u.conts = s.conts ++ [e] ∧ e.die = die ∧ e.index = c ∧ e.core = a.core ∧ e.unit = unit ∧ u.cores = s.cores)
          ∧ (count = 0 → u.conts = s.conts ∧ u.cores = s.cores ∧ unit.relWord = BitVec.ofNat 64 v
            ∧ ∃ e, u.transits = s.transits ++ [e] ∧ e.unit = unit ∧ e.core = a.core
              ∧ (PathsOk s → s.follows (nearestCorner a.core die) a.core s.now e.due))))

/-! ### Engine events -/

/-- R25, R115, R116, R148, R204, R211, R212, R243, R248, R249, R264: at its queue's head a command waits while its guard is unresolved, leaves without
effect where the guard is DISCARD, and otherwise takes its tokens and all of its banks, or none, and starts: a weight load whose slot is EMPTY, an
MXGO that latches the cadence, MXZERO and MXDRAIN, the sampler's commands with the state that they record or clear, a copy of its channel's one
running command, which ends at once where it moves nothing or its span leaves its first page. -/
def Obligations.EngineCommandsStart : Prop :=
  ∀ (s : State) (c : Cmd), s.myCore.cmd? s.cur.id = some c → s.frozen s.cur.core = false → s.clusterOn s.cur.core = true →
    let k := s.ctx s.cur.core c.x
    let q := s.myCore.queueOf s.cur.id
    let free : Prop := c.banksHeld = true ∨ s.myCore.heldBanks &&& c.banks = 0
    let owesNothing : Prop := c.sn = false ∧ c.sp = false
    s.engineOn s.cur.core c.x = true → s.myCore.atHead q c = true → c.state = .waiting → c.cancelled = false → c.sampled = none →
    (c.guard ≠ 0 → k.guard c.guard = .unresolved → exec .engineCommandStart s = .next s)
    ∧ (c.tokensTaken = true ∨ c.tokensReady k q = true → c.guard ≠ 0 → k.guard c.guard = .discard → owesNothing → c.err = 0 →
      Answers .engineCommandStart s fun u => u.myCore.cmd? c.id = none ∧ u.mem = s.mem ∧ u.accs = s.accs ∧ u.held = s.held
        ∧ u.myCore.flights = s.myCore.flights ∧ u.myCore.blocks = s.myCore.blocks)
    ∧ (c.tokensTaken = true ∨ c.tokensReady k q = true → c.guard = 0 ∨ k.guard c.guard = .run →
      (∀ f, q = 3 → c.op = .mxwld f → s.engineTick s.cur.core 2 = true → k.wslots.getD c.slotNumber .empty = .empty →
        (free → Answers .engineCommandStart s fun u =>
          (u.myCore.cmd? c.id).map (fun d => (d.state, d.tokensTaken, d.banksHeld, d.sampled)) = some (.running, true, true, some true)
            ∧ u.mem = s.mem ∧ u.accs = s.accs)
        ∧ (¬free → Answers .engineCommandStart s fun u =>
          (u.myCore.cmd? c.id).map (fun d => (d.state, d.tokensTaken, d.banksHeld)) = some (.waiting, true, false) ∧ u.mem = s.mem))
      ∧ (∀ f h, q = 1 → c.op = .mxgo f → c.shadow = some h → 0 < h.total → c.cad = 0 → s.engineTick s.cur.core 2 = true →
        s.mayRun s.cur.core c.x = true → free →
        Answers .engineCommandStart s fun u =>
          (u.myCore.cmd? c.id).map (fun d => (d.state, d.wait, d.cad, d.banksHeld)) = some (.running, 8, s.myCore.mxcad.toNat, true)
            ∧ u.mem = s.mem ∧ u.accs = s.accs)
      ∧ (q = 1 → c.cad = 0 → s.engineTick s.cur.core 2 = true → s.mayRun s.cur.core c.x = true → free →
        let starts (wait : Nat) (p : Ctx → Prop) : Prop := Answers .engineCommandStart s fun u =>
          (u.myCore.cmd? c.id).map (fun d => (d.state, d.err, d.wait, d.banksHeld)) = some (.running, c.err, wait, true) ∧ u.mem = s.mem
            ∧ p (u.ctx s.cur.core c.x)
        let fails (r : Nat) : Prop := Answers .engineCommandStart s fun u =>
          (u.myCore.cmd? c.id).map (fun d => (d.state, d.err)) = some (.running, r) ∧ u.mem = s.mem ∧ (u.ctx s.cur.core c.x).msz = k.msz
        let sampler := k.sampler
        (∀ f, c.op = .mxzero f → 0 < (c.val 1).toNat → starts 0 fun z => z.sampler = sampler)
        ∧ (∀ f, c.op = .mxdrain f → starts (if (c.val 2).toNat / 2 ^ 32 % 2 ^ 13 = 0 then 4 else 0) fun z => z.sampler = sampler)
        ∧ (∀ f, c.op = .mxnorm f → starts 8 fun z => z.sampler.built = false ∧ z.sampler.sk.toNat = (c.val 2).toNat % 2 ^ 13
          ∧ z.sampler.sm.toNat = (c.val 2).toNat / 2 ^ 16 % 2 ^ 7 ∧ z.sampler.sn.toNat = (c.val 2).toNat / 2 ^ 32 % 2 ^ 8
          ∧ z.sampler.apb.toNat = (c.val 0).toNat % 2 ^ 21 ∧ z.sampler.bpb.toNat = (c.val 1).toNat % 2 ^ 21)
        ∧ (∀ f, c.op = .msbuild f → (sampler.sk = 0 → fails 8)
          ∧ (sampler.sk ≠ 0 → starts (3 * sampler.sk.toNat + 8) fun z => z.sampler = { sampler with built := false } ∧ z.msz = k.msz))
        ∧ (∀ f, c.op = .mxsmp f → (sampler.built = false → fails 6)
          ∧ (sampler.built = true → k.inAcc (c.val 0).toNat (512 * sampler.sm.toNat) = false → fails 5)
          ∧ (sampler.built = true → k.inAcc (c.val 0).toNat (512 * sampler.sm.toNat) = true →
            starts 8 fun z => z.tile = none ∧ z.sampler.t = 0 ∧ z.sampler.x.toNat = (c.val 1).toNat % 2 ^ 32
              ∧ (∀ n, z.sampler.tile.getD n 0 = 0) ∧ (k.msz = 0 → z.sampler.reason = 3 ∧ z.sampler.f = 0 ∧ z.sampler.v = 0))))
      ∧ ((q = 0 ∨ q = 2) → c.isCopy = true → c.faultTag = none → c.err = 0 → (∀ d ∈ s.myCore.queue q, d.state ≠ .running) →
        s.engineTick s.cur.core 3 = true →
        (c.totalBytes = 0 → owesNothing → Answers .engineCommandStart s fun u => u.myCore.cmd? c.id = none ∧ u.mem = s.mem)
        ∧ (0 < c.totalBytes → c.translated = false → free → Answers .engineCommandStart s fun u =>
          (u.myCore.cmd? c.id).map (fun d => (d.state, d.banksHeld)) = some (.running, true) ∧ u.mem = s.mem)
        ∧ (∀ m, c.pos < c.totalBytes → c.translated = true → s.copyPage c = (some m, none) → c.spanTested = false →
          (c.farSpan ≤ m.size → free → Answers .engineCommandStart s fun u =>
            (u.myCore.cmd? c.id).map (fun d => (d.state, d.banksHeld, d.page)) = some (.running, true, some m) ∧ u.mem = s.mem)
          ∧ (m.size < c.farSpan → owesNothing → Answers .engineCommandStart s fun u => u.myCore.cmd? c.id = none ∧ u.mem = s.mem
            ∧ ⟨causeENGINE, BitVec.ofNat 64 (c.tok.toNat * 2 ^ 48 + 7), 7, s.now⟩ ∈ (u.ctx s.cur.core c.x).posted))))

/-- R98 to R100, R201 to R208, R212 to R214, R224, R225: a running MXGO reloads its tile where the slot is FULL, ends in error where its tile does not
fit, and waits where it is EMPTY; its passes go in the order of the nest with the addresses of R207 and R208, and an injected pass carries the sums
of its operand row (unfolded in TreesChainsAndSegments) and their flags; each lands at the end of its landing cycle by adding its sums to the row as
it stood at that cycle's start; MXZERO clears a row in a cycle, and MXDRAIN reads one, converts its entries, and writes it at the end of its third
cycle after. That MXDRAIN reads the row as it stood at the start of its cycle is the model's reading (log entry 17), as is a reload that stands
still in another's cycle (log entry 36). -/
def Obligations.MatrixPassesRun : Prop :=
  (∀ (s : State) (c : Cmd) (h : Shadow), s.myCore.cmd? s.cur.id = some c →
    let core := s.cur.core
    let k := s.ctx core c.x
    let live : Prop := s.engineTick core 2 = true ∧ s.engineOn core c.x = true ∧ s.ready1 core (s.myCore.queueOf s.cur.id) c = true
    let cell (row i : Nat) : Nat := cellKey (.acc core) (512 * row + i)
    let n (l : Nat) : Nat := (h.level l).count.toNat
    (∀ i : Nat → Nat, (∃ f, c.op = .mxgo f) → c.shadow = some h → (∀ l < 6, i l < n l) →
      c.pos = i 0 + n 0 * (i 1 + n 1 * (i 2 + n 2 * (i 3 + n 3 * (i 4 + n 4 * i 5)))) →
      let reach (l : List Nat) (stride : Level → W32) : Int := (l.map fun j => (i j : Int) * (stride (h.level j)).toInt).sum
      let all := [0, 1, 2, 3, 4, 5]
      let w := BitVec.ofInt 32 ((h.wbase.toNat : Int) + reach all Level.wstr)
      let slot := k.wslots.getD (w.toNat % 8) .empty
      let x := (h.idx.getD (i 0) 0).toInt
      let from' : Int := if h.gather = true then (h.abase.toNat : Int) + x * h.gpitch.toNat + reach [1, 2, 3, 4, 5] Level.astr
        else (h.abase.toNat : Int) + reach all Level.astr
      let zero : Prop := h.gather = true ∧ x < 0
      let last : Prop := c.pos + 1 = n 0 * n 1 * n 2 * n 3 * n 4 * n 5
      let fails (e : Instr) (r : Nat) : Prop := Answers e s fun u => (u.myCore.cmd? c.id).map (fun d => (d.err, d.errTag, d.pos)) = some (r, w, c.pos)
        ∧ u.ctxs = s.ctxs ∧ u.mem = s.mem ∧ u.myCore.flights = s.myCore.flights
      (∀ t, s.engineOn core c.x = true → s.ready1 core (s.myCore.queueOf s.cur.id) c = true → s.engineLast core 2 = true → c.reload = 1 → slot = .full t →
        Answers .matrixReloadDone s fun u => (u.ctx core c.x).tile = some t ∧ (u.ctx core c.x).wslots.getD (w.toNat % 8) .empty = .empty
          ∧ u.mem = s.mem ∧ u.cores = s.cores)
      ∧ (live → c.reload = 0 → k.tile.map Tile.tag ≠ some w →
        (∀ t, slot = .full t → t.tag = w → h.pairs t.fmt = true →
          Answers .matrixReloadDone s fun u => (u.myCore.cmd? c.id).map Cmd.reload = some 64 ∧ u.ctxs = s.ctxs ∧ u.mem = s.mem)
        ∧ (slot = .empty → exec .matrixReloadDone s = .next s ∧ exec .matrixPassInject s = .next s)
        ∧ (∀ t, slot = .full t → t.tag ≠ w → fails .matrixReloadDone 2)
        ∧ (∀ t, slot = .full t → t.tag = w → h.pairs t.fmt = false → fails .matrixReloadDone 1)
        ∧ ∀ g, slot = .failed g → fails .matrixReloadDone 3)
      ∧ (∀ t, live → c.reload = 0 → k.tile = some t → t.tag = w →
        (h.pairs t.fmt = false → fails .matrixPassInject 1)
        ∧ (h.pairs t.fmt = true → c.old = s.mem → zero ∨ s.localArrived core c from'.toNat h.rowBytes = true →
          ∃ row : List Byte, (zero → row = List.replicate h.rowBytes 0) ∧ (¬zero → row = s.bytes (.scratch core) from'.toNat h.rowBytes)
            ∧ Answers .matrixPassInject s fun u => (∃ f, u.myCore.flights = s.myCore.flights ++ [f] ∧ f.left = 71
                ∧ f.row = (((h.cbase.toNat : Int) + reach all Level.cstr) / 512).toNat ∧ f.x = c.x ∧ f.cmd = c.id ∧ f.store = none ∧ f.base = none
                ∧ (f.float = true ↔ h.act = 0) ∧ f.sums = (passSums h t row).1 ∧ f.sums.length = h.nc.toNat + 1
                ∧ (h.act = 0 → f.flags = (passSums h t row).2 ∧ f.flags &&& 0x7A = 0)
                ∧ (h.act ≠ 0 → (f.flags = 0 ∨ f.flags = 0x40) ∧ (f.flags = 0x40 ↔ h.tern = true ∧ t.fmt = 2 ∧ ∃ m ≤ h.nc.toNat, ∃ j < 256,
                    (t.bytes.getD (128 * (j / 4) + m) 0).toNat / 4 ^ (j % 4) % 4 = 2)))
              ∧ (last → (u.myCore.cmd? c.id).map (fun d => (d.pos, d.wait)) = some (c.pos + 1, 0))
              ∧ (¬last → (u.myCore.cmd? c.id).map (fun d => (d.pos, d.wait)) = some (c.pos + 1, ceilDiv c.cad (s.myCore.divisor 2)))
              ∧ u.ctxs = s.ctxs ∧ u.mem = s.mem)))
    ∧ (live → (∃ f, c.op = .mxzero f) →
      let row := (c.val 0).toNat / 512 + c.pos
      Answers .matrixRowStep s fun u => (∀ i < 512, u.byte (.acc core) (512 * row + i) = 0)
        ∧ (∀ key, key < cell row 0 ∨ cell row 512 ≤ key → u.mem.get key = s.mem.get key)
        ∧ (u.myCore.cmd? c.id).map Cmd.pos = some (c.pos + 1) ∧ u.ctxs = s.ctxs)
    ∧ (∀ f, live → c.op = .mxdrain f →
      let row := (c.val 0).toNat / 512 + c.pos
      let entry (n : Nat) : Nat := ofBytes (s.memStart.run (cell row (4 * n)) 4)
      let nc := f.aux.toNat / 2 ^ 7 % 2 ^ 7 + 1
      let sh := f.aux.toNat / 4 % 32
      Answers .matrixRowStep s fun u => u.mem = s.mem ∧ u.ctxs = s.ctxs ∧ (u.myCore.cmd? c.id).map Cmd.pos = some (c.pos + 1)
        ∧ ∃ g bs, u.myCore.flights = s.myCore.flights ++ [g] ∧ g.left = 3 ∧ g.x = c.x ∧ g.cmd = c.id
          ∧ g.store = some ((c.val 1).toNat + 16 * ((c.val 2).toNat / 2 ^ 45) * c.pos, bs)
          ∧ (f.aux.toNat % 4 = 0 ∨ f.aux.toNat % 4 = 2 → bs.length = 4 * nc ∧ ∀ n < nc, ofBytes ((bs.drop (4 * n)).take 4) = entry n)
          ∧ (f.aux.toNat % 4 = 1 → bs.length = 2 * nc
            ∧ ∀ n < nc, ofBytes ((bs.drop (2 * n)).take 2) = (cvtF32BF16 .rne (BitVec.ofNat 32 (entry n))).1.toNat)
          ∧ (f.aux.toNat % 4 = 3 → bs.length = nc ∧ ∀ n < nc, ∃ r : Int,
            let d := (BitVec.ofNat 32 (entry n)).toInt - r * 2 ^ sh
            2 * d ≤ 2 ^ sh ∧ -(2 ^ sh) ≤ 2 * d ∧ (2 * d = 2 ^ sh ∨ 2 * d = -(2 ^ sh) → r % 2 = 0)
              ∧ (bs.getD n 0).toInt = max (-128) (min 127 r))))
  ∧ ∀ (s : State),
    let core := s.cur.core
    let cell (row i : Nat) : Nat := cellKey (.acc core) (512 * row + i)
    (∀ f l r row, s.myCore.flights = l ++ f :: r → (∀ g ∈ l, g.left ≠ 0) → f.left = 0 → f.store = none → s.engineLast core 2 = true →
      (f.base = some row ∨ f.base = none ∧ s.engineTick core 2 = true ∧ row = s.memStart.run (cell f.row 0) 512) →
      Answers .matrixPassLand s fun u => u.myCore.flights.map (fun g => (g.cmd, g.row, g.left, g.sums)) = (l ++ r).map (fun g => (g.cmd, g.row, g.left, g.sums))
        ∧ (∀ n < f.sums.length, u.word (.acc core) (512 * f.row + 4 * n) 4
            = (accumulate f.float (ofBytes ((row.drop (4 * n)).take 4)) (f.sums.getD n 0)).1)
        ∧ ∀ key, key < cell f.row 0 ∨ cell f.row (4 * f.sums.length) ≤ key → u.mem.get key = s.mem.get key)
    ∧ (∀ f l r c a bs, s.myCore.flights = l ++ f :: r → (∀ g ∈ l, g.left ≠ 0) → f.left = 0 → f.store = some (a, bs) →
      s.engineLast core 2 = true → s.myCore.cmd? f.cmd = some c → c.old = s.mem →
      Answers .matrixPassLand s fun u => Stores s u (cellKey (.scratch core) a) bs)
    ∧ (s.engineLast core 2 = false → Answers .matrixPassLand s fun u => u.mem = s.mem ∧ u.ctxs = s.ctxs
      ∧ (s.engineTick core 2 = true → ∀ f ∈ s.myCore.flights, f.left = 0 → f.base = none →
        { f with base := some (s.memStart.run (cell f.row 0) 512) } ∈ u.myCore.flights))
    ∧ ((∀ f ∈ s.myCore.flights, f.left ≠ 0) → Answers .matrixPassLand s fun u => u.mem = s.mem ∧ u.ctxs = s.ctxs)

/-- R204, R206, R212, R214, R217, R227 to R235, R248: a matrix command whose work is done leaves its queue, one in error after posting ENGINE with its
reason, MXSMP after writing its CSRs, MSBUILD with the alias table that its two work lists give, of which z is the chain of sums and small, large,
rest, Q and A are the states, or in error where Z is not finite; a weight load, MXWSTRM among them, fills its slot, FAILED where a read met an
uncorrectable error; MXNORM writes one norm; a sample advances the generator twice, draws its term and adds its reweighted product to S, and the
next is due after 2d cycles, and 16 more with a check; a check that does not decide lets the samples go on, and a decided one writes a row of means
in each cycle. No norm is negative, so that a magnitude here is the number itself. Reads wait for the stores that the push released (R277); in which
cycle flags enter is log entry 36. -/
def Obligations.MatrixCommandsComplete : Prop :=
  (∀ x a b : W32, a = x ^^^ BitVec.ofNat 32 (x.toNat * 2 ^ 13) → b = a ^^^ BitVec.ofNat 32 (a.toNat / 2 ^ 17) →
    xorshift x = b ^^^ BitVec.ofNat 32 (b.toNat * 2 ^ 5))
  ∧ ∀ (s : State) (c : Cmd), s.myCore.cmd? s.cur.id = some c →
    let core := s.cur.core
    let k := s.ctx core c.x
    let q := s.myCore.queueOf s.cur.id
    let live : Prop := s.engineTick core 2 = true ∧ s.engineOn core c.x = true
    let gone (u : State) : Prop := u.myCore.cmd? c.id = none ∧ u.mem = s.mem ∧ u.accs = s.accs
    (live → q = 1 → c.state = .running → s.myCore.noFlights c.id = true → c.sn = false → c.sp = false → c.isCopy = false →
      (c.err = 0 → c.wait = 0 → s.stage ≠ 4 → s.workDone core c = true → (∃ f, c.op = .mxgo f ∨ c.op = .mxzero f ∨ c.op = .mxdrain f ∨ c.op = .mxnorm f) →
        Answers .matrixCommandComplete s fun u => gone u ∧ u.ctxs = s.ctxs)
      ∧ (∀ f, c.err = 0 → c.wait = 0 → s.stage ≠ 4 → s.workDone core c = true → c.op = .mxsmp f →
        Answers .matrixCommandComplete s fun u => gone u ∧ (u.ctx core c.x).msfro = k.sampler.f ∧ (u.ctx core c.x).msvar = k.sampler.v
          ∧ (u.ctx core c.x).mscnt = BitVec.ofNat 18 (k.sampler.reason * 2 ^ 16 + k.sampler.t))
      ∧ (∀ f (z : Nat → W32), c.err = 0 → c.wait = 0 → s.stage ≠ 4 → c.op = .msbuild f → 0 < k.sampler.sk.toNat →
        let n := k.sampler.sk.toNat
        let g (i : Nat) : W32 := (mulF32 (k.sampler.na.getD i 0) (k.sampler.nb.getD i 0)).1
        z 0 = g 0 → (∀ i, z (i + 1) = (addF32 (z i) (g (i + 1))).1) →
        let total := z (n - 1)
        ((vF32 total).isFin = false → Answers .matrixCommandComplete s fun u => gone u ∧ (u.ctx core c.x).msz = k.msz
          ∧ (u.ctx core c.x).sampler.built = k.sampler.built
          ∧ ⟨causeENGINE, BitVec.ofNat 64 (c.errTag.toNat * 2 ^ 32 + 4), 6, s.now⟩ ∈ (u.ctx core c.x).posted)
        ∧ ((vF32 total).isFin = true → Answers .matrixCommandComplete s fun u =>
          let sp := (u.ctx core c.x).sampler
          gone u ∧ (u.ctx core c.x).msz = total ∧ sp.built = true ∧ (∀ i < n, sp.g.getD i 0 = g i)
            ∧ (∀ i, n ≤ i → sp.q.getD i 0 = k.sampler.q.getD i 0 ∧ sp.other.getD i 0 = k.sampler.other.getD i 0)
            ∧ ((vF32 total).rat = 0 → ∀ i < n, sp.q.getD i 0 = 0xFFFFFF ∧ sp.other.getD i 0 = BitVec.ofNat 12 i)
            ∧ ((vF32 total).rat ≠ 0 → ∃ (m : Nat) (small large : Nat → List Nat) (rest Q A : Nat → Nat → Nat),
              (∀ i < n, chosenInt .rne (magnitude ((vF32 (g i)).rat * n * 2 ^ 24 / (vF32 total).rat)) (rest 0 i))
              ∧ small 0 = (List.range n).filter (fun i => decide (rest 0 i < 2 ^ 24))
              ∧ large 0 = (List.range n).filter (fun i => decide (2 ^ 24 ≤ rest 0 i))
              ∧ (∀ j < m, ∃ a as b bs, small j = a :: as ∧ large j = b :: bs
                ∧ (let left := rest j b - (2 ^ 24 - rest j a)
                  rest (j + 1) = (fun i => if i = b then left else rest j i) ∧ Q (j + 1) = (fun i => if i = a then rest j a else Q j i)
                    ∧ A (j + 1) = (fun i => if i = a then b else A j i)
                    ∧ (left < 2 ^ 24 → small (j + 1) = as ++ [b] ∧ large (j + 1) = bs)
                    ∧ (2 ^ 24 ≤ left → small (j + 1) = as ∧ large (j + 1) = bs ++ [b])))
              ∧ (small m = [] ∨ large m = [])
              ∧ ∀ i < n, (i ∈ small m ++ large m → sp.q.getD i 0 = 0xFFFFFF ∧ sp.other.getD i 0 = BitVec.ofNat 12 i)
                ∧ (i ∉ small m ++ large m → sp.q.getD i 0 = BitVec.ofNat 24 (Q m i) ∧ sp.other.getD i 0 = BitVec.ofNat 12 (A m i)))))
      ∧ (c.err ≠ 0 → s.stage ≠ 4 ∨ s.engineLast core 2 = true → Answers .matrixCommandComplete s fun u => gone u
          ∧ ⟨causeENGINE, BitVec.ofNat 64 (c.errTag.toNat * 2 ^ 32 + c.err), 6, s.now⟩ ∈ (u.ctx core c.x).posted))
    ∧ (∀ f, live → q = 3 → c.op = .mxwld f → c.state = .running → c.wait = 0 → c.sn = false → c.sp = false → c.err = 0 →
      (s.workDone core c = true → s.stage ≠ 4 → Answers .weightLoadComplete s fun u => gone u
        ∧ (u.ctx core c.x).wslots.getD c.slotNumber .empty = if c.badRead then .failed c.tileTag else .full ⟨c.tileTag, c.tileFormat, c.buf⟩)
      ∧ (s.workDone core c = false → s.localArrived core c ((c.val 1).toNat + 256 * c.pos) (min 256 (tileBytes c.tileFormat - 256 * c.pos)) = true →
        Answers .weightLoadComplete s fun u => u.mem = s.mem ∧ u.ctxs = s.ctxs
        ∧ (u.myCore.cmd? c.id).map Cmd.pos = some (c.pos + 1)
        ∧ (c.old = s.mem → (u.myCore.cmd? c.id).map Cmd.buf = some (c.buf ++ s.bytes (.scratch core) ((c.val 1).toNat + 256 * c.pos)
          (min 256 (tileBytes c.tileFormat - 256 * c.pos))))))
    ∧ (∀ f r a, live → q = 3 → c.op = .mxwstrm f → c.state = .running → c.wait = 0 → c.sn = false → c.sp = false → c.err = 0 →
      let n := tileBytes c.tileFormat
      k.place core 4 (c.val 1).toNat n true false = some (r, a) →
      (c.pos < ceilDiv n 256 → Answers .weightLoadComplete s fun u => u.mem = s.mem ∧ u.ctxs = s.ctxs
        ∧ ∃ w, ceilDiv n 256 + 4 ≤ w ∧ (u.myCore.cmd? c.id).map (fun d => (d.pos, d.wait)) = some (ceilDiv n 256, w))
      ∧ (ceilDiv n 256 ≤ c.pos → s.stage ≠ 4 → a + n ≤ deviceLimit → s.servesRun core (r, a, n) = true → s.releasedArrived core c r a n = true →
        ∃ bs : List Byte, bs.length = n
          ∧ (∀ i < n, bs.getD i 0 = match (s.held.filter fun e => e.ofUnit core c.x c.gen && decide (e.key = cellKey r (a + i))
              && c.released e.seq e.strand e.ac).getLast? with
            | some h => h.byte
            | none => s.byte r (a + i))
          ∧ Answers .weightLoadComplete s fun u => gone u ∧ (u.ctx core c.x).wslots.getD c.slotNumber .empty
            = if s.badRun r a n then .failed c.tileTag else .full ⟨c.tileTag, c.tileFormat, bs⟩))
    ∧ (∀ f, live → s.ready1 core q c = true → c.op = .mxnorm f → c.pos % 2 = 0 → c.old = s.mem →
      s.localArrived core c (k.sampler.apb.toNat + 128 * (c.pos / 2)) (2 * k.sampler.sm.toNat) = true →
      Answers .matrixRowStep s fun u => u.mem = s.mem ∧ (u.myCore.cmd? c.id).map Cmd.pos = some (c.pos + 1)
        ∧ (u.ctx core c.x).sampler.nb = k.sampler.nb
        ∧ (u.ctx core c.x).sampler.na.getD (c.pos / 2) 0
          = (normOf (s.bytes (.scratch core) (k.sampler.apb.toNat + 128 * (c.pos / 2)) (2 * k.sampler.sm.toNat)) k.sampler.sm.toNat).1
        ∧ ∀ j, j ≠ c.pos / 2 → (u.ctx core c.x).sampler.na.getD j 0 = k.sampler.na.getD j 0)
    ∧ (∀ f, s.ready1 core q c = true → c.op = .mxsmp f →
      (live → c.pos = 0 → c.checking = false → c.old = s.mem →
        let sp := k.sampler
        let d := (xorshift sp.x).toNat * sp.sk.toNat / 2 ^ 32
        let term := if (xorshift (xorshift sp.x)).toNat / 2 ^ 8 < (sp.q.getD d 0).toNat then d else (sp.other.getD d 0).toNat
        let pa := sp.apb.toNat + 128 * term
        let pb := sp.bpb.toNat + 256 * term
        let bf (o : Nat) : FVal := flushV (vBF16 (s.byte (.scratch core) (o + 1) ++ s.byte (.scratch core) o))
        let gain := sp.g.getD term 0
        let wt := (divF32 k.msz gain).1
        s.localArrived core c pa (2 * sp.sm.toNat) = true → s.localArrived core c pb (2 * sp.sn.toNat) = true →
        Answers .mxsmpSample s fun u => u.mem = s.mem ∧ (u.ctx core c.x).sampler.t = k.sampler.t + 1
          ∧ (∀ i < sp.sm.toNat, ∀ j < sp.sn.toNat, i < 64 → j < 128 → (FVal.fin false 0 1 0).below (vF32 gain) = true →
            (u.ctx core c.x).sampler.tile.getD (128 * i + j) 0
              = (addF32 (sp.tile.getD (128 * i + j) 0) (rndF32 .rne (mulV (vF32 wt) (mulV (bf (pa + 2 * i)) (bf (pb + 2 * j))).1)).1).1)
          ∧ (∀ e < 8192, sp.sm.toNat ≤ e / 128 ∨ sp.sn.toNat ≤ e % 128 ∨ (FVal.fin false 0 1 0).below (vF32 gain) = false →
            (u.ctx core c.x).sampler.tile.getD e 0 = sp.tile.getD e 0)
          ∧ (u.ctx core c.x).sampler.g = sp.g ∧ (u.ctx core c.x).sampler.q = sp.q ∧ (u.ctx core c.x).sampler.other = sp.other
          ∧ (u.myCore.cmd? c.id).map Cmd.wait = some (2 * ceilDiv c.cad (s.myCore.divisor 2)
            + if (sp.t + 1) % 16 = 0 ∨ sp.t + 1 = (c.val 2).toNat / 2 ^ 48 then 16 else 0)
        ∧ (u.ctx core c.x).sampler.x = xorshift (xorshift k.sampler.x)
        ∧ (u.myCore.cmd? c.id).map Cmd.checking = some (decide ((k.sampler.t + 1) % 16 = 0 ∨ k.sampler.t + 1 = (c.val 2).toNat / 2 ^ 48)))
      ∧ (live → c.checking = true → c.pos = 0 →
        let r := k.sampler.check k.msz
        let met : Prop := (c.val 2).toNat / 2 ^ 32 % 2 ^ 16 ≤ k.sampler.t ∧ (varianceMet ((c.val 2).setWidth 32) r.1 r.2.1).1 = true
        Answers .mxsmpCheck s fun u => (u.ctx core c.x).sampler.f = r.1 ∧ (u.ctx core c.x).sampler.v = r.2.1
          ∧ (met → (u.ctx core c.x).sampler.reason = 1)
          ∧ (¬met → (u.ctx core c.x).sampler.reason = if k.sampler.t = (c.val 2).toNat / 2 ^ 48 then 2 else 0)
          ∧ (¬met → k.sampler.t ≠ (c.val 2).toNat / 2 ^ 48 → u.mem = s.mem ∧ (u.myCore.cmd? c.id).map Cmd.pos = some 0)
          ∧ (u.myCore.cmd? c.id).map Cmd.checking = some false)
      ∧ (s.engineOn core c.x = true → s.engineLast core 2 = true → c.checking = false → 1 ≤ c.pos → c.pos ≤ k.sampler.sm.toNat →
        let row := (c.val 0).toNat / 512 + (c.pos - 1)
        let key := cellKey (.acc core) (512 * row)
        Answers .mxsmpCheck s fun u => (u.myCore.cmd? c.id).map Cmd.pos = some (c.pos + 1)
          ∧ (∀ j < k.sampler.sn.toNat, u.word (.acc core) (512 * row + 4 * j) 4
            = if k.sampler.reason = 3 then 0 else (divByCount (k.sampler.tile.getD (128 * (c.pos - 1) + j) 0) k.sampler.t).1.toNat)
          ∧ ∀ n, n < key ∨ key + 4 * k.sampler.sn.toNat ≤ n → u.mem.get n = s.mem.get n))

/-- R150, R244, R245, R249, R251, R252, R264, R333, R369: a copy whose bytes have all arrived leaves its queue, and a cancelled one with error 4 for its
barrier; at a page that is not present it parks and its fault enters the queue, and after a restore it parks again where a slot is free; a failed
link or an uncorrectable error of the host port ends it with error 3. A block first reads its source and then arrives: one that meets an error
writes nothing, one into a pool or LOCAL memory writes its bytes there, sets its granules full, and credits its barrier; it waits for the stores
that the push released (R277), and one that sets granules full for the releases before the push (R273, R280). That a block reads its source when its
request arrives, that one which meets an error writes nothing, and that its bytes land in one step are the model's reading (log entry 16), as are
the access times beside the transits (log entry 20). -/
def Obligations.CopiesArriveAndEnd : Prop :=
  ∀ (s : State) (c : Cmd), s.myCore.cmd? s.cur.id = some c → c.isCopy = true →
    let core := s.cur.core
    let q := s.myCore.queueOf s.cur.id
    let k := s.ctx core c.x
    let live : Prop := s.engineOn core c.x = true
    let noBarrier : Prop := c.cc.flags.getLsbD 0 = true
    let quiet : Prop := ∀ b ∈ s.myCore.blocks, b.cmd ≠ c.id
    (live → s.frozen core = false → c.state = .running → quiet → c.sn = false → c.sp = false → (q = 0 ∨ q = 2) → c.err = 0 →
      (c.cancelled = false → c.totalBytes ≤ c.arrived →
        Answers .copyCommandComplete s fun u => u.myCore.cmd? c.id = none ∧ u.mem = s.mem ∧ u.ctxs = s.ctxs)
      ∧ (c.cancelled = true → Answers .copyCommandComplete s fun u => u.myCore.cmd? c.id = none ∧ u.mem = s.mem
        ∧ (noBarrier → u.ctxs = s.ctxs)
        ∧ (¬noBarrier → (u.ctx core c.x).barEvents = k.barEvents ++ [.error c.cc.bar.toNat 4])))
    ∧ (live → s.frozen core = false → c.state = .running → c.sn = false → c.sp = false → (q = 0 ∨ q = 2) → c.err = 1 ∨ c.err = 2 ∨ c.err = 3 →
      Answers .copyCommandComplete s fun u => u.myCore.cmd? c.id = none ∧ u.mem = s.mem
        ∧ (noBarrier → ⟨causeCOPY, BitVec.ofNat 64 (c.tok.toNat * 2 ^ 48 + c.err), 7, s.now⟩ ∈ (u.ctx core c.x).posted)
        ∧ (¬noBarrier → (u.ctx core c.x).barEvents = k.barEvents ++ [.error c.cc.bar.toNat c.err]))
    ∧ (live → s.engineTick core (queueDomain q) = true → s.parked core < 64 →
      (∀ nr, c.faultTag = none → s.faultRoom = true → s.pageFaultAt core q c = some nr → Answers .copyPageFault s fun u =>
        (u.myCore.cmd? c.id).map Cmd.state = some .parked ∧ u.fqprod = s.fqprod + 1
          ∧ ∃ f, u.openFaults = s.openFaults ++ [f] ∧ f.core = core ∧ f.x = c.x ∧ f.gen = c.gen ∧ f.token = some c.tok)
      ∧ (c.faultTag = none → s.pageFaultAt core q c = none → exec .copyPageFault s = .next s)
      ∧ (c.state = .running → c.page = none → s.pageHeld (c.farAt c.pos).1 = false →
        let stands : Prop := c.translated = true ∧ c.cancelled = false ∧ c.pos < c.totalBytes ∧ c.err = 0
        (¬stands → s.pageFaultAt core q c = none)
        ∧ (stands → s.walk (c.farAt c.pos).1 = none → s.pageFaultAt core q c = some false)
        ∧ ∀ m, stands → s.walk (c.farAt c.pos).1 = some m →
          s.pageFaultAt core q c = if (if c.inward = true then m.r else m.w) = true then none else some true)
      ∧ (c.faultTag.isSome = true → c.state = .waiting ∨ c.state = .stopped → Answers .copyPageFault s fun u =>
        (u.myCore.cmd? c.id).map Cmd.state = some .parked ∧ u.fqprod = s.fqprod ∧ u.openFaults = s.openFaults ∧ u.mem = s.mem))
    ∧ (c.state = .running → s.usesHost core c = true → c.err = 0 → Answers (.hostPortUncorrectableError core c.id) s fun u =>
        (u.myCore.cmd? c.id).map (fun d => (d.err, d.state)) = some (3, .running) ∧ u.mem = s.mem ∧ u.ctxs = s.ctxs)
    ∧ (∀ port < 16, Answers (.skornLinkFailure port) s fun u => port ∈ u.failedLinks ∧ u.mem = s.mem ∧ u.ctxs = s.ctxs)
    ∧ (∀ port < 16, s.cores = [(core, s.myCore)] → (∀ d ∈ s.myCore.cmds, d.id = c.id → d = c) → c.state = .running →
      s.usesPort s.myCore c port = true → c.err = 0 → Answers (.skornLinkFailure port) s fun u => (u.myCore.cmd? c.id).map Cmd.err = some 3)
    ∧ (∀ b : CopyBlock, let t := { s with cur := { s.cur with id := b.id } }
      s.myCore.blocks.find? (fun d => decide (d.id = b.id)) = some b → b.cmd = c.id → b.due ≤ s.now → c.err = 0 →
      s.blockServed core b = true → ((b.src :: b.dsts).all fun d => s.releasedArrived core c d.1 d.2 b.len) = true → b.outOfDevice = none →
      (b.data = none ∨ (∀ d ∈ b.dsts, ∀ n, d.1 ≠ .scratch n) ∨ s.releasesDone core c = true) →
      (b.data = none → ∀ n a, b.src = (.scratch n, a) → n ≠ core → Answers .copyBlockArrival t fun u => u.mem = s.mem ∧ u.ctxs = s.ctxs
        ∧ (u.myCore.blocks.find? fun d => decide (d.id = b.id)).map (fun d => (d.data, d.dsts, d.len))
          = some (some (s.bytes (.scratch n) a b.len), b.dsts, b.len))
      ∧ (b.data = none → ∀ r a, b.src = (r, a) → (∀ n, r ≠ .scratch n) → Answers .copyBlockArrival t fun u => u.mem = s.mem ∧ u.ctxs = s.ctxs
        ∧ ∃ bs : List Byte, (u.myCore.blocks.find? fun d => decide (d.id = b.id)).map (fun d => (d.data, d.dsts, d.len)) = some (some bs, b.dsts, b.len)
          ∧ bs.length = b.len ∧ ∀ i < b.len, (∀ h ∈ s.held, h.key ≠ cellKey r (a + i)) → bs.getD i 0 = s.byte r (a + i))
      ∧ (∀ bs, b.data = some bs → bs.length = b.len → 0 < b.len →
        (b.err ≠ 0 → Answers .copyBlockArrival t fun u => (u.myCore.cmd? c.id).map Cmd.err = some b.err ∧ u.mem = s.mem
          ∧ ∀ d ∈ u.myCore.blocks, d.id ≠ b.id)
        ∧ (∀ die o, b.err = 0 → b.dsts = [(.pool die, o)] → s.held = [] →
          Answers .copyBlockArrival t fun u => (u.myCore.cmd? c.id).map Cmd.arrived = some (c.arrived + b.len)
            ∧ Stores s u (cellKey (.pool die) o) bs ∧ ∀ d ∈ u.myCore.blocks, d.id ≠ b.id)
        ∧ (∀ f o, b.err = 0 → c.op = .cpin f → b.dsts = [(.scratch core, o)] → o + b.len ≤ 2 ^ 21 →
          Answers .copyBlockArrival t fun u => (u.myCore.cmd? c.id).map Cmd.arrived = some (c.arrived + b.len)
            ∧ (∀ i < b.len, u.byte (.scratch core) (o + i) = bs.getD i 0)
            ∧ (∀ g, o / 16 ≤ g → g ≤ (o + b.len - 1) / 16 → u.byte (.fe core) g = 2)
            ∧ (∀ key, (key < cellKey (.scratch core) o ∨ cellKey (.scratch core) (o + b.len) ≤ key) →
              (key < cellKey (.fe core) (o / 16) ∨ cellKey (.fe core) ((o + b.len - 1) / 16) < key) → u.mem.get key = s.mem.get key)
            ∧ (u.ctx core c.x).barEvents = k.barEvents ++ if f.flags.getLsbD 0 then [] else [.arrive f.bar.toNat b.len])))

/-! ### Events of the schedulers -/

/-- R143, R145, R285, R286, R291, R293, R297 to R301: the choice of a free context (`first` is the order of R298 and R299), the extent entries of a
unit, page by page, and what a dispatch sets: the registers of R286, the entries and an empty window, or a hold with a fault where a page is
missing, or an end without running where there are too many entries; a running context whose unit a waiting one outranks is to leave at its next
boundary, where it stops for a save, and a halted one stops at once. That of several pre-empted units the last one goes first, and that a unit which
the other context is about to take pre-empts no second one, are the model's readings (log entry 25). -/
def Obligations.SchedulersBindAndPreempt : Prop :=
  (∀ (s : State) (core x : Nat),
    let k := s.ctx core x
    let e (u : WorkUnit) : Nat := u.ctl.toNat / 2 ^ 32 % 4 - (s.now - u.wSince) / 2 ^ 16
    let may (y : Nat) (u : WorkUnit) : Bool := decide (u.stamp < s.now) && ((u.ctl.getLsbD 31 && !u.isStep) || decide (y = 0))
      && (decide (u.saved = none) || decide (u.home.2 = y))
    let waiting := (s.core core).ready ++ (s.spills.filter fun z => decide (z.2.1 = core)).map fun z => z.2.2
    let waits (u : WorkUnit) : Prop := u ∈ waiting ∧ may x u = true
    let first (u v : WorkUnit) : Prop := e u < e v ∨ e u = e v
      ∧ (u.ahead = true ∧ v.ahead = false ∨ u.ahead = v.ahead ∧ if u.ahead = true then v.stamp < u.stamp else u.stamp < v.stamp)
    let lower := waiting.filter fun u => may x u && decide (e u < k.ranE)
    let vacates : Prop := (s.ctx core (1 - x)).state = .free ∨ ∃ y h n, (s.ctx core (1 - x)).state = .stopping y h n
    (∀ u, waits u → (∀ v, waits v → v ≠ u → first u v) → s.choose core x = some u)
    ∧ ((∀ u, ¬waits u) → s.choose core x = none)
    ∧ (∀ u, s.choose core x = some u → waits u ∧ ∀ v, waits v → ¬first v u)
    ∧ ∀ spare, (vacates → spare = if lower.any (may (1 - x)) = true then 1 else 0) → (¬vacates → spare = 0) →
      (s.outranked core x = true ↔ (k.running = true ∨ k.state = .halted ∧ k.unit.isSome = true) ∧ k.ranSince + 4096 ≤ s.now ∧ spare < lower.length
        ∧ s.saveRoom core x = true))
  ∧ (∀ (s : State) (r w : Bool) (va n : Nat) (ps : List PageMap),
    let at' (i : Nat) : PageMap := ps.getD i ⟨0, 0, 0, 0, 0, false, false, false⟩
    let v := va % 2 ^ 57
    let start (i : Nat) : Nat := if i = 0 then v else (at' i).vbase
    let past (i : Nat) : Nat := (at' i).vbase + (at' i).size
    let ends := ps.length
    (∀ i < ends, s.pageOf (va + (start i - v)) = some (at' i) ∧ (r = true → (at' i).r = true) ∧ (w = true → (at' i).w = true)
      ∧ (at' i).vbase ≤ start i ∧ start i < past i ∧ (at' i).vbase % 4096 = 0 ∧ (at' i).size % 4096 = 0 ∧ (i + 1 < ends → past i = (at' (i + 1)).vbase)) →
    (n = 0 → s.translateSpan r w va n = .ok [])
    ∧ (0 < n → 0 < ends → start (ends - 1) < v + n → v + n ≤ past (ends - 1) → v + n ≤ 2 ^ 57 → ∃ l, s.translateSpan r w va n = .ok l
      ∧ (∀ z ∈ l, 0 < z.len ∧ z.r = r ∧ z.w = w ∧ v ≤ z.vbase ∧ z.vbase + z.len ≤ v + n)
      ∧ (∀ i < ends, ∀ b, start i ≤ b → b < past i → b < v + n →
        ((at' i).home = 0 → ∃ z ∈ l, z.vbase ≤ b ∧ b < z.vbase + z.len ∧ z.pbase + (b - z.vbase) = (at' i).pbase + (b - (at' i).vbase))
          ∧ ((at' i).home ≠ 0 → ∀ z ∈ l, b < z.vbase ∨ z.vbase + z.len ≤ b))
      ∧ ∀ i, i + 1 < l.length → ∀ y z, l[i]? = some y → l[i + 1]? = some z →
        y.vbase + y.len ≤ z.vbase ∧ (y.vbase + y.len = z.vbase → y.pbase + y.len ≠ z.pbase))
    ∧ (let next := if ends = 0 then va else va + (past (ends - 1) - v)
      next - va < n → v + n ≤ 2 ^ 57 →
      (s.pageOf next = none → s.translateSpan r w va n = .missing next false w)
      ∧ ∀ m, s.pageOf next = some m → r = true ∧ m.r = false ∨ w = true ∧ m.w = false → s.translateSpan r w va n = .missing next true w))
  ∧ (∀ (s : State) (u : WorkUnit) (ls : Nat → List Extent), u.first = false →
    let span (v : W64) : Translation := s.translateSpan (v.getLsbD 47) (v.getLsbD 48) ((((v.setWidth 45 : BitVec 45) ++ (0 : BitVec 12)).signExtend 64)).toNat
      (v.toNat / 2 ^ 49 * match v.toNat / 2 ^ 45 % 4 with
        | 0 => 2 ^ 12
        | 1 => 2 ^ 16
        | 2 => 2 ^ 21
        | _ => 2 ^ 26)
    let all := (List.range u.rngs.length).flatMap ls
    let tile (i : Nat) : Option (W64 × Nat × BitVec 2) := (u.tiles.find? fun t => decide (t.1 = i)).map fun t => (t.2.1, t.2.2.1, t.2.2.2.2)
    (u.isStep = false → (∀ i < u.rngs.length, span (u.rngs.getD i 0) = .ok (ls i)) → s.translateUnit u = if 8 < all.length then .tooMany else .ok all)
    ∧ (u.isStep = false → ∀ i va nr w, i < u.rngs.length → (∀ j < i, span (u.rngs.getD j 0) = .ok (ls j)) → span (u.rngs.getD i 0) = .missing va nr w →
      s.translateUnit u = .missing va nr w)
    ∧ (u.isStep = true → ∀ es : List Extent, es.length = 5 →
      (∀ i < 4, match tile i with
        | some t => s.translateSpan (t.2.2.getLsbD 0) (t.2.2.getLsbD 1) t.1.toNat t.2.1 = .ok [es.getD i ⟨0, 0, 0, false, false⟩]
        | none => es.getD i ⟨0, 1, 0, false, false⟩ = ⟨0, 0, 0, false, false⟩) →
      s.translateSpan true false u.blockVa.toNat 256 = .ok [es.getD 4 ⟨0, 0, 0, false, false⟩] → s.translateUnit u = .ok es))
  ∧ ∀ (s : State),
    let core := s.cur.core
    let x := s.cur.x
    let k := s.me
    let takes (u : WorkUnit) (t : State) : Prop := ∀ l, s.translateUnit u = .ok l →
      (∃ due, s.now ≤ due ∧ t.me.state = .starting due) ∧ t.me.unit.map WorkUnit.taskid = some u.taskid ∧ t.me.taskid = u.taskid
        ∧ t.me.gen = k.slotGen + 1 ∧ (∃ n, t.me.strands = [Strand.lockstep n u.code (some false)])
        ∧ (∀ i < 8, t.me.extents.getD i ⟨0, 0, 0, false, false⟩ = l.getD i ⟨0, 0, 0, false, false⟩)
        ∧ (u.first = false → u.isStep = false → t.me.s 1 = u.frame ∧ t.me.s 2 = u.arg ∧ t.me.s 3 = BitVec.ofNat 64 (u.ctl.toNat % 2 ^ 28)
          ∧ ∀ n, 3 < n → t.me.s n = 0)
        ∧ (u.first = false → u.isStep = true → (∀ i < 6, t.me.s (i + 1) = BitVec.ofNat 64 (u.levels.getD i 0)) ∧ t.me.s 7 = u.blockVa
          ∧ t.me.s 8 = u.arg ∧ ∀ n, 8 < n → t.me.s n = 0)
        ∧ (∀ g, t.me.scrbase.toNat / 16 ≤ g → g < t.me.scrlim.toNat / 16 → t.byte (.fe core) g = 0)
        ∧ (∀ key, key < cellKey (.fe core) (t.me.scrbase.toNat / 16) ∨ cellKey (.fe core) (t.me.scrlim.toNat / 16) ≤ key →
          t.mem.get key = s.mem.get key)
        ∧ t.accs = s.accs ∧ t.held = s.held
    let ends (u : WorkUnit) (t : State) : Prop := t.me.state = .free ∧ t.me.unit = none ∧ t.frprod = s.frprod + 1 ∧ Notice.unitEnd u.taskid ∈ t.notices
      ∧ (u.isStep = false → u.ctl.getLsbD 30 = true → ∃ d, t.decs = s.decs ++ [d] ∧ d.addr = u.ctl.toNat % 2 ^ 28 ∧ d.f = true ∧ d.k = false)
    (k.state = .free → s.choose core x = none → exec .dispatch s = .next s)
    ∧ (∀ u, k.state = .free → s.choose core x = some u → u.saved = none → s.takesWork core = true → s.unitHeld u = false →
      (∀ l, s.translateUnit u = .ok l → Answers .dispatch s (takes u))
      ∧ (s.translateUnit u = .tooMany → s.recordRoom = true → s.launch.isSome = true → Answers .dispatch s (ends u))
      ∧ (∀ va nr wr, s.translateUnit u = .missing va nr wr → s.faultRoom = true → Answers .dispatch s fun t =>
        t.me.state = .held ∧ t.me.unit = some u ∧ t.fqprod = s.fqprod + 1
          ∧ ∃ f, t.openFaults = s.openFaults ++ [f] ∧ f.core = core ∧ f.x = x ∧ f.gen = k.slotGen + 1 ∧ f.token = none))
    ∧ (∀ u, k.state = .held → k.unit = some u → s.takesWork core = true → s.unitHeld u = false →
      (∀ l, s.translateUnit u = .ok l → s.heldFault core x = false → Answers .dispatch s (takes u))
      ∧ (s.heldFault core x = true → exec .dispatch s = .next s))
    ∧ (∀ u a, k.state = .free → s.choose core x = some u → u.saved = some a → s.takesWork core = true → Answers .dispatch s fun t =>
      (∃ due, s.now ≤ due ∧ t.me.state = .starting due) ∧ t.me.unit = some u ∧ t.mem = s.mem ∧ t.saves = s.saves)
    ∧ (s.takesWork core = true → s.frozen core = false → s.outranked core x = true → ¬(x = 0 ∧ s.outranked core 1 = true) →
      (k.running = true → exec .schedulerPreempt s = .next (s.setCtx core x { k with leaving := true }))
      ∧ (k.state = .halted → Answers .schedulerPreempt s fun t => t.me.state = .stopping false true (s.cycleOf core) ∧ t.me.unit = k.unit
        ∧ t.me.sregs = k.sregs ∧ t.me.strands = k.strands ∧ t.me.pend = k.pend ∧ t.mem = s.mem ∧ t.accs = s.accs))
    ∧ (s.outranked core x = false → exec .schedulerPreempt s = .next s)
    ∧ (∀ rest, s.agenda = .issue core x :: rest → s.controlTick core = true → k.running = true → k.leaving = true → (∀ t ∈ k.strands, t.waits ≠ []) →
      ∃ t, Sys2Proof.Machine.step s = .next t ∧ (t.ctx core x).state = .stopping false false (s.cycleOf core) ∧ (t.ctx core x).leaving = false
        ∧ (t.ctx core x).unit = k.unit ∧ (t.ctx core x).sregs = k.sregs ∧ (t.ctx core x).strands = k.strands ∧ t.mem = s.mem ∧ t.accs = s.accs)

/-- R299, R311, R321 to R324, R327 to R331, R333, R334: a stopped context is saved once its results have landed, into an area with the bytes of R328 to
R331, and its unit is queued again behind its area; a restore brings its registers, strands, entries and stores back, discarded bytes as zero and
their granules empty; a fault record enters the ring of R322 and frees its context. That a restore takes registers, strands and entries from the
model's own copy, and the layout of what R328 names without one, are log entry 22, and when and where a save takes place is log entry 23. -/
def Obligations.SavesRestoresAndRecords : Prop :=
  (∀ (c : Cmd) (lg : Bool),
    let word (o : Nat) : Nat := ofBytes (((c.image lg).drop o).take 8)
    word 0 = c.word.toNat ∧ (∀ i < 4, word (8 + 8 * i) = (c.vals.getD i 0).toNat) ∧ word 56 = 0
      ∧ (c.isCopy = true → c.arrived < 2 ^ 40 → word 40 = c.arrived * 2 ^ 24 + (if c.tokensTaken = true then 32 else 0)
        + (if c.sampled = some true then 16 else 0) + (if c.sampled.isSome = true then 8 else 0)
        + (if c.state = .waiting then 0 else if c.state = .parked then (if lg = true then 3 else 2) else 1))
      ∧ word 48 = c.tok.toNat + (c.faultTag.getD 0).toNat / 2 ^ 32 * 2 ^ 32 ∧ (c.shadow = none → (c.image lg).length = 64))
  ∧ (∀ (p : Pending) (i n d kind : Nat), i < 256 → p.left < 256 → p.slot < 8 → d < 64 →
    (kind = 0 ∧ n = 8 ∧ (∃ v, p.res = .scalar d v) ∨ kind = 1 ∧ n = 128 + 4096 ∧ (∃ l v, p.res = .vector d l v)
      ∨ kind = 2 ∧ n = 256 ∧ (∃ l v, p.res = .mask d l v) ∨ kind = 3 ∧ n = 8 ∧ (∃ b, p.res = .queue d b) ∨ kind = 4 ∧ n = 16 ∧ ∃ v, p.res = .pattern d v) →
    (p.image i).length = 16 + n
      ∧ ofBytes ((p.image i).take 16) = p.left + d * 2 ^ 26 + kind * 2 ^ 32 + p.slot * 2 ^ 37 + i * 2 ^ 40 + p.flags.toNat * 2 ^ 57
      ∧ (∀ v, p.res = .scalar d v → ofBytes ((p.image i).drop 16) = v.toNat)
      ∧ (∀ l v, p.res = .vector d l v → ofBytes (((p.image i).drop 16).take 128) = l.toNat
        ∧ ∀ m < 1024, ofBytes (((p.image i).drop (144 + 4 * m)).take 4) = (v.getD m 0).toNat))
  ∧ ∀ (s : State),
    let core := s.cur.core
    let x := s.cur.x
    let k := s.me
    (∀ y h stop u, k.state = .stopping y h stop → k.unit = some u → (s.accsOf core x).all Access.isMxstat = true →
      (∀ p ∈ k.pend, p.inter = false) → s.myCore.enginesQuiet x = true → s.clusterOn core = true → s.saveRoom core x = true
      → s.areaServed core x = true → s.pushRoom core = true →
      Answers .contextSave s fun t => t.me.state = .free ∧ t.me.unit = none
        ∧ ∃ v ∈ t.saves, v.final = false ∧ v.core = core ∧ v.x = x ∧ v.stop = stop ∧ v.ctx.sregs = k.sregs ∧ v.ctx.strands = k.strands ∧ v.ctx.pend = k.pend
          ∧ (∃ w ∈ t.queued core, w.saved = some v.addr ∧ w.taskid = u.taskid ∧ w.ahead = !y)
          ∧ (∃ d, (s.launch.bind fun c => c.dies[dieOf core]?) = some d ∧ d.svbase ≤ v.addr ∧ v.addr % 4096 = 0
            ∧ v.addr + v.size ≤ d.svbase + d.svsize ∧ v.size = s.areaSize core x
            ∧ (core < 256 → Memory.wf s.mem = true → s.areaSize core x < 2 ^ 32 → d.svbase + d.svsize ≤ deviceLimit →
              let word (o n : Nat) : Nat := ofBytes (t.bytes .dev (v.addr + o) n)
              let off (i : Nat) : Nat := word (32 + 8 * i) 4
              let len (i : Nat) : Nat := word (36 + 8 * i) 4
              let win := k.scrlim.toNat - k.scrbase.toNat
              let own (q : Nat) : List Cmd := (s.myCore.queue q).filter fun c => decide (c.x = x)
              let pend := k.pend.filter fun p => decide (p.res ≠ .flagsOnly)
              let sp := k.sampler
              (word 0 4 = 0x5A534156 ∧ word 4 2 = 1 ∧ word 8 4 = k.gen.toNat ∧ word 12 4 = 0 ∧ word 16 8 = k.taskid.toNat ∧ word 24 8 = stop % 2 ^ 64
                ∧ word 6 2 = (if (k.strands ++ k.stopped).any (fun z => decide (z.kind = some true)) = true then 2 else 0) + if k.inhdl = true then 4 else 0)
              ∧ (∀ n < 64, word (0x100 + 8 * n) 8 = (k.sregs.getD n 0).toNat ∧ word (0x700 + 8 * n) 8 = (k.bar n).word.toNat)
              ∧ (∀ n < 8, word (0x300 + 8 * n) 8 = (k.fpf.getD n 0).toNat ∧ word (0xC00 + 128 * n) 128 = (k.m n).toNat
                ∧ word (0x1000 + 16 * n) 16 = (k.pats.getD n 0).toNat ∧ word (0xA00 + 8 * n) 8 = (k.peers.getD n 0).toNat
                ∧ (let z := k.extents.getD n ⟨0, 0, 0, false, false⟩
                  z.vbase < 2 ^ 64 → z.pbase < 2 ^ 64 → z.len < 2 ^ 64 → word (0x900 + 32 * n) 32
                    = (if z.r = true then 1 else 0) + (if z.w = true then 2 else 0) + z.pbase * 2 ^ 64 + z.len * 2 ^ 128 + z.vbase * 2 ^ 192))
              ∧ (word 0x340 8 = k.ferec.toNat ∧ word 0x348 8 = k.tvec.toNat ∧ word 0x350 8 = k.tepc.toNat ∧ word 0x358 8 = k.tcause.toNat
                ∧ word 0x360 8 = k.tval.toNat ∧ word 0x368 8 = k.issue.toNat ∧ word 0x370 8 = k.taskid.toNat
                ∧ word 0x378 8 = (if k.clkReq = true then 1 else 0) ∧ word 0x380 8 = (if k.inhdl = true then 1 else 0)
                ∧ word 0x388 8 = (if k.brcol = true then 1 else 0) ∧ word 0x390 8 = k.mscnt.toNat ∧ word 0x398 8 = k.msfro.toNat
                ∧ word 0x3A0 8 = k.msvar.toNat ∧ word 0x3A8 8 = k.msz.toNat)
              ∧ (∀ n < 32, ∀ e < 1024, word (0x4000 + 4096 * n + 4 * e) 4 = ((k.v n).getD e 0).toNat)
              ∧ (k.tableLoads = [] → ∀ n < 8, ∀ z, k.tables[n]? = some z → ∀ e < 260, word (0x1080 + 1040 * n + 4 * e) 4 = (z.getD e 0).toNat)
              ∧ (∀ n < 4096, word (0x4A000 + 4 * n) 4 = (sp.na.getD n 0).toNat ∧ word (0x4E000 + 4 * n) 4 = (sp.nb.getD n 0).toNat
                ∧ word 0x52000 18432 / 2 ^ (36 * n) % 2 ^ 36 = (sp.q.getD n 0).toNat + (sp.other.getD n 0).toNat * 2 ^ 24)
              ∧ (∀ n < 8192, word (0x56800 + 4 * n) 4 = (sp.tile.getD n 0).toNat)
              ∧ (word 0x5E800 8 = sp.sk.toNat ∧ word 0x5E808 8 = sp.sm.toNat ∧ word 0x5E810 8 = sp.sn.toNat ∧ word 0x5E818 8 = sp.apb.toNat
                ∧ word 0x5E820 8 = sp.bpb.toNat ∧ word 0x5E828 8 = (if sp.built = true then 1 else 0) ∧ word 0x5E830 8 = k.msz.toNat
                ∧ word 0x5E838 8 = sp.x.toNat ∧ word 0x5E840 8 = sp.t % 2 ^ 64 ∧ word 0x5E848 8 = sp.reason % 2 ^ 64 ∧ word 0x5E850 8 = sp.f.toNat
                ∧ word 0x5E858 8 = sp.v.toNat)
              ∧ (off 0 = 0x5F000 ∧ (∀ i < 5, off (i + 1) = (off i + len i + 63) / 64 * 64) ∧ len 2 = 512 ∧ len 3 = win ∧ len 4 = (win / 16 + 7) / 8
                ∧ len 5 = k.acclim.toNat - k.accbase.toNat)
              ∧ (t.bytes .dev (v.addr + off 0) (len 0) = toBytes 8 pend.length ++ (List.range pend.length).flatMap (fun i => ((pend[i]?).map fun p => p.image i).getD [])
                ∧ t.bytes .dev (v.addr + off 1) (len 1) = (List.range 4).flatMap fun q => toBytes 8 (own q).length
                  ++ (own q).flatMap fun c => c.image (k.replyLog.any fun r => decide (r.1 = c.tok)))
              ∧ (∀ i < win, t.byte .dev (v.addr + off 3 + i) = if k.discarded (k.scrbase.toNat + i) = true then s.byte .dev (v.addr + off 3 + i)
                else s.byte (.scratch core) (k.scrbase.toNat + i))
              ∧ (∀ g < win / 16, (word (off 4 + g / 8) 1 / 2 ^ (g % 8) % 2 = 1) ↔ s.byte (.fe core) (k.scrbase.toNat / 16 + g) ≠ 0)
              ∧ (∀ i < k.acclim.toNat - k.accbase.toNat, k.liveRow (i / 512) = true → t.byte .dev (v.addr + off 5 + i) = s.byte (.acc core) (k.accbase.toNat + i))
              ∧ (∀ a, a < v.addr ∨ v.addr + v.size ≤ a → a < 2 ^ 64 → t.byte .dev a = s.byte .dev a)
              ∧ (∀ i < 2 ^ 22, t.byte (.scratch core) i = s.byte (.scratch core) i ∧ t.byte (.acc core) i = s.byte (.acc core) i))))
    ∧ (∀ due u a v, k.state = .starting due → k.unit = some u → u.saved = some a → s.saves.find? (fun w => decide (w.addr = a)) = some v →
      s.takesWork core = true → due ≤ s.now → s.quiesced v.addr v.size = false →
      Answers .contextRestore s fun t =>
        (v.ctx.state ≠ .halted → t.me.state = .starting due) ∧ (v.ctx.state = .halted → t.me.state = .halted)
          ∧ t.me.unit.map WorkUnit.taskid = some u.taskid ∧ t.me.sregs = v.ctx.sregs ∧ t.me.vregs = v.ctx.vregs ∧ t.me.masks = v.ctx.masks
          ∧ t.me.strands = v.ctx.strands ∧ t.me.pend = v.ctx.pend ∧ t.me.bars = v.ctx.bars ∧ t.me.tepc = v.ctx.tepc
          ∧ t.me.tile = v.ctx.tile ∧ t.me.wslots = v.ctx.wslots ∧ t.me.extents = v.ctx.extents ∧ t.me.peers = v.ctx.peers ∧ t.me.gen = v.ctx.gen
          ∧ (∀ w ∈ t.saves, w.addr ≠ a)
          ∧ (core < 256 → Memory.wf v.cells = true → Memory.wf s.mem = true →
            (∀ i, v.ctx.scrbase.toNat ≤ i → i < v.ctx.scrlim.toNat → t.byte (.scratch core) i = v.cells.get (cellKey (.scratch core) i))
            ∧ (∀ g, v.ctx.scrbase.toNat / 16 ≤ g → g < v.ctx.scrlim.toNat / 16 →
              t.byte (.fe core) g = if v.ctx.discarded (16 * g) = true then 0 else v.cells.get (cellKey (.fe core) g))
            ∧ ∀ i, v.ctx.accbase.toNat ≤ i → i < v.ctx.acclim.toNat → t.byte (.acc core) i = v.cells.get (cellKey (.acc core) i)))
    ∧ (∀ bs c, k.state = .recording bs false → s.launch = some c → s.recordRoom = true → bs.length = 64 →
      c.frbase + s.frprod.toNat % c.frcap * 64 + 64 ≤ deviceLimit →
      Answers .faultRecordWrite s fun t => t.me.state = .free ∧ t.me.unit = none ∧ t.frprod = s.frprod + 1
        ∧ (∀ i < 64, t.byte .dev (c.frbase + s.frprod.toNat % c.frcap * 64 + i) = bs.getD i 0)
        ∧ Notice.record s.frprod.toNat ∈ t.notices)
    ∧ (∀ bs, k.state = .recording bs false → s.recordRoom = false → exec .faultRecordWrite s = .next s)

/-- R11, R12, R268, R292, R304, R305, R308 to R310, R319 to R322: a task that ends is freed once everything that it issued has completed, its stores
visible, its step marked and counted, or its decrement on its way, or TCONT's record queued on its core; a unit that ends under KILL writes its
FINAL area where there is room, publishes, decrements, and leaves its record; a block is accepted by the walkers of its dies once what precedes the
SPAWNOP is performed, and that is published (to all observers at once, log entry 21); a decrement counts its word down, and at zero sets DONE and
sends the word's continuation to its core. Access times beside transits are open (log entry 20); when a FINAL save takes place is log entry 23. -/
def Obligations.TasksEndAndCount : Prop :=
  ∀ (s : State),
    let core := s.cur.core
    let x := s.cur.x
    let k := s.me
    let t := s.myStrand
    let acts : Prop := s.controlTick core = true ∧ s.me.running = true
    let published (v : State) : Prop := ∀ h ∈ v.held, h.ofUnit core x k.gen = false
    let setsOut (v : State) (addr : Nat) (f kl : Bool) : Prop := ∃ d there, v.decs = s.decs ++ [d] ∧ d.addr = addr ∧ d.f = f ∧ d.k = kl
      ∧ (PathsOk s → s.follows core (nearestCorner core (addr / 2 ^ 26)) s.now there) ∧ there < d.due
    let counts (v : State) (u : WorkUnit) (f kl : Bool) : Prop :=
      (u.isStep = false → u.ctl.getLsbD 30 = true → setsOut v (u.ctl.toNat % 2 ^ 28) f kl)
        ∧ (u.isStep = false → u.ctl.getLsbD 30 = false → v.decs = s.decs)
        ∧ (u.isStep = true → ∀ b, s.blocks.find? (fun b => decide (b.id = u.block)) = some b → (∀ d ∈ s.blocks, d.id = b.id → d = b) →
          (1 < b.left → { b with left := b.left - 1, faulted := b.faulted || f, killed := b.killed || kl } ∈ v.blocks ∧ v.decs = s.decs)
          ∧ (b.left = 1 → (∀ d ∈ v.blocks, d.id ≠ b.id)
            ∧ ((b.word 104).getLsbD 30 = true → ∃ d, v.decs = s.decs ++ [d] ∧ d.addr = (b.word 104).toNat % 2 ^ 28 ∧ d.f = (b.faulted || f)
              ∧ d.k = (b.killed || kl))
            ∧ ((b.word 104).getLsbD 30 = false → v.decs = s.decs)))
    (∀ u, acts → t.waits = [.tend none] → k.unit = some u → s.workOver core x = true →
      Answers .taskEnd s fun v => v.me.state = .free ∧ v.me.unit = none ∧ published v ∧ counts v u false false
        ∧ (published s → u.isStep = false → v.mem = s.mem)
        ∧ (published s → u.isStep = true → ∀ b, s.blocks.find? (fun b => decide (b.id = u.block)) = some b →
          let map := (b.word 112).toNat
          let a := map % 2 ^ 28 + 8 * (u.stepNo / 64)
          let r : Region := .pool (a / 2 ^ 26)
          let o := a % 2 ^ 26
          (map / 2 ^ 28 % 2 = 0 → v.mem = s.mem)
            ∧ (map / 2 ^ 28 % 2 = 1 → Stores s v (cellKey r o) (toBytes 8 (s.word r o 8 ||| 2 ^ (u.stepNo % 64))))))
    ∧ (∀ u c, acts → t.waits = [.tend (some c)] → k.unit = some u → s.workOver core x = true → s.pushRoom core = true →
      Answers .taskEnd s fun v => v.me.state = .free ∧ v.me.unit = none ∧ v.decs = s.decs ∧ published v
        ∧ { c with taskid := BitVec.ofNat 64 (dieOf core * 2 ^ 48 + (s.recSeq.getD (dieOf core) 0).toNat), wSince := s.now, stamp := s.now } ∈ v.queued core)
    ∧ (∀ cont, t.waits = [.tend cont] → s.workOver core x = false → exec .taskEnd s = .next s)
    ∧ (∀ e f kl stop u, k.state = .ending e f kl stop → k.unit = some u →
      let quiet : Prop := (∀ g ∈ s.myCore.flights, g.x ≠ x) ∧ ∀ b ∈ s.myCore.blocks, b.x ≠ x
      exec .faultRecordWrite s = .next (s.finishEnd core x)
      ∧ (¬quiet → s.finishEnd core x = s)
      ∧ (quiet → s.saveRoom core x = false ∨ s.areaServed core x = true →
        let v := s.finishEnd core x
        published v ∧ counts v u f kl ∧ (∀ q < 4, ∀ c ∈ v.myCore.queue q, c.x ≠ x)
          ∧ (∀ o ∈ v.openFaults, ¬(o.core = core ∧ o.x = x ∧ o.gen = k.gen))
          ∧ ∃ save, (s.saveRoom core x = false → save = 0 ∧ v.saves = s.saves)
            ∧ (s.saveRoom core x = true → ∃ w ∈ v.saves, w.addr = save ∧ w.final = true ∧ w.core = core ∧ w.x = x ∧ w.stop = stop ∧ w.ctx = k)
            ∧ (s.recordRoom = false → s.launch.isSome = true → v.me.unit = some u ∧ v.frprod = s.frprod ∧ ∃ bs, v.me.state = .recording bs false)
            ∧ ∀ c, s.recordRoom = true → s.launch = some c → v.me.state = .free ∧ v.me.unit = none ∧ v.frprod = s.frprod + 1
              ∧ Notice.record s.frprod.toNat ∈ v.notices
              ∧ (let place := c.frbase + s.frprod.toNat % c.frcap * 64
                let word (o : Nat) : Nat := ofBytes (v.bytes .dev (place + o) 8)
                place + 64 ≤ deviceLimit → word 0 = k.taskid.toNat ∧ word 8 = e.tcause.toNat ∧ word 16 = e.tval.toNat ∧ word 24 = e.tepc.toNat
                  ∧ word 32 = stop % 2 ^ 64 ∧ word 40 = save % 2 ^ 64 ∧ word 56 = 0
                  ∧ (core < 256 → x < 2 → e.out < 4 → word 48 = core + x * 2 ^ 8 + (if u.ctl.getLsbD 35 = true then 2 ^ 9 else 0) + e.out * 2 ^ 10
                    + (if e.dbl = true then 2 ^ 12 else 0) + min k.posted.length 64 * 2 ^ 16 + k.gen.toNat * 2 ^ 32))))
    ∧ (∀ va bs due before, acts → k.strand? s.cur.strand = some t → t.waits = [.block va bs due before] → due ≤ s.now →
      (∀ d ∈ blockDies bs (dieOf core), (s.freeSlot d).isSome = true) → s.allPerformed core x before = true → 0 < blockSteps bs →
      (∀ b ∈ s.blocks, b.left ≠ 0) →
      Answers .blockAccept s fun v => (v.me.strand? t.id).map Strand.waits = some []
        ∧ v.held = s.held.filter (fun h => !(h.ofUnit core x s.me.gen && decide (h.seq < before)))
        ∧ ∃ b ∈ v.blocks, b.bytes = bs ∧ b.va = va ∧ b.left = blockSteps bs ∧ b.dies.map (fun d => d.1) = blockDies bs (dieOf core))
    ∧ (∀ d, s.decs.find? (fun e => decide (e.id = s.cur.id)) = some d → d.due ≤ s.now →
      let die := d.addr / 2 ^ 26
      let r : Region := .pool die
      let a := d.addr % 2 ^ 26
      let w := s.word r a 8
      let f := if d.f = true ∨ w / 2 ^ 32 % 2 = 1 then 2 ^ 32 else 0
      let kl := if d.k = true ∨ w / 2 ^ 33 % 2 = 1 then 2 ^ 33 else 0
      let word := w / 2 ^ 35 * 2 ^ 35 + f + kl
      Answers .joinCounterDecrement s fun v => v.decs = s.decs.filter (fun e => decide (e.id ≠ d.id))
        ∧ (w / 2 ^ 34 % 2 = 1 ∨ w % 2 ^ 32 = 0 → v.mem = s.mem ∧ Notice.joinDone d.addr (BitVec.ofNat 64 w) ∈ v.notices)
        ∧ (w / 2 ^ 34 % 2 = 0 → 2 ≤ w % 2 ^ 32 → v.word r a 8 = word + (w % 2 ^ 32 - 1) ∧ v.conts = s.conts)
        ∧ (w / 2 ^ 34 % 2 = 0 → w % 2 ^ 32 = 1 → v.word r a 8 = word + 2 ^ 34
          ∧ ∀ c, s.conts.find? (fun c => decide (c.die = die ∧ c.index = w / 2 ^ 40)) = some c →
            v.conts = s.conts.filter (fun e => !decide (e.die = die ∧ e.index = w / 2 ^ 40))
            ∧ ∃ z, v.transits = s.transits ++ [z] ∧ z.core = c.core ∧ z.unit = { c.unit with relWord := BitVec.ofNat 64 (word + 2 ^ 34), wSince := s.now }
              ∧ (PathsOk s → s.follows (nearestCorner c.core die) c.core s.now z.due)))

/-- R9, R11, R12, R291, R297, R302, R307: the transit of a packet, the corner by which a unit of a die is reached, and packets that keep their order on
a path, which every step keeps; a walker pushes a block's next step, a spilled unit returns to its core, a unit in transit arrives, and in the
averaging cycle alone every core whose count exceeds a neighbour's by d, 2 at least, sends it min(floor(d / 4), 4) units, its neighbours in
ascending ID, from the end of highest e, the latest stamps first, and none that it dispatches in this cycle: of one core, `outs` holds the
destinations and units in the order in which they set out. A walker that pushes in even cycles alone, and the oldest block first, are the model's
choice (log entry 36), as are access times beside transits (log entry 20). -/
def Obligations.UnitsReachTheirCores : Prop :=
  (∀ a b, a < 256 → b < 256 →
    let apart (m n : Nat) : Nat := (m - n) + (n - m)
    transit a b = 2 * (apart (a % 16) (b % 16) + apart (a / 16) (b / 16)) + 12 * (apart (a % 16 / 8) (b % 16 / 8) + apart (a / 128) (b / 128)))
  ∧ (∀ c die, die < 4 →
    let corner (n : Nat) : Prop := n < 256 ∧ (n % 16 / 8 + 2 * (n / 128)) = die ∧ (n % 8 = 0 ∨ n % 8 = 7) ∧ (n / 16 % 8 = 0 ∨ n / 16 % 8 = 7)
    corner (nearestCorner c die) ∧ ∀ n, corner n → transit c (nearestCorner c die) < transit c n
      ∨ transit c (nearestCorner c die) = transit c n ∧ nearestCorner c die ≤ n)
  ∧ (∀ (s : State) (l : List (Nat × Nat)) (sent : Nat), PathsOk s → PathsOk (s.carry l sent).2
    ∧ ∀ p ∈ l, ∃ due, s.follows p.1 p.2 sent due ∧ due ≤ (s.carry l sent).1 ∧ ⟨p.1, p.2, sent, due⟩ ∈ (s.carry l sent).2.packets)
  ∧ (∀ s t : State, PathsOk s → Sys2Proof.Machine.step s = .next t → PathsOk t)
  ∧ ∀ (s : State),
    let core := s.cur.core
    (∀ b u c, s.blocks.findSome? (fun b => (b.nextStep core).map fun n => (b, n)) = some (b, u, c) →
      (s.now % 2 = 0 → s.pushRoom c = true → s.clusterOn c = true → Answers .walkerStepPush s fun t => t.mem = s.mem ∧ t.ctxs = s.ctxs
        ∧ (∀ v ∈ s.queued c, v ∈ t.queued c) ∧ ∃ v ∈ t.queued c, v = { u with wSince := s.now, stamp := s.now })
      ∧ (s.now % 2 = 1 → exec .walkerStepPush s = .next s))
    ∧ (∀ e, s.spills.find? (fun e => decide (e.2.1 = core)) = some e → s.clusterOn core = true →
      (s.myCore.ready.length < 64 → exec .spillReturn s = .next
        ({ s with spills := s.spills.erase e }.setCore core { s.myCore with ready := s.myCore.ready ++ [e.2.2] }))
      ∧ (64 ≤ s.myCore.ready.length → exec .spillReturn s = .next s))
    ∧ (∀ v, s.transits.find? (fun e => decide (e.id = s.cur.id)) = some v → v.due ≤ s.now → s.pushRoom v.core = true → s.clusterOn v.core = true →
      Answers .workUnitArrival s fun t => t.transits = s.transits.filter (fun e => decide (e.id ≠ v.id))
        ∧ (∃ u ∈ t.queued v.core, u = { v.unit with stamp := s.now }) ∧ t.mem = s.mem ∧ t.ctxs = s.ctxs)
    ∧ (s.now % 256 = 0 → Answers .neighbourAveraging s fun t => t.mem = s.mem ∧ t.ctxs = s.ctxs ∧ t.spills = s.spills
      ∧ (let e (u : WorkUnit) : Nat := u.ctl.toNat / 2 ^ 32 % 4 - (s.now - u.wSince) / 2 ^ 16
        let moves (u : WorkUnit) : Bool := !u.isStep && !u.ctl.getLsbD 34 && !u.hasRun && decide (u.saved = none)
        let on := s.cores.filter fun c => s.clusterOn c.1
        let count (c : Nat) : Nat := if s.clusterOn c = true then ((s.core c).ready.filter moves).length else 0
        ∃ f : Nat → State, f 0 = s ∧ f on.length = t ∧ ∀ i c k, on[i]? = some (c, k) →
          let u := f i
          let v := f (i + 1)
          let excess (n : Nat) : Nat := (k.ready.filter moves).length - count n
          let share (n : Nat) : Nat := if 2 ≤ excess n then min (excess n / 4) 4 else 0
          let free (w : WorkUnit) : Prop := moves w = true ∧ w ∉ u.takenNow c
          ∃ outs : List (Nat × WorkUnit),
            (∀ z ∈ outs, free z.2 ∧ (z.1 + 16 = c ∨ z.1 + 1 = c ∧ c % 16 ≠ 0 ∨ z.1 = c + 1 ∧ c % 16 ≠ 15 ∨ z.1 = c + 16 ∧ c < 240))
            ∧ (outs.map Prod.fst).Pairwise (· ≤ ·) ∧ (u.core c).ready.Perm (outs.map Prod.snd ++ (v.core c).ready)
            ∧ (∀ n, (outs.filter fun z => decide (z.1 = n)).length ≤ share n)
            ∧ (∀ n, (n + 16 = c ∨ n + 1 = c ∧ c % 16 ≠ 0 ∨ n = c + 1 ∧ c % 16 ≠ 15 ∨ n = c + 16 ∧ c < 240) →
              (outs.filter fun z => decide (z.1 = n)).length < share n → ∀ w ∈ (v.core c).ready, ¬free w)
            ∧ (∀ j z, outs[j]? = some z → ∀ w ∈ (outs.drop (j + 1)).map Prod.snd ++ (v.core c).ready, free w →
              e w < e z.2 ∨ e w = e z.2 ∧ w.stamp ≤ z.2.stamp)
            ∧ (∀ n, n ≠ c → (v.core n).ready = (u.core n).ready)
            ∧ ∃ l, v.transits = u.transits ++ l ∧ l.map (fun z => (z.core, z.unit)) = outs
              ∧ (PathsOk u → ∀ z ∈ l, s.now + transit c z.core ≤ z.due)))
    ∧ (∀ c, let leaves (x : Nat) : Prop := (s.ctx c x).state = .free
      (¬leaves 0 → ¬leaves 1 → s.takenNow c = []) ∧ (s.takesWork c = true → leaves 0 → ¬leaves 1 → s.takenNow c = (s.choose c 0).toList)
        ∧ ∀ u, s.takesWork c = true → leaves 1 → s.choose c 1 = some u → u ∈ s.takenNow c)
    ∧ (s.now % 256 ≠ 0 → exec .neighbourAveraging s = .next s)

/-! ### Camp cores -/

/-- R338 to R341, R344 to R347: the mailbox and episode instructions answer their statuses in rd, and change the pair as R340 says: a post goes to
ACT_TURN, a take back to OBS_TURN with the next step, an end or an expiry to ENDED with its reason, and the entry that a post, an end or an expiry
adds has the header of R341. EP.SWITCH writes the outgoing count back and loads the descriptor at rs1; with START it starts the pair. Counted cycles
count up (R342, R344), and an expiry follows the operations of the other camp cores, at the place in the agenda that log entry 3 chooses. minstret
and the trap's entry are log entry 12. Without an episode, or in user mode where it is needed, the instructions are illegal. -/
def Obligations.CampExtension : Prop :=
  ∀ (s : State) (rd rs1 rs2 : BitVec 5),
    let n := s.cur.id
    let k := s.camp n
    let a := k.r rs1.toNat
    let b := k.r rs2.toNat
    let np := s.campPair n
    let p := s.pair np
    let answers (t : State) (k' : Camp) (v : W64) : State :=
      t.setCamp n { (k'.setR rd.toNat v) with pc := k.pc + 4, minstret := k.minstret + 1 }
    let ended : W64 := BitVec.ofNat 64 (3 + 16 * p.reason.toNat)
    let isOver : Prop := p.state = pairENDED ∨ p.state = pairIDLE
    let fits (store : Bool) (m : Nat) : Prop := k.accessTrap store a m 32 = none
    let illegal (i : Instr) : Prop := ∃ v, exec i s = .next (s.setCamp n (k.trap 2 v))
    let stamped (e : List Byte) (kind reason ptr len : Nat) (payload : List Byte) : Prop :=
      ofBytes (e.take 4) = p.epid.toNat + kind * 2 ^ 24 + ptr * 2 ^ 26 + reason * 2 ^ 28 ∧ ofBytes ((e.drop 4).take 4) = p.step.toNat
        ∧ ofBytes ((e.drop 8).take 2) = p.rver.toNat ∧ ofBytes ((e.drop 10).take 2) = np % 2 ^ 16 ∧ ofBytes ((e.drop 12).take 2) = len
        ∧ ofBytes ((e.drop 14).take 18) = 0 ∧ e.drop 32 = payload ∧ e.length = 256
    (k.episode = none → illegal (.mbPost rd rs1 rs2) ∧ illegal (.mbTake rd rs1) ∧ illegal (.mbPeek rd) ∧ illegal (.epWdset rd rs1)
      ∧ illegal (.epEnd rd))
    ∧ (k.machine = false → illegal (.epSwitch rd rs1 rs2) ∧ illegal (.epWdset rd rs1) ∧ illegal (.epEnd rd))
    ∧ (k.episode.isSome = true → fits false 224 →
      (2 ^ 9 ≤ b.toNat ∨ 224 < b.toNat % 256 → exec (.mbPost rd rs1 rs2) s = .next (answers s k 6))
      ∧ (b.toNat < 2 ^ 9 → b.toNat % 256 ≤ 224 → isOver → exec (.mbPost rd rs1 rs2) s = .next (answers s k ended))
      ∧ (b.toNat < 2 ^ 9 → b.toNat % 256 ≤ 224 → ¬isOver → p.state ≠ pairOBS → exec (.mbPost rd rs1 rs2) s = .next (answers s k 2))
      ∧ (b.toNat < 2 ^ 9 → b.toNat % 256 ≤ 224 → p.state = pairOBS → ∃ e,
        stamped e 1 0 (b.toNat / 256) (b.toNat % 256) (s.bytes (.camp n) a.toNat 224)
        ∧ exec (.mbPost rd rs1 rs2) s =
          .next (answers (s.setPair np { p with state := pairACT, obs := p.obs ++ [e] }) { k with posted := true } 0)))
    ∧ (k.episode.isSome = true → fits true 256 →
      (isOver → exec (.mbTake rd rs1) s = .next (answers s k ended))
      ∧ (¬isOver → p.state ≠ pairTAKE → exec (.mbTake rd rs1) s = .next (answers s k 1))
      ∧ (p.state = pairTAKE → exec (.mbTake rd rs1) s = .next (answers
          ((s.setPair np { p with state := pairOBS, step := p.step + 1, act := [] }).putBytes (.camp n) a.toNat (p.act.headD []))
          { k with count := 0 } 0)))
    ∧ (k.episode.isSome = true → exec (.mbPeek rd) s = .next (answers s k p.word))
    ∧ (∀ e, k.episode = some e → k.machine = true →
      exec (.epWdset rd rs1) s = .next (answers (s.putBytes (.camp n) (e + 28) (toBytes 4 (a.toNat % 2 ^ 32))) { k with budget := a.setWidth 32 }
        (k.budget.setWidth 64))
      ∧ (isOver → exec (.epEnd rd) s = .next (answers s k ended))
      ∧ (¬isOver → ∃ x, stamped x 3 1 0 0 (List.replicate 224 0) ∧ exec (.epEnd rd) s = .next (answers
          (s.setPair np { p with state := pairENDED, reason := 1, act := [], obs := p.obs ++ [x] }) k 0)))
    ∧ (k.machine = true → k.accessTrap false a 32 32 = none →
      let d := s.bytes (.camp n) a.toNat 32
      let new := 16384 * (n / 32) + entryField d 0 2
      (2 ≤ b.toNat ∨ descriptorOk d = false → exec (.epSwitch rd rs1 rs2) s = .next (answers s k 6))
      ∧ (b = 1 → descriptorOk d = true → (s.pair new).state ≠ pairIDLE → exec (.epSwitch rd rs1 rs2) s = .next (answers s k 1))
      ∧ (b = 1 → descriptorOk d = true → (s.pair new).state = pairIDLE → Answers (.epSwitch rd rs1 rs2) s fun u =>
        (u.camp n).episode = some a.toNat ∧ (u.camp n).pc = k.pc + 4 ∧ (rd ≠ 0 → (u.camp n).r rd.toNat = 0) ∧ (u.camp n).count = 0
          ∧ u.pair new = ⟨pairOBS, BitVec.ofNat 20 (entryField d 4 4), 0, BitVec.ofNat 1 (entryField d 2 1), s.polver.getD (n / 32) 0, 0, 0, [], []⟩
          ∧ ∀ j, j ≠ new → u.pair j = s.pair j)
      ∧ (b = 0 → descriptorOk d = true → Answers (.epSwitch rd rs1 rs2) s fun u =>
        (u.camp n).episode = some a.toNat ∧ (u.camp n).pc = k.pc + 4 ∧ (rd ≠ 0 → (u.camp n).r rd.toNat = 0)
          ∧ (∀ j < 32, j ≠ rd.toNat → (u.camp n).r j = k.r j) ∧ u.pairs = s.pairs
          ∧ (u.camp n).pair = BitVec.ofNat 14 (entryField d 0 2) ∧ (u.camp n).epid = BitVec.ofNat 20 (entryField d 4 4)
          ∧ (u.camp n).winA = (entryField d 8 4, entryField d 12 4) ∧ (u.camp n).winB = (entryField d 16 4, entryField d 20 4)
          ∧ (k.episode = none → u.mem = s.mem ∧ (u.camp n).count = BitVec.ofNat 32 (entryField d 24 4)
            ∧ (u.camp n).budget = BitVec.ofNat 32 (entryField d 28 4))
          ∧ (∀ e, k.episode = some e → a.toNat + 32 ≤ e + 24 ∨ e + 28 ≤ a.toNat ∨ a.toNat = e →
            Stores s u (cellKey (.camp n) (e + 24)) (toBytes 4 k.count.toNat) ∧ (u.camp n).budget = BitVec.ofNat 32 (entryField d 28 4)
              ∧ (u.camp n).count = if a.toNat = e then k.count else BitVec.ofNat 32 (entryField d 24 4))))
    ∧ (∀ d : List Byte, descriptorOk d = true ↔ entryField d 0 2 < 2 ^ 14 ∧ entryField d 2 1 < 2 ∧ entryField d 3 1 = 0
      ∧ entryField d 4 4 < 2 ^ 20 ∧ entryField d 8 4 % 64 = 0 ∧ entryField d 12 4 % 64 = 0 ∧ entryField d 8 4 + entryField d 12 4 ≤ 131072
      ∧ entryField d 16 4 % 64 = 0 ∧ entryField d 20 4 % 64 = 0
      ∧ (entryField d 20 4 = 0 ∨ entryField d 16 4 + entryField d 20 4 ≤ 131072))
    ∧ (s.campCounts n = true ↔ k.machine = false ∧ k.episode.isSome = true ∧ p.state = pairOBS)
    ∧ s.campEnd n false = s
    ∧ s.campEnd n true = { s.setCamp n { k with count := k.count + 1 } with
        agenda := s.agenda ++ if k.posted then [] else [.event .watchdogExpiry 0 0 0 0 n] }
    ∧ (k.episode.isSome = true → p.state = pairOBS → k.budget ≠ 0 → k.budget.toNat ≤ k.count.toNat → ∃ x,
      stamped x 3 2 0 0 (List.replicate 224 0) ∧ exec .watchdogExpiry s = .next ((s.setPair np { p with state := pairENDED, reason := 2, act := [], obs := p.obs ++ [x] }).setCamp n
        { k with mip := k.mip ||| 0x10000 }))
    ∧ (k.count.toNat < k.budget.toNat ∨ k.budget = 0 → exec .watchdogExpiry s = .next s)

/-- R337 (RV64IMAFDC, which the manual cites and does not restate: all of this rests on log entry 12, PRESUMED, and cites no rule for its values): the
words of the base ISA, compressed ones among them, have their effect on the camp core and its local memory; an access outside local memory or the
windows traps with the address of the first byte that may not be accessed, an illegal word with its own bits (16 of a compressed one) where the core
gives them; x0 stays zero. -/
def Obligations.CampBaseInstructions : Prop :=
  ∀ (s : State) (rd rs1 rs2 rs3 : BitVec 5) (imm : BitVec 12),
    let n := s.cur.id
    let k := s.camp n
    let a := k.r rs1.toNat
    let b := k.r rs2.toNat
    let ea := a + imm.signExtend 64
    let word (op f3 hi : Nat) : BitVec 32 := BitVec.ofNat 32 (op + rd.toNat * 2 ^ 7 + f3 * 2 ^ 12 + rs1.toNat * 2 ^ 15 + hi)
    let goes (k' : Camp) (pc : W64) : State := s.setCamp n { k' with pc := pc, minstret := k.minstret + 1 }
    let next := k.pc + 4
    let runs (w : BitVec 32) (k' : Camp) : Prop := exec (.campCoreInstruction w) s = .next (goes k' next)
    let gives (w : BitVec 32) (v : W64) : Prop := runs w (k.setR rd.toNat v)
    let traps (w : BitVec 32) (cause tval : W64) : Prop := exec (.campCoreInstruction w) s = .next (s.setCamp n (k.trap cause tval))
    let illegal (w : BitVec 32) : Prop := traps w 2 (if Config.campTval = true then w.setWidth 64 else 0)
    let may (x : W64) (m : Nat) : Prop := k.allows k.dataUser x.toNat m = true ∧ x.toNat % m = 0
    let denied (x : W64) (m i : Nat) : Prop := i < m ∧ k.allows k.dataUser (x.toNat + i) 1 = false ∧ (∀ j < i, k.allows k.dataUser (x.toNat + j) 1 = true)
      ∧ x.toNat % m = 0
    let reg (f7 : Nat) : Nat := rs2.toNat * 2 ^ 20 + f7 * 2 ^ 25
    let word32 (v : BitVec 32) : W64 := v.signExtend 64
    let low (v : W64) : BitVec 32 := v.setWidth 32
    -- OP, OP-32 and the M operations
    (∀ p ∈ ([(0, 0, a + b), (0, 32, a - b), (1, 0, a <<< (b.toNat % 64)), (2, 0, if a.toInt < b.toInt then 1 else 0), (3, 0, if a.toNat < b.toNat then 1 else 0),
        (4, 0, a ^^^ b), (5, 0, a >>> (b.toNat % 64)), (5, 32, a.sshiftRight (b.toNat % 64)), (6, 0, a ||| b), (7, 0, a &&& b), (0, 1, a * b),
        (1, 1, BitVec.ofInt 64 (a.toInt * b.toInt / 2 ^ 64)), (2, 1, BitVec.ofInt 64 (a.toInt * b.toNat / 2 ^ 64)), (3, 1, BitVec.ofNat 64 (a.toNat * b.toNat / 2 ^ 64)),
        (4, 1, if b = 0 then -1 else a.sdiv b), (5, 1, if b = 0 then -1 else a / b), (6, 1, if b = 0 then a else a.srem b), (7, 1, if b = 0 then a else a % b)] :
        List (Nat × Nat × W64)), gives (word 0x33 p.1 (reg p.2.1)) p.2.2)
    ∧ (∀ p ∈ ([(0, 0, low a + low b), (0, 32, low a - low b), (1, 0, low a <<< (b.toNat % 32)), (5, 0, low a >>> (b.toNat % 32)),
        (5, 32, (low a).sshiftRight (b.toNat % 32)), (0, 1, low a * low b), (4, 1, if low b = 0 then -1 else (low a).sdiv (low b)),
        (5, 1, if low b = 0 then -1 else low a / low b), (6, 1, if low b = 0 then low a else (low a).srem (low b)),
        (7, 1, if low b = 0 then low a else low a % low b)] : List (Nat × Nat × BitVec 32)), gives (word 0x3B p.1 (reg p.2.1)) (word32 p.2.2))
    -- OP-IMM, LUI, AUIPC, FENCE
    ∧ (let i := imm.signExtend 64
      ∀ p ∈ ([(0, a + i), (2, if a.toInt < i.toInt then 1 else 0), (3, if a.toNat < i.toNat then 1 else 0), (4, a ^^^ i), (6, a ||| i), (7, a &&& i)] :
        List (Nat × W64)), gives (word 0x13 p.1 (imm.toNat * 2 ^ 20)) p.2)
    ∧ (∀ z < 64, gives (word 0x13 1 (z * 2 ^ 20)) (a <<< z) ∧ gives (word 0x13 5 (z * 2 ^ 20)) (a >>> z) ∧ gives (word 0x13 5 (z * 2 ^ 20 + 2 ^ 30)) (a.sshiftRight z))
    ∧ gives (word 0x1B 0 (imm.toNat * 2 ^ 20)) (word32 (low a + imm.signExtend 32))
    ∧ (∀ u : BitVec 20, let high : W64 := word32 (u.setWidth 32 <<< 12)
      gives (BitVec.ofNat 32 (0x37 + rd.toNat * 2 ^ 7 + u.toNat * 2 ^ 12)) high ∧ gives (BitVec.ofNat 32 (0x17 + rd.toNat * 2 ^ 7 + u.toNat * 2 ^ 12)) (k.pc + high))
    ∧ runs (word 0x0F 0 (imm.toNat * 2 ^ 20)) k
    -- jumps and branches
    ∧ exec (.campCoreInstruction (word 0x67 0 (imm.toNat * 2 ^ 20))) s = .next (goes (k.setR rd.toNat next) (ea &&& ~~~1#64))
    ∧ (∀ off : BitVec 21, off.toNat % 2 = 0 → let o := off.toNat
      exec (.campCoreInstruction (BitVec.ofNat 32 (0x6F + rd.toNat * 2 ^ 7 + o / 2 ^ 12 % 256 * 2 ^ 12 + o / 2 ^ 11 % 2 * 2 ^ 20 + o / 2 % 1024 * 2 ^ 21
        + o / 2 ^ 20 * 2 ^ 31))) s = .next (goes (k.setR rd.toNat next) (k.pc + off.signExtend 64)))
    ∧ (∀ off : BitVec 13, off.toNat % 2 = 0 → let o := off.toNat
      let w (f3 : Nat) : BitVec 32 := BitVec.ofNat 32 (0x63 + o / 2 ^ 11 % 2 * 2 ^ 7 + o / 2 % 16 * 2 ^ 8 + f3 * 2 ^ 12 + rs1.toNat * 2 ^ 15 + rs2.toNat * 2 ^ 20
        + o / 2 ^ 5 % 64 * 2 ^ 25 + o / 2 ^ 12 * 2 ^ 31)
      (∀ p ∈ [(0, decide (a = b)), (1, decide (a ≠ b)), (4, decide (a.toInt < b.toInt)), (5, decide (b.toInt ≤ a.toInt)), (6, decide (a.toNat < b.toNat)),
        (7, decide (b.toNat ≤ a.toNat))], exec (.campCoreInstruction (w p.1)) s = .next (goes k (if p.2 = true then k.pc + off.signExtend 64 else next)))
      ∧ illegal (w 2) ∧ illegal (w 3))
    -- loads and stores
    ∧ (∀ p ∈ [(0, 1), (1, 2), (2, 4), (3, 8), (4, 1), (5, 2), (6, 4)],
      let w := word 0x03 p.1 (imm.toNat * 2 ^ 20)
      let v := s.word (.camp n) ea.toNat p.2
      (may ea p.2 → gives w (if p.1 < 4 then (BitVec.ofNat (8 * p.2) v).signExtend 64 else BitVec.ofNat 64 v))
      ∧ (∀ i, denied ea p.2 i → traps w 5 (ea + BitVec.ofNat 64 i))
      ∧ (ea.toNat % p.2 ≠ 0 → Config.campMisaligned = false → traps w 4 ea))
    ∧ (∀ p ∈ [(0, 1), (1, 2), (2, 4), (3, 8)], imm.toNat % 32 = rd.toNat →
      let w := word 0x23 p.1 (reg (imm.toNat / 32))
      (may ea p.2 → Answers (.campCoreInstruction w) s fun u =>
        Stores s u (cellKey (.camp n) ea.toNat) (toBytes p.2 b.toNat) ∧ u.camp n = { k with pc := next, minstret := k.minstret + 1 })
      ∧ (∀ i, denied ea p.2 i → traps w 7 (ea + BitVec.ofNat 64 i))
      ∧ (ea.toNat % p.2 ≠ 0 → Config.campMisaligned = false → traps w 6 ea))
    -- LR, SC and the AMOs
    ∧ (∀ (wide : Bool) (q : Nat), q < 4 →
      let m := if wide then 8 else 4
      let w (f5 r2 : Nat) : BitVec 32 := word 0x2F (if wide then 3 else 2) (r2 * 2 ^ 20 + q * 2 ^ 25 + f5 * 2 ^ 27)
      let old := s.word (.camp n) a.toNat m
      let back : W64 := if wide then BitVec.ofNat 64 old else word32 (BitVec.ofNat 32 old)
      let become (size f5 : Nat) (x y : BitVec size) : BitVec size := match f5 with
        | 0 => x + y
        | 1 => y
        | 4 => x ^^^ y
        | 8 => x ||| y
        | 12 => x &&& y
        | 16 => if x.toInt ≤ y.toInt then x else y
        | 20 => if y.toInt ≤ x.toInt then x else y
        | 24 => if x.toNat ≤ y.toNat then x else y
        | _ => if y.toNat ≤ x.toNat then x else y
      let stores (f5 v : Nat) (k' : Camp) : Prop := Answers (.campCoreInstruction (w f5 rs2.toNat)) s fun u =>
        Stores s u (cellKey (.camp n) a.toNat) (toBytes m v) ∧ u.camp n = { k' with pc := next, minstret := k.minstret + 1 }
      (may a m → runs (w 2 0) { k.setR rd.toNat back with resv := some a.toNat }
        ∧ (k.resv = some a.toNat → stores 3 b.toNat { k.setR rd.toNat 0 with resv := none })
        ∧ (k.resv ≠ some a.toNat → runs (w 3 rs2.toNat) { k.setR rd.toNat 1 with resv := none })
        ∧ ∀ f5 ∈ [0, 1, 4, 8, 12, 16, 20, 24, 28], stores f5 (if wide then (become 64 f5 (BitVec.ofNat 64 old) b).toNat
          else (become 32 f5 (BitVec.ofNat 32 old) (low b)).toNat) (k.setR rd.toNat back))
      ∧ (a.toNat % m ≠ 0 → traps (w 2 0) 4 a ∧ ∀ f5 ∈ [0, 1, 3, 4, 8, 12, 16, 20, 24, 28], traps (w f5 rs2.toNat) 6 a))
    -- CSR instructions
    ∧ (let w (f3 c : Nat) : BitVec 32 := word 0x73 f3 (c * 2 ^ 20)
      let operand (f3 : Nat) : W64 := if 4 ≤ f3 then BitVec.ofNat 64 rs1.toNat else a
      let changes (c : Nat) (old : W64) (put : W64 → Camp) : Prop := ∀ f3 ∈ [1, 2, 3, 5, 6, 7],
        let v := if f3 % 4 = 1 then operand f3 else if f3 % 4 = 2 then old ||| operand f3 else old &&& ~~~operand f3
        runs (w f3 c) ((if f3 % 4 = 1 ∨ rs1 ≠ 0 then put v else k).setR rd.toNat old)
      (k.machine = true → changes 0x340 k.mscratch (fun v => { k with mscratch := v }) ∧ changes 0x341 k.mepc (fun v => { k with mepc := v &&& ~~~1#64 })
        ∧ changes 0x342 k.mcause (fun v => { k with mcause := v }) ∧ changes 0x343 k.mtval (fun v => { k with mtval := v })
        ∧ changes 0x305 k.mtvec (fun v => { k with mtvec := v &&& ~~~2#64 }) ∧ changes 0x304 k.mie (fun v => { k with mie := v &&& 0x10000#64 })
        ∧ changes 0x344 k.mip (fun v => { k with mip := k.mip &&& v }) ∧ changes 0x306 k.mcounteren (fun v => { k with mcounteren := v &&& 5#64 }))
      ∧ ∀ f3 ∈ [1, 2, 3, 5, 6, 7], (k.machine = false → ∀ c < 4096, c / 256 % 4 = 3 → illegal (w f3 c))
        ∧ (k.fpOn = false → ∀ c ∈ [1, 2, 3], illegal (w f3 c))
        ∧ (f3 % 4 = 1 ∨ rs1 ≠ 0 → illegal (w f3 0xC00) ∧ illegal (w f3 0xC02)))
    -- floating point
    ∧ (k.fpOn = true ↔ k.mstatus.getLsbD 13 = true ∨ k.mstatus.getLsbD 14 = true)
    ∧ (∀ (wide : Bool) (rm : Nat), rm < 8 →
      let d := if wide then 1 else 0
      let single (v : W64) : Nat := if v.toNat / 2 ^ 32 = 2 ^ 32 - 1 then v.toNat % 2 ^ 32 else 0x7FC00000
      let bits (r : Nat) : Nat := if wide then (k.fr r).toNat else single (k.fr r)
      let value (r : Nat) : FVal := decodeF (if wide then f64 else f32) (bits r)
      let boxed (v : Nat) : W64 := if wide then BitVec.ofNat 64 v else BitVec.ofNat 64 ((2 ^ 32 - 1) * 2 ^ 32 + v % 2 ^ 32)
      let lands (v : W64) (e : BitVec 5) : Camp :=
        { k with f := k.f.setIfInBounds rd.toNat v, fcsr := k.fcsr ||| e.setWidth 32, mstatus := k.mstatus ||| 0x6000 }
      let flags (fl : BitVec 7) : BitVec 5 := (BitVec.ofBool (fl.getLsbD 0)) ++ (BitVec.ofBool (fl.getLsbD 1)) ++ (BitVec.ofBool (fl.getLsbD 2))
        ++ (BitVec.ofBool (fl.getLsbD 3)) ++ (BitVec.ofBool (fl.getLsbD 4))
      let result (m : Rnd) (x : FVal × BitVec 7) : Camp :=
        if x.1.isNan = true then lands (boxed (if wide then 0x7FF8000000000000 else 0x7FC00000)) (flags x.2)
        else let z := roundV (if wide then f64 else f32) m x.1; lands (boxed z.1) (flags (x.2 ||| z.2))
      let mode : Option Rnd := match (if rm = 7 then k.fcsr.toNat / 32 % 8 else rm) with
        | 0 => some .rne
        | 1 => some .rtz
        | 2 => some .rdn
        | 3 => some .rup
        | 4 => some .rmm
        | _ => none
      let va := value rs1.toNat
      let vb := value rs2.toNat
      let vc := value rs3.toNat
      let op (f5 : Nat) : BitVec 32 := word 0x53 rm (reg (4 * f5 + d))
      let fused (c : Nat) : BitVec 32 := word c rm (reg (d + 4 * rs3.toNat))
      let sign := if wide then 2 ^ 63 else 2 ^ 31
      let fl (c : Nat) : BitVec 32 := word c (2 + d) (imm.toNat * 2 ^ 20)
      let size := if wide then 8 else 4
      (k.fpOn = true →
        (∀ m, mode = some m → runs (op 0) (result m (addV m va vb)) ∧ runs (op 1) (result m (addV m va vb.negate)) ∧ runs (op 2) (result m (mulV va vb))
          ∧ runs (op 3) (result m (divV va vb)) ∧ (rs2 = 0 → runs (op 11) (result m (sqrtV va)))
          ∧ runs (fused 0x43) (result m (fmaV m va vb vc)) ∧ runs (fused 0x47) (result m (fmaV m va vb vc.negate))
          ∧ runs (fused 0x4B) (result m (fmaV m va.negate vb vc)) ∧ runs (fused 0x4F) (result m (fmaV m va.negate vb vc.negate)))
        ∧ (mode = none → ∀ c ∈ [0x43, 0x47, 0x4B, 0x4F], illegal (fused c) ∧ ∀ f5 < 4, illegal (op f5))
        ∧ (∀ p ∈ [(0, bits rs2.toNat / sign), (1, 1 - bits rs2.toNat / sign), (2, (bits rs1.toNat / sign + bits rs2.toNat / sign) % 2)],
          rm = p.1 → runs (op 4) (lands (boxed (bits rs1.toNat % sign + p.2 * sign)) 0))
        ∧ (va.isFin = true → vb.isFin = true → ∀ p ∈ [(0, decide (va.rat ≤ vb.rat)), (1, decide (va.rat < vb.rat)), (2, decide (va.rat = vb.rat))], rm = p.1 →
          runs (op 20) { k.setR rd.toNat (if p.2 = true then 1 else 0) with mstatus := k.mstatus ||| 0x6000 })
        ∧ (va.isNan = true ∨ vb.isNan = true → rm < 2 →
          runs (op 20) { k.setR rd.toNat 0 with mstatus := k.mstatus ||| 0x6000, fcsr := k.fcsr ||| 16 })
        ∧ (may ea size → runs (fl 0x07) (lands (boxed (s.word (.camp n) ea.toNat size)) 0))
        ∧ (may ea size → imm.toNat % 32 = rd.toNat → Answers (.campCoreInstruction (word 0x27 (2 + d) (reg (imm.toNat / 32)))) s fun u =>
          Stores s u (cellKey (.camp n) ea.toNat) (toBytes size (k.fr rs2.toNat).toNat) ∧ u.camp n = { k with pc := next, minstret := k.minstret + 1 }))
      ∧ (k.fpOn = false → illegal (fl 0x07) ∧ illegal (fl 0x27) ∧ (∀ f5 < 32, illegal (op f5)) ∧ ∀ c ∈ [0x43, 0x47, 0x4B, 0x4F], illegal (fused c)))
    -- compressed instructions
    ∧ (let half (quadrant f3 rest : Nat) : BitVec 32 := BitVec.ofNat 32 (quadrant + f3 * 2 ^ 13 + rest)
      let after := k.pc + 2
      let short (w : BitVec 32) (k' : Camp) (pc : W64) : Prop := exec (.campCoreInstruction w) s = .next (goes k' pc)
      let r := rd.toNat
      (∀ i : BitVec 6, let fields := i.toNat % 32 * 2 ^ 2 + r * 2 ^ 7 + i.toNat / 32 * 2 ^ 12
        short (half 1 0 fields) (k.setR r (k.r r + i.signExtend 64)) after ∧ short (half 1 2 fields) (k.setR r (i.signExtend 64)) after
        ∧ (r ≠ 0 → short (half 1 1 fields) (k.setR r (word32 (low (k.r r) + i.signExtend 32))) after)
        ∧ (r ≠ 2 → i ≠ 0 → short (half 1 3 fields) (k.setR r (i.signExtend 64 <<< 12)) after)
        ∧ short (half 2 0 fields) (k.setR r (k.r r <<< i.toNat)) after)
      ∧ (rs2 ≠ 0 → short (half 2 4 (rs2.toNat * 2 ^ 2 + r * 2 ^ 7)) (k.setR r b) after
        ∧ short (half 2 4 (rs2.toNat * 2 ^ 2 + r * 2 ^ 7 + 2 ^ 12)) (k.setR r (k.r r + b)) after)
      ∧ (rs1 ≠ 0 → short (half 2 4 (rs1.toNat * 2 ^ 7)) k (a &&& ~~~1#64) ∧ short (half 2 4 (rs1.toNat * 2 ^ 7 + 2 ^ 12)) (k.setR 1 after) (a &&& ~~~1#64))
      ∧ (∀ off : BitVec 12, off.toNat % 2 = 0 → let o := off.toNat
        short (half 1 5 (o / 2 ^ 5 % 2 * 2 ^ 2 + o / 2 % 8 * 2 ^ 3 + o / 2 ^ 7 % 2 * 2 ^ 6 + o / 2 ^ 6 % 2 * 2 ^ 7 + o / 2 ^ 10 % 2 * 2 ^ 8 + o / 2 ^ 8 % 4 * 2 ^ 9
          + o / 2 ^ 4 % 2 * 2 ^ 11 + o / 2 ^ 11 * 2 ^ 12)) k (k.pc + off.signExtend 64))
      ∧ (∀ (off : BitVec 9) (x : BitVec 3), off.toNat % 2 = 0 → let o := off.toNat
        let fields := o / 2 ^ 5 % 2 * 2 ^ 2 + o / 2 % 4 * 2 ^ 3 + o / 2 ^ 6 % 4 * 2 ^ 5 + x.toNat * 2 ^ 7 + o / 2 ^ 3 % 4 * 2 ^ 10 + o / 2 ^ 8 * 2 ^ 12
        short (half 1 6 fields) k (if k.r (8 + x.toNat) = 0 then k.pc + off.signExtend 64 else after)
        ∧ short (half 1 7 fields) k (if k.r (8 + x.toNat) = 0 then after else k.pc + off.signExtend 64))
      ∧ (∀ o < 512, o % 8 = 0 → let at' := k.r 2 + BitVec.ofNat 64 o
        may at' 8 →
          (r ≠ 0 → short (half 2 3 (o / 2 ^ 6 * 2 ^ 2 + o / 2 ^ 3 % 4 * 2 ^ 5 + r * 2 ^ 7 + o / 2 ^ 5 % 2 * 2 ^ 12))
            (k.setR r (BitVec.ofNat 64 (s.word (.camp n) at'.toNat 8))) after)
          ∧ Answers (.campCoreInstruction (half 2 7 (rs2.toNat * 2 ^ 2 + o / 2 ^ 6 * 2 ^ 7 + o / 2 ^ 3 % 8 * 2 ^ 10))) s fun u =>
            Stores s u (cellKey (.camp n) at'.toNat) (toBytes 8 b.toNat) ∧ u.camp n = { k with pc := after, minstret := k.minstret + 1 })
      ∧ illegal (half 0 0 0)
      ∧ (k.fpOn = false → ∀ x < 2 ^ 11, ∀ p ∈ [(0, 1), (0, 5), (2, 1), (2, 5)], illegal (half p.1 p.2 (4 * x))))
    -- traps
    ∧ traps 0x00000073 (if k.machine = true then 11 else 8) 0
    ∧ traps 0x00100073 3 (if Config.campTval = true then k.pc else 0)
    ∧ (∃ v, exec (.campCoreInstruction 0x0000600B) s = .next (s.setCamp n (k.trap 2 v)))
    ∧ (k.machine = true → exec (.campCoreInstruction 0x30200073) s = .next (s.setCamp n { k.mret with minstret := k.minstret + 1 }))
    ∧ (k.machine = false → illegal 0x30200073)
    ∧ (goes (k.setR 0 (a + b)) next).camp n = { k with pc := next, minstret := k.minstret + 1 }

/-! ### The host -/

/-- R364 to R367: the latest claim of each master counts and the first opens the window, at whose end the highest priority owns, the lowest ID among
equals; the owner alone writes the other registers, hands over or releases; a doorbell submits CMD unless a command is busy, and without firmware
returns 0x11 (R372); every master reads the registers as R364 lays them out, write-only ones as zero (R6). The model's choices: the window of
Config.millisecond (log entry 4); CMD's layout, writes beside a register's start and a release to an absent master (28); what a refused firmware
leaves (37). -/
def Obligations.OwnershipAndControlBlock : Prop :=
  ∀ (s : State) (m succ : BitVec 8) (v : W64),
    let claimed : State := { s with
      claims := (s.claims.filter fun c => decide (c.1 ≠ m)) ++ [(m, s.priorityOf m, v)]
      election := some (s.election.getD (s.now + Config.millisecond)) }
    let prioritised : State := { s with claimPri := (s.claimPri.filter fun c => decide (c.1 ≠ m)) ++ [(m, v.setWidth 8)] }
    let handed : State := { s with owner := if succ ≠ 0xFF ∧ Config.masterPresent succ.toNat = true then some succ else none }
    let write (o : Nat) : Host.Outcome State Fault Refusal := exec (.controlBlockWrite m o v) s
    (s.owner = none → exec (.claim m v) s = .next claimed ∧ write 0x008 = .next claimed
      ∧ exec (.claimpri m v) s = .next prioritised ∧ write 0x010 = .next prioritised)
    ∧ (s.owner.isSome = true → exec (.claim m v) s = .next s ∧ exec (.claimpri m v) s = .next s ∧ write 0x008 = .next s ∧ write 0x010 = .next s)
    ∧ (∀ e, s.election = some e → s.now < e → exec .electionWindowEnd s = .next s)
    ∧ (∀ e, s.election = some e → e ≤ s.now → s.claims ≠ [] → ∃ c ∈ s.claims,
      (∀ d ∈ s.claims, d.2.1 < c.2.1 ∨ (d.2.1 = c.2.1 ∧ c.1 ≤ d.1))
        ∧ exec .electionWindowEnd s = .next { s with election := none, claims := [], owner := some c.1, nonce := c.2.2 })
    ∧ (s.owner = some m → exec (.ownerRelease m succ) s = .next handed ∧ (v.setWidth 8 = succ → write 0x018 = .next handed)
      ∧ write 0x048 = .next { s with fqcons := v.setWidth 32 } ∧ write 0x058 = .next { s with frcons := v.setWidth 32 }
      ∧ (∀ o, 0x100 ≤ o → o + 8 ≤ 0x140 → s.cmd.length = 64 → Answers (.controlBlockWrite m o v) s fun u => u.cmd.length = 64
        ∧ (∀ i < 8, u.cmd.getD (o - 0x100 + i) 0 = (v >>> (8 * i)).setWidth 8)
        ∧ (∀ i, i < o - 0x100 ∨ o - 0x100 + 8 ≤ i → u.cmd.getD i 0 = s.cmd.getD i 0) ∧ u.mem = s.mem ∧ u.owner = s.owner)
      ∧ (s.cmdRun.isSome = true → write 0x140 = .next s)
      ∧ (s.cmdRun = none → s.firmware = true → ∀ i, commandOf s.cmd = some i → Answers (.controlBlockWrite m 0x140 v) s fun u =>
        (∃ due, s.now < due ∧ u.cmdRun = some (due, i)) ∧ u.mem = s.mem ∧ u.ctxs = s.ctxs)
      ∧ (s.cmdRun = none → s.firmware = false ∨ commandOf s.cmd = none → write 0x140 = .next { s with
        cmdCode := BitVec.ofNat 8 (entryField s.cmd 0 8), cmdResult := if s.firmware = true then 0x10 else 0x11 }))
    ∧ (s.owner ≠ some m → exec (.ownerRelease m succ) s = .next s ∧ ∀ o, o ≠ 0x008 → o ≠ 0x010 → write o = .next s)
    ∧ (let own := s.controlBlock 0x000
      let dev := s.controlBlock 0x020
      let cmd := s.controlBlock 0x148
      own.toNat / 2 ^ 16 = 0 ∧ own.toNat / 2 ^ 8 % 256 = (s.owner.getD 0xFF).toNat ∧ own.toNat / 4 % 64 = 0
        ∧ own.getLsbD 1 = s.election.isSome ∧ own.getLsbD 0 = s.owner.isSome
        ∧ dev.getLsbD 0 = s.memready ∧ dev.getLsbD 1 = s.resetting ∧ dev.toNat / 4 = 0
        ∧ cmd.getLsbD 63 = s.cmdRun.isSome ∧ cmd.toNat / 2 ^ 8 % 256 = s.cmdCode.toNat ∧ cmd.toNat % 256 = s.cmdResult.toNat
        ∧ s.controlBlock 0x028 = s.nonce ∧ s.controlBlock 0x040 = s.fqprod.setWidth 64 ∧ s.controlBlock 0x048 = s.fqcons.setWidth 64
        ∧ s.controlBlock 0x050 = s.frprod.setWidth 64 ∧ s.controlBlock 0x058 = s.frcons.setWidth 64
        ∧ (∀ o, 0x100 ≤ o → o + 8 ≤ 0x140 → s.cmd.length = 64 → ∀ i < 8,
          (s.controlBlock o >>> (8 * i)).setWidth 8 = s.cmd.getD (o - 0x100 + i) 0)
        ∧ ∀ o ∈ [0x008, 0x010, 0x018, 0x140], s.controlBlock o = 0)

/-- R83, R295, R296, R367, R368, R372, R373: a refused image changes nothing but CMDSTAT and an accepted one stands in the code store; CONFIG takes a
well-formed configuration before the first START; START queues the first record at core 0; a camp image runs from its entry in machine mode when its
signature holds; a report begins with the nonce and ends with the signature over what stands before it, and its session key joins those that live.
The report's layout, a PSS salt of 32 bytes and what refused tables leave are log entry 37; that CONFIG is refused once a START was accepted is log
entry 29. -/
def Obligations.LoaderAndLaunch : Prop :=
  ∀ (s : State) (a n : Nat),
    let ends (t : State) (code r : Nat) : State := { t with cmdRun := none, cmdCode := BitVec.ofNat 8 code, cmdResult := BitVec.ofNat 8 r }
    let img := s.bytes .host a n
    let conf := s.bytes .host a 9472
    let size := entryField img 0x18 8
    (s.launch = none → exec (.loadImage a n) s = .next (ends s 1 0x10))
    ∧ (∀ c, s.launch = some c → c.asroot = 0 → exec (.loadImage a n) s = .next (ends s 1 0x10))
    ∧ (∀ c, s.launch = some c → c.asroot ≠ 0 → s.retiring ≠ [] → exec (.loadImage a n) s = .next s)
    ∧ (∀ c, s.launch = some c → c.asroot ≠ 0 → s.retiring = [] → imageRefusal img = 0 → s.tables = false → exec (.loadImage a n) s = .next (ends s 1 0x11))
    ∧ (∀ c, s.launch = some c → c.asroot ≠ 0 → s.retiring = [] → imageRefusal img = 0 → s.tables = true → s.placeImage c img = none →
      exec (.loadImage a n) s = .next (ends s 1 7))
    ∧ (∀ c, s.launch = some c → c.asroot ≠ 0 → s.retiring = [] → imageRefusal img ≠ 0 → exec (.loadImage a n) s = .next (ends s 1 (imageRefusal img)))
    ∧ (∀ c t, s.launch = some c → c.asroot ≠ 0 → s.retiring = [] → imageRefusal img = 0 → s.tables = true → s.placeImage c img = some t →
      exec (.loadImage a n) s = .next (ends t 1 0) ∧ t.image.isSome = true ∧ ∃ cb, t.codes = s.codes ++ [(cb, size)]
        ∧ ∀ i < size, t.byte .code (cb + i) = img.getD (entryField img 0x10 8 + i) 0)
    ∧ (s.noWork = true → configOk conf = true → exec (.config a) s =
        .next (ends { s with launch := some (launchOf conf), fqprod := 0, fqcons := 0, frprod := 0, frcons := 0 } 2 0))
    ∧ (s.noWork = false ∨ configOk conf = false → exec (.config a) s = .next (ends s 2 0x10))
    ∧ (s.started = true ∨ (∃ u, (∃ k ∈ s.ctxs, k.2.unit = some u) ∨ ∃ c ∈ s.cores, u ∈ c.2.ready) → exec (.config a) s = .next (ends s 2 0x10))
    ∧ (s.image = none ∨ s.launch = none → exec .start s = .next (ends s 3 0x10))
    ∧ (∀ im c, s.image = some im → s.launch = some c → s.pushRoom 0 = false ∨ s.clusterOn 0 = false → exec .start s = .next s)
    ∧ (∀ im c, s.image = some im → s.launch = some c → s.pushRoom 0 = true → s.clusterOn 0 = true → Answers .start s fun t => t.cmdResult = 0 ∧ t.started = true
        ∧ ∃ u ∈ t.queued 0, u.code = im.entry ∧ u.first = true ∧ u.prio = 0 ∧ u.jv = false ∧ u.handler = false ∧ u.scalar = false
          ∧ u.taskid.toNat = (s.recSeq.getD 0 0).toNat)
    ∧ (∀ die camp, die < 4 → camp < 32 → let bs := s.bytes .host a (Config.campImageSize a)
      (imageVerified bs = false → exec (.loadCamp die camp a) s = .next (ends s 8 0x11))
      ∧ (imageVerified bs = true → Answers (.loadCamp die camp a) s fun t => let k := t.camp (32 * die + camp)
        k.running = true ∧ k.machine = true ∧ k.episode = none ∧ k.pc = BitVec.ofNat 64 (Config.campEntry bs) ∧ k.digest = sha256 bs
          ∧ t.cmdResult = 0 ∧ t.ctxs = s.ctxs ∧ ∀ i < (Config.campPayload bs).length, i < 131072 →
            t.byte (.camp (32 * die + camp)) i = (Config.campPayload bs).getD i 0))
    ∧ (∀ die camp, 4 ≤ die ∨ 32 ≤ camp → exec (.loadCamp die camp a) s = .next (ends s 8 0x10))
    ∧ (∀ nonce : BitVec 256, let r := s.attestation nonce
      Answers (.attest nonce a) s fun t => t.sessions = s.sessions ++ [Config.sessionKey r] ∧ t.cmdResult = 0 ∧ t.ctxs = s.ctxs ∧ r.length = 512
        ∧ (∃ salt, salt.length = 32 ∧ r.drop 128 = pssSign s.identityKey.1 s.identityKey.2 (r.take 128) salt)
        ∧ ∀ i < 512, t.byte .host (a + i) = r.getD i 0 ∧ (i < 32 → t.byte .host (a + i) = (nonce >>> (8 * i)).setWidth 8))

/-- R123, R245, R301, R319 to R321, R327, R332, R343, R367, R368: SET_POLVER, RESUME, PREEMPT, KILL, FAULT_REPLY and RELEASE_SAVE act on what they name,
and answer invalid arguments where it is not there. A running unit that is killed stops at once with cause 0x0F and the caller's word, and its end
goes on as `TasksEndAndCount` says of `finishEnd`; a queued one that never ran leaves its queue, counts its join word down with k = 1 and leaves a
record. KILL waits while a retirement holds the unit's area. That RESUME and PREEMPT of a retained context begin the exit of its cluster is the
model's choice (log entry 32). -/
def Obligations.CommandsOnUnits : Prop :=
  ∀ (s : State) (core x die a : Nat) (ver : BitVec 16) (v : W64) (refused : Bool),
    let ends (t : State) (code r : Nat) : State := { t with cmdRun := none, cmdCode := BitVec.ofNat 8 code, cmdResult := BitVec.ofNat 8 r }
    let k := s.ctx core x
    let there : Prop := core < 256 ∧ x < 2
    let marked (u : WorkUnit) : Prop := ∃ w, u.saved = some w.addr ∧ s.saves.find? (fun z => decide (z.addr = w.addr)) = some w ∧ s.quiesced w.addr 64 = true
    (die < 4 → exec (.setPolver die ver) s = .next (ends { s with polver := s.polver.setIfInBounds die ver } 4 0))
    ∧ (4 ≤ die → exec (.setPolver die ver) s = .next (ends s 4 0x10))
    ∧ (there → k.state = .halted → exec (.resume core x) s = .next (ends (s.setCtx core x { k with state := .running }) 5 0))
    ∧ (∀ y c, there → k.state = .stopping y true c →
        exec (.resume core x) s = .next (ends (s.setCtx core x { k with state := .stopping y false c }) 5 0))
    ∧ (there → k.state = .retained true → s.powerOf (clusterOf core) = .retained → Answers (.resume core x) s fun t =>
        t.ctx core x = { k with state := .retained false } ∧ (∃ due, t.powerOf (clusterOf core) = .exiting due) ∧ t.mem = s.mem ∧ t.cmdResult = 0)
    ∧ (¬there ∨ (k.state ≠ .halted ∧ k.state ≠ .retained true ∧ ∀ y c, k.state ≠ .stopping y true c) →
        exec (.resume core x) s = .next (ends s 5 0x10))
    ∧ (∀ h, there → s.saveRoom core x = true → k.state = .retained h → s.powerOf (clusterOf core) = .retained →
        Answers (.preempt core x) s fun t => t.ctx core x = { k with state := .stopping false h (s.cycleOf core) }
          ∧ (∃ due, t.powerOf (clusterOf core) = .exiting due) ∧ t.mem = s.mem ∧ t.cmdResult = 0)
    ∧ (there → s.saveRoom core x = true → k.state = .running → k.unit.isSome = true →
        exec (.preempt core x) s = .next (ends (s.setCtx core x { k with leaving := true }) 7 0))
    ∧ (there → s.saveRoom core x = true → k.state = .halted → Answers (.preempt core x) s fun t =>
        (t.ctx core x).state = .stopping false true (s.cycleOf core) ∧ (t.ctx core x).unit = k.unit ∧ (t.ctx core x).strands = k.strands
          ∧ (t.ctx core x).sregs = k.sregs ∧ t.mem = s.mem ∧ t.cmdResult = 0)
    ∧ (there → s.saveRoom core x = false → exec (.preempt core x) s = .next (ends s 7 0))
    ∧ (¬there → exec (.preempt core x) s = .next (ends s 7 0x10))
    ∧ (∀ u, there → k.unit = some u → k.state = .running → ¬marked u → ∃ (m : State) (cause tepc : W64),
      exec (.kill (.context core x) v) s = .next (ends (m.finishEnd core x) 6 0)
        ∧ (m.ctx core x).state = .ending ⟨cause, v, tepc, 3, false⟩ false true (s.cycleOf core) ∧ cause.toNat % 256 = 0x0F
        ∧ (∀ t, k.strands = [t] → tepc = t.resumePc) ∧ (m.ctx core x).unit = some u ∧ (m.ctx core x).pend = []
        ∧ (m.ctx core x).strands = k.strands ∧ (m.ctx core x).sregs = k.sregs
        ∧ (∀ d ∈ (m.core core).cmds, d.x = x → d.state ≠ .waiting ∧ d.state ≠ .running))
    ∧ (∀ u, there → k.unit = some u → marked u → exec (.kill (.context core x) v) s = .next s)
    ∧ (∀ e c, s.allQueued.find? (fun e => decide (e.2.taskid = v)) = some e → e.2.saved = none → e.2.hasRun = false → e.2.isStep = false →
      s.launch = some c → s.recordRoom = true → ∀ why, Answers (.kill (.task v) why) s fun t => t.cmdResult = 0 ∧ t.frprod = s.frprod + 1
        ∧ t.ctxs = s.ctxs ∧ (e.2.ctl.getLsbD 30 = false → t.decs = s.decs)
        ∧ (e.2.ctl.getLsbD 30 = true → ∃ d, t.decs = s.decs ++ [d] ∧ d.addr = e.2.ctl.toNat % 2 ^ 28 ∧ d.f = false ∧ d.k = true)
        ∧ (let place := c.frbase + s.frprod.toNat % c.frcap * 64
          let word (o : Nat) : Nat := ofBytes (t.bytes .dev (place + o) 8)
          place + 64 ≤ deviceLimit → word 0 = v.toNat ∧ word 8 % 256 = 0x0F ∧ word 16 = why.toNat ∧ word 40 = 0))
    ∧ (¬there ∨ k.unit = none → exec (.kill (.context core x) v) s = .next (ends s 6 0x10))
    ∧ ((∀ e ∈ s.allQueued, e.2.taskid ≠ v) → exec (.kill (.task v) v) s = .next (ends s 6 0x10))
    ∧ ((∀ f ∈ s.openFaults, f.tag ≠ v) → exec (.faultReply v refused) s = .next (ends s 12 0))
    ∧ (∀ f w, s.openFaults.find? (fun f => decide (f.tag = v)) = some f → s.savedUnit f.core f.x f.gen = some w → s.quiesced w.addr w.size = true →
      exec (.faultReply v refused) s = .next s)
    ∧ (∀ f w tok, s.openFaults.find? (fun f => decide (f.tag = v)) = some f → s.savedUnit f.core f.x f.gen = some w → s.quiesced w.addr w.size = false →
      f.token = some tok → Answers (.faultReply v refused) s fun t => (∀ g ∈ t.openFaults, g.tag ≠ v) ∧ t.cmdResult = 0 ∧ t.ctxs = s.ctxs
        ∧ ∃ z ∈ t.saves, z.addr = w.addr ∧ z.ctx = { w.ctx with replyLog := w.ctx.replyLog ++ [(tok, refused)] })
    ∧ (∀ f tok c, s.openFaults.find? (fun f => decide (f.tag = v)) = some f → f.token = some tok → f.core = core → f.x = x →
      s.savedUnit core x f.gen = none → k.unit.isSome = true → k.gen = f.gen → k.state = .running → (s.core core).copyOf x tok = some c →
      Answers (.faultReply v refused) s fun t => (∀ g ∈ t.openFaults, g.tag ≠ v) ∧ t.cmdResult = 0 ∧ t.mem = s.mem ∧ t.ctxs = s.ctxs
        ∧ (refused = true → (t.core core).cmds.any (fun d => decide (d.id = c.id ∧ d.state = .running ∧ d.err = 2 ∧ d.faultTag = none)) = true)
        ∧ (refused = false → c.state = .parked →
          (t.core core).cmds.any (fun d => decide (d.id = c.id ∧ d.state = (if c.pos = 0 then .waiting else .stopped) ∧ d.page = none ∧ d.faultTag = none)) = true))
    ∧ ((∃ w ∈ s.saves, w.addr = a ∧ w.final = true) → exec (.releaseSave a) s =
        .next (ends { s with saves := s.saves.filter fun w => decide (w.addr ≠ a) } 13 0))
    ∧ ((∀ w ∈ s.saves, w.addr = a → w.final = false) → exec (.releaseSave a) s = .next (ends s 13 0x10))

/-- R370: a request starts the migration of a page unless the page is settled or has migrated four times in the window, which settles it in both
devices' tables and ends a migration that is under way; a migration waits until nothing pins the page and no copy holds its translation, and only
from then on do copies that translate it fault, until it stands at its new home; a settled page does not move, and is free again at its time. While
a pseudo-channel is being retired the page table stands still (R240). The model's choices (log entry 31): which requests count in the window, that
translations stand until the wait is over, and that SETTLED is written in both tables at one address. -/
def Obligations.PagesMigrate : Prop :=
  ∀ (s : State) (page dest : Nat),
    let ends (t : State) (r : Nat) : State := { t with cmdRun := none, cmdCode := 9, cmdResult := BitVec.ofNat 8 r }
    (s.retiring ≠ [] → exec (.migrate page dest) s = .next s ∧ exec (.migrationComplete page) s = .next s ∧ exec (.settleExpiry page) s = .next s)
    ∧ (s.retiring = [] → s.pageOf page = none ∨ 256 ≤ dest → exec (.migrate page dest) s = .next (ends s 0x10))
    ∧ (∀ m, s.retiring = [] → s.pageOf page = some m → dest < 256 →
      let recent := s.migrated.filter fun p => decide (p.1 = m.vbase ∧ s.now < p.2 + migrationWindow)
      (s.isSettled m.vbase = true → exec (.migrate page dest) s = .next (ends s 0x12))
      ∧ (s.isSettled m.vbase = false → 4 ≤ recent.length →
        let shown := ({ s with
          settled := s.settled ++ [(m.vbase, s.now + settleTime, m.otherDevice dest)]
          migrating := s.migrating.filter fun p => decide (p.1 ≠ m.vbase) } : State).showSettled m.vbase (m.otherDevice dest) true
        exec (.migrate page dest) s = .next (ends
          ((shown.openFaults.filter (shown.waitsFor m)).foldl (fun u f => u.answerFault f false) shown) 0x12))
      ∧ (s.isSettled m.vbase = false → recent.length < 4 → exec (.migrate page dest) s = .next (ends { s with
          migrating := (s.migrating.filter fun p => decide (p.1 ≠ m.vbase)) ++ [(m.vbase, dest, none)]
          migrated := s.migrated ++ [(m.vbase, s.now)] } 0)))
    ∧ (s.isSettled page = true → exec (.migrationComplete page) s = .next s)
    ∧ (s.isSettled page = true ↔ ∃ p ∈ s.settled, p.1 = page ∧ s.now < p.2.1)
    ∧ (∀ g m, s.retiring = [] → s.isSettled page = false → s.migrating.find? (fun p => decide (p.1 = page)) = some g → s.pageOf page = some m →
      (g.2.2 = none → s.pins m = true ∨ s.pageInUse m = true → exec (.migrationComplete page) s = .next s)
      ∧ (g.2.2 = none → s.pins m = false → s.pageInUse m = false → Answers (.migrationComplete page) s fun t => t.mem = s.mem ∧ t.cores = s.cores
        ∧ ∃ due, s.now < due ∧ t.migrating = s.migrating.map fun p => if p.1 = page then (page, p.2.1, some due) else p)
      ∧ (∀ due, g.2.2 = some due → s.now < due ∨ s.pins m = true → exec (.migrationComplete page) s = .next s)
      ∧ (∀ due r o, g.2.2 = some due → due ≤ s.now → s.pins m = false → s.migrationPlace m g.2.1 = some (r, o) →
        exec (.migrationComplete page) s = .next (s.movePage m r o g.2.1)
          ∧ (s.movePage m r o g.2.1).migrating = s.migrating.filter fun q => decide (q.1 ≠ m.vbase)))
    ∧ (∀ va m, s.pageOf va = some m → s.walk va =
        if (s.migrating.any fun q => decide (q.1 = m.vbase) && q.2.2.isSome) = true then none else some m)
    ∧ (∀ p, s.retiring = [] → s.settled.find? (fun p => decide (p.1 = page ∧ p.2.1 ≤ s.now)) = some p → exec (.settleExpiry page) s =
        .next (({ s with settled := s.settled.filter fun q => decide (q.1 ≠ page) } : State).showSettled page p.2.2 false))
    ∧ ((∀ p ∈ s.settled, p.1 = page → s.now < p.2.1) → exec (.settleExpiry page) s = .next s)

/-- R240, R363, R374: a reset clears the device and its stores and keeps the memories outside it, a warm one device memory too; until MEMREADY, and
beyond the window, the host's accesses complete with Unsupported Request; a retired pseudo-channel's accesses wait, in their order of arrival, for
the first spare of its stack that serves no other. The model's choices: device memory reads 0 after a cold reset (log entry 1); Unsupported Request
beyond the window (28); what a reset keeps beside that (30); accesses that wait for a spare (32). -/
def Obligations.ResetsAndHostAccesses : Prop :=
  ∀ (s : State) (strap : BitVec 1) (pa len : Nat) (bs : List Byte) (stack pc : Nat),
    let cleared (t : State) : Prop := t.ctxs = [] ∧ t.cores = [] ∧ t.pairs = [] ∧ t.camps = [] ∧ t.polver = Vector.replicate 4 0 ∧ t.owner = none
      ∧ t.memready = false ∧ t.resetting = true ∧ t.sessions = [] ∧ t.identityKey = s.identityKey
      ∧ (∀ n a, a < 2 ^ 64 → n < 256 → t.byte (.scratch n) a = 0 ∧ t.byte (.acc n) a = 0 ∧ t.byte (.fe n) a = 0 ∧ (n < 8 → t.byte (.pool n) a = 0)
        ∧ (n < 128 → t.byte (.camp n) a = 0))
      ∧ ∀ a < 2 ^ 64, t.byte .host a = s.byte .host a ∧ t.byte .cxl a = s.byte .cxl a ∧ ∀ n, t.byte (.peer n) a = s.byte (.peer n) a
    Answers (.coldReset strap) s (fun t => cleared t ∧ t.strap = strap ∧ ∀ a < 2 ^ 64, t.byte .dev a = 0)
    ∧ Answers .warmReset s (fun t => cleared t ∧ t.strap = s.strap ∧ ∀ a < 2 ^ 64, t.byte .dev a = s.byte .dev a)
    ∧ exec .memready s = .next { s with memready := true, resetting := false }
    ∧ (let d := s.dropInput (.hostBar2Access pa none len)
      (s.memready = false ∨ deviceLimit < pa + len →
        exec (.hostBar2Access pa none len) s = .next { d with hostReads := s.hostReads ++ [none] })
      ∧ (s.memready = true → pa + len ≤ deviceLimit → s.quiesced pa len = false →
        exec (.hostBar2Access pa none len) s = .next { d with hostReads := s.hostReads ++ [some (s.bytes .dev pa len)] })
      ∧ ∀ e, s.inputs.find? (fun e => decide (e.1 ≤ s.now ∧ e.2 = Instr.hostBar2Access pa none len)) = some e →
        d = { s with inputs := s.inputs.erase e })
    ∧ (s.memready = true → pa + bs.length ≤ deviceLimit → s.quiesced pa bs.length = false → Answers (.hostBar2Access pa (some bs) len) s fun t =>
      (∀ i < bs.length, t.byte .dev (pa + i) = bs.getD i 0) ∧ (∀ i, i < pa ∨ pa + bs.length ≤ i → i < deviceLimit → t.byte .dev i = s.byte .dev i)
        ∧ t.ctxs = s.ctxs ∧ t.hostReads = s.hostReads)
    ∧ (s.memready = true → pa + len ≤ deviceLimit → s.quiesced pa len = true →
      exec (.hostBar2Access pa none len) s = .next s)
    ∧ (stack < 24 → pc < 256 → (stack, pc) ∉ s.retiring → (s.spareOf stack).isSome = true →
      exec (.pseudoChannelRetire stack pc) s = .next { s with retiring := s.retiring ++ [(stack, pc)] })
    ∧ (∀ i, s.spareOf stack = some i → i < 8 ∧ (∀ q ∈ s.repaired ++ s.fusedRepairs, q.1 = stack → q.2.2 ≠ i)
      ∧ ∀ j < i, ∃ q ∈ s.repaired ++ s.fusedRepairs, q.1 = stack ∧ q.2.2 = j)
    ∧ (s.spareOf stack = none → exec (.pseudoChannelRetire stack pc) s = .next s)
    ∧ (let d := s.dropInput (.retirementSwitch stack pc)
      (s.spareOf stack = none ∨ (stack, pc) ∉ s.retiring → exec (.retirementSwitch stack pc) s = .next d)
      ∧ ∀ i, s.spareOf stack = some i → (stack, pc) ∈ s.retiring → exec (.retirementSwitch stack pc) s = .next { d with
        retiring := s.retiring.filter fun q => decide (q ≠ (stack, pc))
        repaired := (s.repaired.filter fun q => !decide (q.1 = stack ∧ q.2.1 = pc)) ++ [(stack, pc, i)] })

/-- R335, R355, R358 to R362: cadence, backstop, monitor and alerts; retention stops a cluster's contexts, which run on at its exit with RETENTION_LOSS
where a parity failed; an idle cluster is gated when nothing is on its way to it, and wakes with its stores and registers cleared. The model's
choices: the envelope by ten reports that are ten apart and the hold of Config.millisecond (log entry 4); whether a droop costs a reference cycle
(17); a wake that keeps the slot generations and sets MXCAD to 1 (32). -/
def Obligations.ClocksPowerAndRetention : Prop :=
  ∀ (s : State) (core v mw die sensor threshold domain cluster : Nat) (up : Bool),
    let k := s.core core
    (core < 256 → 1 ≤ v → v ≤ 16 → k.cadHold = none ∨ v = 16 →
      exec (.mxcadWrite core v) s = .next (s.setCore core { k with mxcad := BitVec.ofNat 5 v }))
    ∧ (256 ≤ core ∨ v = 0 ∨ 16 < v ∨ (k.cadHold.isSome = true ∧ v < 16) → exec (.mxcadWrite core v) s = .next s)
    ∧ Answers (.powerMonitorReport mw) s (fun t => t.notices = s.notices ++ [.power mw] ∧ t.supply = (mw :: s.supply).take 91
      ∧ t.agenda = (if t.overEnvelope = true then [.event .powerBackstop 0 0 0 0 0] else []) ++ s.agenda ∧ t.mem = s.mem ∧ t.ctxs = s.ctxs)
    ∧ (s.overEnvelope = true ↔ s.supply.length = 91 ∧ 36000000 ≤ ([0, 10, 20, 30, 40, 50, 60, 70, 80, 90].map fun i => s.supply.getD i 0).sum)
    ∧ (die < 4 → sensor < 16 → threshold = 95 ∨ threshold = 100 → exec (.thermalAlert die sensor threshold up) s =
      .next { s with notices := s.notices ++ [.thermal die sensor threshold up] })
    ∧ (4 ≤ die ∨ 16 ≤ sensor ∨ (threshold ≠ 95 ∧ threshold ≠ 100) → exec (.thermalAlert die sensor threshold up) s = .next s)
    ∧ (s.overEnvelope = false → s.overheated = false → exec .powerBackstop s = .next s)
    ∧ (s.overEnvelope = true ∨ s.overheated = true → Answers .powerBackstop s fun t => t.mem = s.mem ∧ t.ctxs = s.ctxs
      ∧ ∀ c < 256, t.core c = { s.core c with mxcad := 16, cadHold := some (s.now + Config.millisecond) })
    ∧ (∀ e, k.cadHold = some e →
      (e ≤ s.now → exec (.backstopHoldEnd core) s = .next (s.setCore core { k with cadHold := none }))
      ∧ (s.now < e → exec (.backstopHoldEnd core) s = .next s))
    ∧ (256 ≤ core ∨ k.pinned = true ∨ 3 < domain → exec (.supplyDroop core domain) s = .next s)
    ∧ (core < 256 → k.pinned = false → domain ≤ 3 → Answers (.supplyDroop core domain) s fun t => t.mem = s.mem ∧ t.ctxs = s.ctxs
      ∧ (t.core core = k ∨ t.core core = { k with droops := k.droops ||| BitVec.ofNat 4 (2 ^ domain) }))
    ∧ (s.powerOf cluster = .on → Answers (.retentionEntry cluster) s fun t =>
      (t.powerOf cluster = .entering ∨ t.powerOf cluster = .retained) ∧ t.mem = s.mem
        ∧ ∀ c x, c < 256 → x < 2 → clusterOf c = cluster → (s.ctx c x).running = true → (t.ctx c x).state = .retained false
          ∧ (t.ctx c x).sregs = (s.ctx c x).sregs ∧ (t.ctx c x).strands = (s.ctx c x).strands)
    ∧ (∀ due, s.powerOf cluster = .exiting due → due ≤ s.now → Answers (.retentionExit cluster []) s fun t => t.powerOf cluster = .on
      ∧ t.mem = s.mem ∧ ∀ c x, c < 256 → x < 2 → clusterOf c = cluster →
        ((s.ctx c x).state = .retained false → t.ctx c x = { s.ctx c x with state := .starting s.now })
        ∧ ((s.ctx c x).state = .retained true → t.ctx c x = { s.ctx c x with state := .halted }))
    ∧ (∀ due lost, s.powerOf cluster = .exiting due → due ≤ s.now → lost ≠ 0 → core < 256 → clusterOf core = cluster →
      (s.ctx core 0).state = .retained false → Answers (.retentionExit cluster [(core, 0, lost)]) s fun t =>
        ⟨causeRETENTION, lost.setWidth 64, 7, s.now⟩ ∈ (t.ctx core 0).posted)
    ∧ (s.powerOf cluster = .on → (s.gateable cluster = false → exec (.clusterGate cluster) s = .next s)
      ∧ (s.gateable cluster = true → Answers (.clusterGate cluster) s fun t => t.ctxs = s.ctxs ∧ t.mem = s.mem
        ∧ t.powerOf cluster = if s.flying cluster = 0 then .gated else .gating))
    ∧ (s.powerOf cluster = .gating → s.gateable cluster = false ∨ s.reachedNow cluster = true → Answers (.clusterGate cluster) s fun t =>
      t.powerOf cluster = .on ∧ t.ctxs = s.ctxs ∧ t.mem = s.mem)
    ∧ (s.powerOf cluster = .gating → s.gateable cluster = true → s.reachedNow cluster = false → Answers (.clusterGate cluster) s fun t =>
      t.powerOf cluster = (if s.flying cluster = 0 then .gated else .gating) ∧ t.ctxs = s.ctxs ∧ t.mem = s.mem)
    ∧ (∀ due, s.powerOf cluster = .waking due → due ≤ s.now → Answers (.clusterWake cluster) s fun t => t.powerOf cluster = .on
      ∧ ∀ c < 256, clusterOf c = cluster → (∀ a < 2 ^ 64, t.byte (.scratch c) a = 0 ∧ t.byte (.acc c) a = 0 ∧ t.byte (.fe c) a = 0)
        ∧ (∀ x < 2, (t.ctx c x).state = .free ∧ (t.ctx c x).unit = none ∧ (∀ n, (t.ctx c x).s n = 0) ∧ (t.ctx c x).slotGen = (s.ctx c x).slotGen)
        ∧ (t.core c).mxcad = 1)
end

