-- ==== Sys2Proof/Laws/Encoding.lean ====
section
/-!
SUPPORT. The encoding's round trips: the fields of every operation format (R50, R52 to R63) and bits [47:0] of a word give each other back.
-/

namespace Sys2Proof

open Sys2Proof.Machine

/-- Fields of given widths, the first one highest, as one number. -/
def pack : List (Nat × Nat) → Nat
  | [] => 0
  | (_, v) :: r => v * 2 ^ ((r.map Prod.fst).sum) + pack r

/-- Fields within their widths make a number within the sum of the widths. -/
theorem pack_lt (l : List (Nat × Nat)) (h : ∀ e ∈ l, e.2 < 2 ^ e.1) : pack l < 2 ^ (l.map Prod.fst).sum := by
  induction l with
  | nil => simp [pack]
  | cons e r ih =>
    obtain ⟨w, v⟩ := e
    have h1 : v < 2 ^ w := h (w, v) (by simp)
    have h2 := ih fun e he => h e (List.mem_cons_of_mem _ he)
    simp only [pack, List.map_cons, List.sum_cons, Nat.pow_add]
    calc v * 2 ^ (r.map Prod.fst).sum + pack r < v * 2 ^ (r.map Prod.fst).sum + 2 ^ (r.map Prod.fst).sum := by omega
      _ = (v + 1) * 2 ^ (r.map Prod.fst).sum := by rw [Nat.add_mul, Nat.one_mul]
      _ ≤ 2 ^ w * 2 ^ (r.map Prod.fst).sum := Nat.mul_le_mul_right _ h1

/-- A field is cut out of the number at the sum of the widths below it. -/
theorem pack_get (l : List (Nat × Nat)) (h : ∀ e ∈ l, e.2 < 2 ^ e.1) (a : List (Nat × Nat)) (w v : Nat) (r : List (Nat × Nat))
    (hl : l = a ++ (w, v) :: r) : pack l / 2 ^ (r.map Prod.fst).sum % 2 ^ w = v := by
  subst hl
  induction a with
  | nil =>
    have h1 : v < 2 ^ w := h (w, v) (by simp)
    have h2 := pack_lt r fun e he => h e (by simp [he])
    simp only [List.nil_append, pack]
    rw [Nat.add_comm, Nat.add_mul_div_right _ _ (Nat.two_pow_pos _), Nat.div_eq_of_lt h2, Nat.zero_add, Nat.mod_eq_of_lt h1]
  | cons e a ih =>
    obtain ⟨w', v'⟩ := e
    have := ih fun e he => h e (by simp at he ⊢; right; exact he)
    have e1 : ((a ++ (w, v) :: r).map Prod.fst).sum = (a.map Prod.fst).sum + w + (r.map Prod.fst).sum := by simp; omega
    have e2 : v' * 2 ^ ((a.map Prod.fst).sum + w + (r.map Prod.fst).sum)
        = v' * 2 ^ (a.map Prod.fst).sum * 2 ^ w * 2 ^ (r.map Prod.fst).sum := by
      rw [Nat.pow_add, Nat.pow_add, ← Nat.mul_assoc, ← Nat.mul_assoc]
    simp only [List.cons_append, pack, e1, e2]
    rw [Nat.add_comm, Nat.add_mul_div_right _ _ (Nat.two_pow_pos _), Nat.add_mul_mod_self_right]
    exact this

/-- The same of a field at a position of the list. -/
theorem field_pack {w : Nat} (l : List (Nat × Nat)) (n : Nat) (h : ∀ e ∈ l, e.2 < 2 ^ e.1) (hn : (l.map Prod.fst).sum = n)
    (x : BitVec w) (i lo : Nat) (hi : l[i]? = some (w, x.toNat)) (hlo : ((l.drop (i + 1)).map Prod.fst).sum = lo) :
    field (BitVec.ofNat n (pack l)) lo w = x := by
  apply BitVec.eq_of_toNat_eq
  have h1 := pack_lt l h
  rw [hn] at h1
  subst hlo
  simp only [field, BitVec.toNat_ofNat, Nat.mod_eq_of_lt h1]
  obtain ⟨hi1, hi2⟩ := List.getElem?_eq_some_iff.1 hi
  refine pack_get l h (l.take i) w x.toNat _ ?_
  rw [← hi2, List.getElem_cons_drop, List.take_append_drop]

/-- The fields of given widths that a number holds, the first one highest. -/
def unpack (b : Nat) : List Nat → List (Nat × Nat)
  | [] => []
  | w :: r => (w, b / 2 ^ r.sum % 2 ^ w) :: unpack b r

/-- The widths of a number's fields are the ones asked for. -/
theorem unpack_widths (b : Nat) (ws : List Nat) : (unpack b ws).map Prod.fst = ws := by
  induction ws with
  | nil => rfl
  | cons w r ih => simp [unpack, ih]

/-- Packing the fields of 48 bits gives the 48 bits. -/
theorem pack_unpack (b : Nat) (ws : List Nat) : pack (unpack b ws) = b % 2 ^ ws.sum := by
  induction ws with
  | nil => simp [pack, unpack, Nat.mod_one]
  | cons w r ih =>
    simp only [unpack, pack, ih, unpack_widths, List.sum_cons]
    rw [Nat.add_comm w, Nat.pow_add, Nat.mod_mul, Nat.add_comm, Nat.mul_comm]

/-- Bits [47:0] of 48 bits are the 48 bits. -/
theorem ofNat_mod_48 (b : BitVec 48) : BitVec.ofNat 48 (b.toNat % 2 ^ 48) = b := by
  rw [Nat.mod_eq_of_lt b.isLt, BitVec.ofNat_toNat, BitVec.setWidth_eq]

def SQ.fields (f : SQ) : List (Nat × Nat) :=
  [(2, f.cq.toNat), (3, f.lvl.toNat), (6, f.reg.toNat), (5, f.imm5.toNat), (32, f.off.toNat)]

theorem SQ.toBits_eq (f : SQ) : f.toBits = BitVec.ofNat 48 (pack f.fields) := by
  simp only [SQ.toBits, SQ.fields, pack, List.map_cons, List.map_nil, List.sum_cons, List.sum_nil, Nat.reduceAdd, Nat.reducePow,
    Nat.mul_one, Nat.add_zero, Nat.add_assoc]

theorem SQ.fields_lt (f : SQ) : ∀ e ∈ f.fields, e.2 < 2 ^ e.1 := by
  unfold SQ.fields
  simp only [List.forall_mem_cons, BitVec.isLt, true_and]
  simp

@[simp] theorem SQ.ofBits_toBits (f : SQ) : SQ.ofBits f.toBits = f := by
  have hp := @fun w => @field_pack w f.fields 48 f.fields_lt (by simp [SQ.fields])
  rw [SQ.toBits_eq]
  simp only [SQ.ofBits,
    hp _ f.cq 0 46 rfl (by simp [SQ.fields]),
    hp _ f.lvl 1 43 rfl (by simp [SQ.fields]),
    hp _ f.reg 2 37 rfl (by simp [SQ.fields]),
    hp _ f.imm5 3 32 rfl (by simp [SQ.fields]),
    hp _ f.off 4 0 rfl (by simp [SQ.fields])]

@[simp] theorem SQ.toBits_ofBits (b : BitVec 48) : (SQ.ofBits b).toBits = b := by
  have h : (SQ.ofBits b).fields = unpack b.toNat [2, 3, 6, 5, 32] := by
    simp only [SQ.fields, SQ.ofBits, unpack, field, BitVec.toNat_ofNat, List.sum_cons, List.sum_nil, Nat.reduceAdd]
  rw [SQ.toBits_eq, h, pack_unpack]
  exact ofNat_mod_48 b

def SLoopi.fields (f : SLoopi) : List (Nat × Nat) :=
  [(2, f.cq.toNat), (3, f.lvl.toNat), (11, f.trip.toNat), (32, f.off.toNat)]

theorem SLoopi.toBits_eq (f : SLoopi) : f.toBits = BitVec.ofNat 48 (pack f.fields) := by
  simp only [SLoopi.toBits, SLoopi.fields, pack, List.map_cons, List.map_nil, List.sum_cons, List.sum_nil, Nat.reduceAdd, Nat.reducePow,
    Nat.mul_one, Nat.add_zero, Nat.add_assoc]

theorem SLoopi.fields_lt (f : SLoopi) : ∀ e ∈ f.fields, e.2 < 2 ^ e.1 := by
  unfold SLoopi.fields
  simp only [List.forall_mem_cons, BitVec.isLt, true_and]
  simp

@[simp] theorem SLoopi.ofBits_toBits (f : SLoopi) : SLoopi.ofBits f.toBits = f := by
  have hp := @fun w => @field_pack w f.fields 48 f.fields_lt (by simp [SLoopi.fields])
  rw [SLoopi.toBits_eq]
  simp only [SLoopi.ofBits,
    hp _ f.cq 0 46 rfl (by simp [SLoopi.fields]),
    hp _ f.lvl 1 43 rfl (by simp [SLoopi.fields]),
    hp _ f.trip 2 32 rfl (by simp [SLoopi.fields]),
    hp _ f.off 3 0 rfl (by simp [SLoopi.fields])]

@[simp] theorem SLoopi.toBits_ofBits (b : BitVec 48) : (SLoopi.ofBits b).toBits = b := by
  have h : (SLoopi.ofBits b).fields = unpack b.toNat [2, 3, 11, 32] := by
    simp only [SLoopi.fields, SLoopi.ofBits, unpack, field, BitVec.toNat_ofNat, List.sum_cons, List.sum_nil, Nat.reduceAdd]
  rw [SLoopi.toBits_eq, h, pack_unpack]
  exact ofNat_mod_48 b

def SRep.fields (f : SRep) : List (Nat × Nat) :=
  [(6, f.cnt.toNat), (6, f.step.toNat), (36, f.rsv.toNat)]

theorem SRep.toBits_eq (f : SRep) : f.toBits = BitVec.ofNat 48 (pack f.fields) := by
  simp only [SRep.toBits, SRep.fields, pack, List.map_cons, List.map_nil, List.sum_cons, List.sum_nil, Nat.reduceAdd, Nat.reducePow,
    Nat.mul_one, Nat.add_zero, Nat.add_assoc]

theorem SRep.fields_lt (f : SRep) : ∀ e ∈ f.fields, e.2 < 2 ^ e.1 := by
  unfold SRep.fields
  simp only [List.forall_mem_cons, BitVec.isLt, true_and]
  simp

@[simp] theorem SRep.ofBits_toBits (f : SRep) : SRep.ofBits f.toBits = f := by
  have hp := @fun w => @field_pack w f.fields 48 f.fields_lt (by simp [SRep.fields])
  rw [SRep.toBits_eq]
  simp only [SRep.ofBits,
    hp _ f.cnt 0 42 rfl (by simp [SRep.fields]),
    hp _ f.step 1 36 rfl (by simp [SRep.fields]),
    hp _ f.rsv 2 0 rfl (by simp [SRep.fields])]

@[simp] theorem SRep.toBits_ofBits (b : BitVec 48) : (SRep.ofBits b).toBits = b := by
  have h : (SRep.ofBits b).fields = unpack b.toNat [6, 6, 36] := by
    simp only [SRep.fields, SRep.ofBits, unpack, field, BitVec.toNat_ofNat, List.sum_cons, List.sum_nil, Nat.reduceAdd]
  rw [SRep.toBits_eq, h, pack_unpack]
  exact ofNat_mod_48 b

def SR.fields (f : SR) : List (Nat × Nat) :=
  [(6, f.d.toNat), (6, f.a.toNat), (6, f.b.toNat), (6, f.c.toNat), (4, f.cc.toNat), (20, f.rsv.toNat)]

theorem SR.toBits_eq (f : SR) : f.toBits = BitVec.ofNat 48 (pack f.fields) := by
  simp only [SR.toBits, SR.fields, pack, List.map_cons, List.map_nil, List.sum_cons, List.sum_nil, Nat.reduceAdd, Nat.reducePow,
    Nat.mul_one, Nat.add_zero, Nat.add_assoc]

theorem SR.fields_lt (f : SR) : ∀ e ∈ f.fields, e.2 < 2 ^ e.1 := by
  unfold SR.fields
  simp only [List.forall_mem_cons, BitVec.isLt, true_and]
  simp

@[simp] theorem SR.ofBits_toBits (f : SR) : SR.ofBits f.toBits = f := by
  have hp := @fun w => @field_pack w f.fields 48 f.fields_lt (by simp [SR.fields])
  rw [SR.toBits_eq]
  simp only [SR.ofBits,
    hp _ f.d 0 42 rfl (by simp [SR.fields]),
    hp _ f.a 1 36 rfl (by simp [SR.fields]),
    hp _ f.b 2 30 rfl (by simp [SR.fields]),
    hp _ f.c 3 24 rfl (by simp [SR.fields]),
    hp _ f.cc 4 20 rfl (by simp [SR.fields]),
    hp _ f.rsv 5 0 rfl (by simp [SR.fields])]

@[simp] theorem SR.toBits_ofBits (b : BitVec 48) : (SR.ofBits b).toBits = b := by
  have h : (SR.ofBits b).fields = unpack b.toNat [6, 6, 6, 6, 4, 20] := by
    simp only [SR.fields, SR.ofBits, unpack, field, BitVec.toNat_ofNat, List.sum_cons, List.sum_nil, Nat.reduceAdd]
  rw [SR.toBits_eq, h, pack_unpack]
  exact ofNat_mod_48 b

def SI.fields (f : SI) : List (Nat × Nat) :=
  [(6, f.d.toNat), (6, f.a.toNat), (36, f.imm.toNat)]

theorem SI.toBits_eq (f : SI) : f.toBits = BitVec.ofNat 48 (pack f.fields) := by
  simp only [SI.toBits, SI.fields, pack, List.map_cons, List.map_nil, List.sum_cons, List.sum_nil, Nat.reduceAdd, Nat.reducePow,
    Nat.mul_one, Nat.add_zero, Nat.add_assoc]

theorem SI.fields_lt (f : SI) : ∀ e ∈ f.fields, e.2 < 2 ^ e.1 := by
  unfold SI.fields
  simp only [List.forall_mem_cons, BitVec.isLt, true_and]
  simp

@[simp] theorem SI.ofBits_toBits (f : SI) : SI.ofBits f.toBits = f := by
  have hp := @fun w => @field_pack w f.fields 48 f.fields_lt (by simp [SI.fields])
  rw [SI.toBits_eq]
  simp only [SI.ofBits,
    hp _ f.d 0 42 rfl (by simp [SI.fields]),
    hp _ f.a 1 36 rfl (by simp [SI.fields]),
    hp _ f.imm 2 0 rfl (by simp [SI.fields])]

@[simp] theorem SI.toBits_ofBits (b : BitVec 48) : (SI.ofBits b).toBits = b := by
  have h : (SI.ofBits b).fields = unpack b.toNat [6, 6, 36] := by
    simp only [SI.fields, SI.ofBits, unpack, field, BitVec.toNat_ofNat, List.sum_cons, List.sum_nil, Nat.reduceAdd]
  rw [SI.toBits_eq, h, pack_unpack]
  exact ofNat_mod_48 b

def SM.fields (f : SM) : List (Nat × Nat) :=
  [(6, f.data.toNat), (6, f.base.toNat), (20, f.off.toNat), (3, f.space.toNat), (2, f.size.toNat), (2, f.ac.toNat), (3, f.ord.toNat), (3, f.scope.toNat), (2, f.fe.toNat), (1, f.rsv.toNat)]

theorem SM.toBits_eq (f : SM) : f.toBits = BitVec.ofNat 48 (pack f.fields) := by
  simp only [SM.toBits, SM.fields, pack, List.map_cons, List.map_nil, List.sum_cons, List.sum_nil, Nat.reduceAdd, Nat.reducePow,
    Nat.mul_one, Nat.add_zero, Nat.add_assoc]

theorem SM.fields_lt (f : SM) : ∀ e ∈ f.fields, e.2 < 2 ^ e.1 := by
  unfold SM.fields
  simp only [List.forall_mem_cons, BitVec.isLt, true_and]
  simp

@[simp] theorem SM.ofBits_toBits (f : SM) : SM.ofBits f.toBits = f := by
  have hp := @fun w => @field_pack w f.fields 48 f.fields_lt (by simp [SM.fields])
  rw [SM.toBits_eq]
  simp only [SM.ofBits,
    hp _ f.data 0 42 rfl (by simp [SM.fields]),
    hp _ f.base 1 36 rfl (by simp [SM.fields]),
    hp _ f.off 2 16 rfl (by simp [SM.fields]),
    hp _ f.space 3 13 rfl (by simp [SM.fields]),
    hp _ f.size 4 11 rfl (by simp [SM.fields]),
    hp _ f.ac 5 9 rfl (by simp [SM.fields]),
    hp _ f.ord 6 6 rfl (by simp [SM.fields]),
    hp _ f.scope 7 3 rfl (by simp [SM.fields]),
    hp _ f.fe 8 1 rfl (by simp [SM.fields]),
    hp _ f.rsv 9 0 rfl (by simp [SM.fields])]

@[simp] theorem SM.toBits_ofBits (b : BitVec 48) : (SM.ofBits b).toBits = b := by
  have h : (SM.ofBits b).fields = unpack b.toNat [6, 6, 20, 3, 2, 2, 3, 3, 2, 1] := by
    simp only [SM.fields, SM.ofBits, unpack, field, BitVec.toNat_ofNat, List.sum_cons, List.sum_nil, Nat.reduceAdd]
  rw [SM.toBits_eq, h, pack_unpack]
  exact ofNat_mod_48 b

def VR.fields (f : VR) : List (Nat × Nat) :=
  [(5, f.vd.toNat), (5, f.va.toNat), (5, f.vb.toNat), (5, f.vc.toNat), (3, f.type.toNat), (1, f.na.toNat), (1, f.aa.toNat), (1, f.nb.toNat), (1, f.ab.toNat), (1, f.nc.toNat), (1, f.ac.toNat), (1, f.fi.toNat), (1, f.fo.toNat), (2, f.clamp.toNat), (4, f.scale.toNat), (3, f.mask.toNat), (2, f.rnd.toNat), (6, f.aux.toNat)]

theorem VR.toBits_eq (f : VR) : f.toBits = BitVec.ofNat 48 (pack f.fields) := by
  simp only [VR.toBits, VR.fields, pack, List.map_cons, List.map_nil, List.sum_cons, List.sum_nil, Nat.reduceAdd, Nat.reducePow,
    Nat.mul_one, Nat.add_zero, Nat.add_assoc]

theorem VR.fields_lt (f : VR) : ∀ e ∈ f.fields, e.2 < 2 ^ e.1 := by
  unfold VR.fields
  simp only [List.forall_mem_cons, BitVec.isLt, true_and]
  simp

@[simp] theorem VR.ofBits_toBits (f : VR) : VR.ofBits f.toBits = f := by
  have hp := @fun w => @field_pack w f.fields 48 f.fields_lt (by simp [VR.fields])
  rw [VR.toBits_eq]
  simp only [VR.ofBits,
    hp _ f.vd 0 43 rfl (by simp [VR.fields]),
    hp _ f.va 1 38 rfl (by simp [VR.fields]),
    hp _ f.vb 2 33 rfl (by simp [VR.fields]),
    hp _ f.vc 3 28 rfl (by simp [VR.fields]),
    hp _ f.type 4 25 rfl (by simp [VR.fields]),
    hp _ f.na 5 24 rfl (by simp [VR.fields]),
    hp _ f.aa 6 23 rfl (by simp [VR.fields]),
    hp _ f.nb 7 22 rfl (by simp [VR.fields]),
    hp _ f.ab 8 21 rfl (by simp [VR.fields]),
    hp _ f.nc 9 20 rfl (by simp [VR.fields]),
    hp _ f.ac 10 19 rfl (by simp [VR.fields]),
    hp _ f.fi 11 18 rfl (by simp [VR.fields]),
    hp _ f.fo 12 17 rfl (by simp [VR.fields]),
    hp _ f.clamp 13 15 rfl (by simp [VR.fields]),
    hp _ f.scale 14 11 rfl (by simp [VR.fields]),
    hp _ f.mask 15 8 rfl (by simp [VR.fields]),
    hp _ f.rnd 16 6 rfl (by simp [VR.fields]),
    hp _ f.aux 17 0 rfl (by simp [VR.fields])]

@[simp] theorem VR.toBits_ofBits (b : BitVec 48) : (VR.ofBits b).toBits = b := by
  have h : (VR.ofBits b).fields = unpack b.toNat [5, 5, 5, 5, 3, 1, 1, 1, 1, 1, 1, 1, 1, 2, 4, 3, 2, 6] := by
    simp only [VR.fields, VR.ofBits, unpack, field, BitVec.toNat_ofNat, List.sum_cons, List.sum_nil, Nat.reduceAdd]
  rw [VR.toBits_eq, h, pack_unpack]
  exact ofNat_mod_48 b

def VM.fields (f : VM) : List (Nat × Nat) :=
  [(5, f.vd.toNat), (6, f.base.toNat), (20, f.off.toNat), (3, f.space.toNat), (3, f.mtype.toNat), (3, f.pat.toNat), (2, f.fe.toNat), (2, f.ac.toNat), (2, f.layout.toNat), (2, f.rsv.toNat)]

theorem VM.toBits_eq (f : VM) : f.toBits = BitVec.ofNat 48 (pack f.fields) := by
  simp only [VM.toBits, VM.fields, pack, List.map_cons, List.map_nil, List.sum_cons, List.sum_nil, Nat.reduceAdd, Nat.reducePow,
    Nat.mul_one, Nat.add_zero, Nat.add_assoc]

theorem VM.fields_lt (f : VM) : ∀ e ∈ f.fields, e.2 < 2 ^ e.1 := by
  unfold VM.fields
  simp only [List.forall_mem_cons, BitVec.isLt, true_and]
  simp

@[simp] theorem VM.ofBits_toBits (f : VM) : VM.ofBits f.toBits = f := by
  have hp := @fun w => @field_pack w f.fields 48 f.fields_lt (by simp [VM.fields])
  rw [VM.toBits_eq]
  simp only [VM.ofBits,
    hp _ f.vd 0 43 rfl (by simp [VM.fields]),
    hp _ f.base 1 37 rfl (by simp [VM.fields]),
    hp _ f.off 2 17 rfl (by simp [VM.fields]),
    hp _ f.space 3 14 rfl (by simp [VM.fields]),
    hp _ f.mtype 4 11 rfl (by simp [VM.fields]),
    hp _ f.pat 5 8 rfl (by simp [VM.fields]),
    hp _ f.fe 6 6 rfl (by simp [VM.fields]),
    hp _ f.ac 7 4 rfl (by simp [VM.fields]),
    hp _ f.layout 8 2 rfl (by simp [VM.fields]),
    hp _ f.rsv 9 0 rfl (by simp [VM.fields])]

@[simp] theorem VM.toBits_ofBits (b : BitVec 48) : (VM.ofBits b).toBits = b := by
  have h : (VM.ofBits b).fields = unpack b.toNat [5, 6, 20, 3, 3, 3, 2, 2, 2, 2] := by
    simp only [VM.fields, VM.ofBits, unpack, field, BitVec.toNat_ofNat, List.sum_cons, List.sum_nil, Nat.reduceAdd]
  rw [VM.toBits_eq, h, pack_unpack]
  exact ofNat_mod_48 b

def MC.fields (f : MC) : List (Nat × Nat) :=
  [(1, f.wp.toNat), (1, f.wn.toNat), (1, f.sp.toNat), (1, f.sn.toNat), (3, f.guard.toNat), (6, f.a.toNat), (6, f.b.toNat), (6, f.c.toNat), (23, f.aux.toNat)]

theorem MC.toBits_eq (f : MC) : f.toBits = BitVec.ofNat 48 (pack f.fields) := by
  simp only [MC.toBits, MC.fields, pack, List.map_cons, List.map_nil, List.sum_cons, List.sum_nil, Nat.reduceAdd, Nat.reducePow,
    Nat.mul_one, Nat.add_zero, Nat.add_assoc]

theorem MC.fields_lt (f : MC) : ∀ e ∈ f.fields, e.2 < 2 ^ e.1 := by
  unfold MC.fields
  simp only [List.forall_mem_cons, BitVec.isLt, true_and]
  simp

@[simp] theorem MC.ofBits_toBits (f : MC) : MC.ofBits f.toBits = f := by
  have hp := @fun w => @field_pack w f.fields 48 f.fields_lt (by simp [MC.fields])
  rw [MC.toBits_eq]
  simp only [MC.ofBits,
    hp _ f.wp 0 47 rfl (by simp [MC.fields]),
    hp _ f.wn 1 46 rfl (by simp [MC.fields]),
    hp _ f.sp 2 45 rfl (by simp [MC.fields]),
    hp _ f.sn 3 44 rfl (by simp [MC.fields]),
    hp _ f.guard 4 41 rfl (by simp [MC.fields]),
    hp _ f.a 5 35 rfl (by simp [MC.fields]),
    hp _ f.b 6 29 rfl (by simp [MC.fields]),
    hp _ f.c 7 23 rfl (by simp [MC.fields]),
    hp _ f.aux 8 0 rfl (by simp [MC.fields])]

@[simp] theorem MC.toBits_ofBits (b : BitVec 48) : (MC.ofBits b).toBits = b := by
  have h : (MC.ofBits b).fields = unpack b.toNat [1, 1, 1, 1, 3, 6, 6, 6, 23] := by
    simp only [MC.fields, MC.ofBits, unpack, field, BitVec.toNat_ofNat, List.sum_cons, List.sum_nil, Nat.reduceAdd]
  rw [MC.toBits_eq, h, pack_unpack]
  exact ofNat_mod_48 b

def CC.fields (f : CC) : List (Nat × Nat) :=
  [(1, f.wp.toNat), (1, f.wn.toNat), (1, f.sp.toNat), (1, f.sn.toNat), (3, f.guard.toNat), (6, f.dst.toNat), (6, f.src.toNat), (6, f.len.toNat), (6, f.bar.toNat), (6, f.tokd.toNat), (2, f.ac.toNat), (3, f.rscope.toNat), (6, f.flags.toNat)]

theorem CC.toBits_eq (f : CC) : f.toBits = BitVec.ofNat 48 (pack f.fields) := by
  simp only [CC.toBits, CC.fields, pack, List.map_cons, List.map_nil, List.sum_cons, List.sum_nil, Nat.reduceAdd, Nat.reducePow,
    Nat.mul_one, Nat.add_zero, Nat.add_assoc]

theorem CC.fields_lt (f : CC) : ∀ e ∈ f.fields, e.2 < 2 ^ e.1 := by
  unfold CC.fields
  simp only [List.forall_mem_cons, BitVec.isLt, true_and]
  simp

@[simp] theorem CC.ofBits_toBits (f : CC) : CC.ofBits f.toBits = f := by
  have hp := @fun w => @field_pack w f.fields 48 f.fields_lt (by simp [CC.fields])
  rw [CC.toBits_eq]
  simp only [CC.ofBits,
    hp _ f.wp 0 47 rfl (by simp [CC.fields]),
    hp _ f.wn 1 46 rfl (by simp [CC.fields]),
    hp _ f.sp 2 45 rfl (by simp [CC.fields]),
    hp _ f.sn 3 44 rfl (by simp [CC.fields]),
    hp _ f.guard 4 41 rfl (by simp [CC.fields]),
    hp _ f.dst 5 35 rfl (by simp [CC.fields]),
    hp _ f.src 6 29 rfl (by simp [CC.fields]),
    hp _ f.len 7 23 rfl (by simp [CC.fields]),
    hp _ f.bar 8 17 rfl (by simp [CC.fields]),
    hp _ f.tokd 9 11 rfl (by simp [CC.fields]),
    hp _ f.ac 10 9 rfl (by simp [CC.fields]),
    hp _ f.rscope 11 6 rfl (by simp [CC.fields]),
    hp _ f.flags 12 0 rfl (by simp [CC.fields])]

@[simp] theorem CC.toBits_ofBits (b : BitVec 48) : (CC.ofBits b).toBits = b := by
  have h : (CC.ofBits b).fields = unpack b.toNat [1, 1, 1, 1, 3, 6, 6, 6, 6, 6, 2, 3, 6] := by
    simp only [CC.fields, CC.ofBits, unpack, field, BitVec.toNat_ofNat, List.sum_cons, List.sum_nil, Nat.reduceAdd]
  rw [CC.toBits_eq, h, pack_unpack]
  exact ofNat_mod_48 b

def TS.fields (f : TS) : List (Nat × Nat) :=
  [(6, f.a.toNat), (6, f.b.toNat), (6, f.d.toNat), (30, f.imm.toNat)]

theorem TS.toBits_eq (f : TS) : f.toBits = BitVec.ofNat 48 (pack f.fields) := by
  simp only [TS.toBits, TS.fields, pack, List.map_cons, List.map_nil, List.sum_cons, List.sum_nil, Nat.reduceAdd, Nat.reducePow,
    Nat.mul_one, Nat.add_zero, Nat.add_assoc]

theorem TS.fields_lt (f : TS) : ∀ e ∈ f.fields, e.2 < 2 ^ e.1 := by
  unfold TS.fields
  simp only [List.forall_mem_cons, BitVec.isLt, true_and]
  simp

@[simp] theorem TS.ofBits_toBits (f : TS) : TS.ofBits f.toBits = f := by
  have hp := @fun w => @field_pack w f.fields 48 f.fields_lt (by simp [TS.fields])
  rw [TS.toBits_eq]
  simp only [TS.ofBits,
    hp _ f.a 0 42 rfl (by simp [TS.fields]),
    hp _ f.b 1 36 rfl (by simp [TS.fields]),
    hp _ f.d 2 30 rfl (by simp [TS.fields]),
    hp _ f.imm 3 0 rfl (by simp [TS.fields])]

@[simp] theorem TS.toBits_ofBits (b : BitVec 48) : (TS.ofBits b).toBits = b := by
  have h : (TS.ofBits b).fields = unpack b.toNat [6, 6, 6, 30] := by
    simp only [TS.fields, TS.ofBits, unpack, field, BitVec.toNat_ofNat, List.sum_cons, List.sum_nil, Nat.reduceAdd]
  rw [TS.toBits_eq, h, pack_unpack]
  exact ofNat_mod_48 b

end Sys2Proof
end

