-- ==== Sys2Proof/Laws/Memory.lean ====
section
/-!
SUPPORT. Memory and bytes: a read after a write gives what was written, a write leaves every other cell alone, and every operation on
memory keeps its canonical form.
-/

namespace Sys2Proof.Machine

/-! ### Bytes -/

@[simp] theorem length_toBytes (n v : Nat) : (toBytes n v).length = n := by
  induction n generalizing v with
  | zero => rfl
  | succ n ih => simp [toBytes, ih]

/-- The bytes of a number give it back, as far as they reach. -/
theorem ofBytes_toBytes (n v : Nat) : ofBytes (toBytes n v) = v % 256 ^ n := by
  induction n generalizing v with
  | zero => simp [toBytes, ofBytes, Nat.mod_one]
  | succ n ih =>
    have e : v % 256 ^ (n + 1) = v % 256 + 256 * (v / 256 % 256 ^ n) := by rw [Nat.pow_succ', Nat.mod_mul]
    rw [e, toBytes, ofBytes, ih]
    rfl

theorem ofBytes_lt (bs : List Byte) : ofBytes bs < 256 ^ bs.length := by
  induction bs with
  | nil => simp [ofBytes]
  | cons b r ih =>
    have := b.isLt
    simp only [ofBytes, List.length_cons, Nat.pow_succ']
    omega

theorem getD_toBytes (n v i : Nat) (h : i < n) : (toBytes n v).getD i 0 = BitVec.ofNat 8 (v / 256 ^ i) := by
  induction n generalizing v i with
  | zero => omega
  | succ n ih =>
    cases i with
    | zero => simp [toBytes]
    | succ i =>
      simp only [toBytes, List.getD_cons_succ]
      rw [ih _ _ (by omega), Nat.div_div_eq_div_mul, Nat.pow_succ']

/-! ### Reads after writes -/

theorem Memory.get_filter (m : Memory) (p : Host.Cell → Bool) (k : Nat) (h : ∀ b, p (k, b) = true) :
    Memory.get (m.filter p) k = Memory.get m k := by
  induction m with
  | nil => rfl
  | cons c r ih =>
    obtain ⟨j, b⟩ := c
    by_cases hj : j = k
    · subst hj; simp [List.filter, h, Memory.get]
    · by_cases hp : p (j, b) = true <;> simp [List.filter, hp, Memory.get, hj, ih]

theorem Memory.get_filter_gone (m : Memory) (p : Host.Cell → Bool) (k : Nat) (h : ∀ b, p (k, b) = false) :
    Memory.get (m.filter p) k = unlistedByte := by
  induction m with
  | nil => rfl
  | cons c r ih =>
    obtain ⟨j, b⟩ := c
    by_cases hj : j = k
    · subst hj; simp [List.filter, h, ih]
    · by_cases hp : p (j, b) = true <;> simp [List.filter, hp, Memory.get, hj, ih]

@[simp] theorem Memory.get_erase_self (m : Memory) (k : Nat) : (m.erase k).get k = unlistedByte :=
  Memory.get_filter_gone m _ k (by simp)

theorem Memory.get_erase_of_ne (m : Memory) {j k : Nat} (h : j ≠ k) : (m.erase k).get j = m.get j :=
  Memory.get_filter m _ j (by simp [h])

theorem Memory.get_insertCell (m : Memory) (k : Nat) (b : Byte) (j : Nat) (h : ∀ c, (k, c) ∉ m) :
    (m.insertCell k b).get j = if j = k then b else m.get j := by
  induction m with
  | nil => by_cases hj : j = k <;> simp [Memory.insertCell, Memory.get, hj, Ne.symm]
  | cons c r ih =>
    obtain ⟨i, x⟩ := c
    have hk : i ≠ k := fun e => h x (by simp [e])
    have hr : ∀ c, (k, c) ∉ r := fun c hc => h c (List.mem_cons_of_mem _ hc)
    unfold Memory.insertCell
    split
    · by_cases hi : i = j
      · subst hi; simp [Memory.get, hk]
      · simp [Memory.get, hi, ih hr]
    · by_cases hj : j = k
      · subst hj; simp [Memory.get]
      · simp [Memory.get, Ne.symm hj, hj]

/-- A cell reads as what was put there, every other cell as before. -/
theorem Memory.get_put (m : Memory) (k : Nat) (b : Byte) (j : Nat) : (m.put k b).get j = if j = k then b else m.get j := by
  unfold Memory.put
  split
  · rename_i hb
    by_cases hj : j = k
    · subst hj; simp [hb]
    · simp [hj, Memory.get_erase_of_ne m hj]
  · rw [Memory.get_insertCell _ _ _ _ (by simp [Memory.erase])]
    by_cases hj : j = k
    · simp [hj]
    · simp [hj, Memory.get_erase_of_ne m hj]

/-- A run of bytes reads as written, every other cell as before. -/
theorem Memory.get_putRun (m : Memory) (k : Nat) (bs : List Byte) (j : Nat) :
    (m.putRun k bs).get j = if k ≤ j ∧ j < k + bs.length then bs.getD (j - k) 0 else m.get j := by
  induction bs generalizing m k with
  | nil => simp [Memory.putRun] <;> omega
  | cons b r ih =>
    rw [Memory.putRun, ih, Memory.get_put, List.length_cons]
    by_cases hj : j = k
    · subst hj
      rw [if_neg (by omega), if_pos rfl, if_pos (by omega), Nat.sub_self, List.getD_cons_zero]
    · by_cases h : k + 1 ≤ j ∧ j < k + 1 + r.length
      · have e : j - k = (j - (k + 1)) + 1 := by omega
        rw [if_pos h, if_pos (by omega), e, List.getD_cons_succ]
      · rw [if_neg h, if_neg hj, if_neg (by omega)]

theorem Memory.get_putRun_at (m : Memory) (k : Nat) (bs : List Byte) (i : Nat) (h : i < bs.length) :
    (m.putRun k bs).get (k + i) = bs.getD i 0 := by
  rw [Memory.get_putRun, if_pos (by omega), Nat.add_sub_cancel_left]

theorem Memory.get_putRun_of_not (m : Memory) (k : Nat) (bs : List Byte) (j : Nat) (h : j < k ∨ k + bs.length ≤ j) :
    (m.putRun k bs).get j = m.get j := by
  rw [Memory.get_putRun, if_neg (by omega)]

/-- The bytes of a run that has just been written. -/
theorem Memory.run_putRun (m : Memory) (k : Nat) (bs : List Byte) : (m.putRun k bs).run k bs.length = bs := by
  apply List.ext_getElem (by simp [Memory.run, upTo])
  intro i h₁ h₂
  simp [Memory.run, upTo, Memory.get_putRun_at m k bs i h₂, h₂]

/-! ### The canonical form -/

/-- The canonical form: cells at strictly rising keys, none equal to what an unlisted cell reads as. -/
theorem Memory.wf_iff (m : Memory) :
    Memory.wf m = true ↔ m.Pairwise (fun a b => a.1 < b.1) ∧ ∀ c ∈ m, c.2 ≠ unlistedByte := by
  induction m with
  | nil => simp [Memory.wf]
  | cons c r ih =>
    cases r with
    | nil => simp [Memory.wf]
    | cons d r =>
      simp only [Memory.wf, Bool.and_eq_true, decide_eq_true_eq, ih, List.pairwise_cons, List.mem_cons, forall_eq_or_imp]
      constructor
      · rintro ⟨⟨h1, h2⟩, ⟨h3, h4⟩, h5, h6⟩
        exact ⟨⟨⟨h2, fun a ha => Nat.lt_trans h2 (h3 a ha)⟩, h3, h4⟩, h1, h5, h6⟩
      · rintro ⟨⟨⟨h2, -⟩, h3, h4⟩, h1, h5, h6⟩
        exact ⟨⟨h1, h2⟩, ⟨h3, h4⟩, h5, h6⟩

/-- Dropping cells keeps the form. -/
theorem Memory.wf_filter {m : Memory} (p : Host.Cell → Bool) (h : m.wf = true) : Memory.wf (m.filter p) = true := by
  rw [Memory.wf_iff] at *
  exact ⟨h.1.filter p, fun c hc => h.2 c ((List.mem_filter.1 hc).1)⟩

theorem Memory.mem_insertCell {m : Memory} {k : Nat} {b : Byte} {c : Host.Cell} (h : c ∈ m.insertCell k b) : c = (k, b) ∨ c ∈ m := by
  induction m with
  | nil => simpa [Memory.insertCell] using h
  | cons d r ih =>
    obtain ⟨j, x⟩ := d
    unfold Memory.insertCell at h
    split at h
    · rcases List.mem_cons.1 h with rfl | h
      · simp
      · rcases ih h with h | h <;> simp [h]
    · simpa using h

theorem Memory.pairwise_insertCell {m : Memory} (k : Nat) (b : Byte) (h : m.Pairwise fun a b => a.1 < b.1) (hk : ∀ c ∈ m, c.1 ≠ k) :
    (m.insertCell k b).Pairwise fun a b => a.1 < b.1 := by
  induction m with
  | nil => simp [Memory.insertCell]
  | cons d r ih =>
    obtain ⟨j, x⟩ := d
    rw [List.pairwise_cons] at h
    unfold Memory.insertCell
    split
    · rename_i hj
      refine List.pairwise_cons.2 ⟨fun c hc => ?_, ih h.2 fun c hc => hk c (List.mem_cons_of_mem _ hc)⟩
      rcases Memory.mem_insertCell hc with rfl | hc
      · exact hj
      · exact h.1 c hc
    · rename_i hj
      have hne := hk (j, x) (by simp)
      refine List.pairwise_cons.2 ⟨fun c hc => ?_, List.pairwise_cons.2 h⟩
      rcases List.mem_cons.1 hc with rfl | hc
      · show k < j
        simp at hne; omega
      · have := h.1 c hc
        show k < c.1
        simp at hne this; omega

/-- A byte put keeps the form. -/
theorem Memory.wf_put {m : Memory} (k : Nat) (b : Byte) (h : m.wf = true) : (m.put k b).wf = true := by
  have he := Memory.wf_filter (fun c => decide (c.1 ≠ k)) h
  unfold Memory.put
  split
  · exact he
  · rename_i hb
    rw [Memory.wf_iff] at *
    refine ⟨Memory.pairwise_insertCell k b he.1 (by simp [Memory.erase]), fun c hc => ?_⟩
    rcases Memory.mem_insertCell hc with rfl | hc
    · exact hb
    · exact he.2 c hc

/-- A run of bytes put keeps the form. -/
theorem Memory.wf_putRun {m : Memory} (k : Nat) (bs : List Byte) (h : m.wf = true) : (m.putRun k bs).wf = true := by
  induction bs generalizing m k with
  | nil => exact h
  | cons b r ih => exact ih (k + 1) (Memory.wf_put k b h)

/-- Puts one after another keep the form. -/
theorem Memory.wf_foldl_put {α : Type} (f : α → Nat) (g : α → Byte) (l : List α) {m : Memory} (h : m.wf = true) :
    (l.foldl (fun m c => Memory.put m (f c) (g c)) m).wf = true := by
  induction l generalizing m with
  | nil => exact h
  | cons a r ih => exact ih (Memory.wf_put _ _ h)

end Sys2Proof.Machine
end

