-- ==== Sys2Proof/Laws/Loader.lean ====
section
/-!
SUPPORT. The loader: fields of a run of bytes that ends in zeros, and that a place is found wherever it is asked for while enough of
device memory is free.
-/

namespace Sys2Proof.Machine

/-! ### Fields -/

theorem ofBytes_append_zeros (bs : List Byte) (k : Nat) : ofBytes (bs ++ List.replicate k 0) = ofBytes bs := by
  induction bs with
  | nil =>
    induction k with
    | zero => rfl
    | succ k ih =>
      have e : ofBytes (List.replicate k 0#8) = 0 := by simpa [ofBytes] using ih
      simp [List.replicate_succ, ofBytes, e]
  | cons b r ih => simp only [List.cons_append, ofBytes, ih]

theorem entryField_append_zeros (bs : List Byte) (k : Nat) : entryField (bs ++ List.replicate k 0) = entryField bs := by
  funext o n
  simp only [entryField, List.drop_append, List.take_append, List.drop_replicate, List.take_replicate, ofBytes_append_zeros]

theorem entryField_past {bs : List Byte} {o : Nat} (n : Nat) (h : bs.length ≤ o) : entryField bs o n = 0 := by
  simp [entryField, List.drop_eq_nil_of_le h, ofBytes]

/-- A configuration whose last bytes are zeros is judged by the others. -/
theorem configOk_append_zeros (bs : List Byte) (k : Nat) : configOk (bs ++ List.replicate k 0) = configOk bs := by
  unfold configOk launchOf
  rw [entryField_append_zeros]

/-! ### Places -/

theorem le_roundUp (n : Nat) {m : Nat} (h : 0 < m) : n ≤ roundUp n m := by
  have := Nat.lt_mul_div_succ (n + m - 1) h
  simp only [roundUp, ceilDiv]
  rw [Nat.mul_comm]
  rw [Nat.mul_add] at this
  omega

theorem roundUp_lt (n : Nat) {m : Nat} (h : 0 < m) : roundUp n m < n + m := by
  have := Nat.div_mul_le_self (n + m - 1) m
  simp only [roundUp, ceilDiv]
  omega

/-- An element that a stricter test drops is missing from its sum. -/
theorem sum_filter_lt {α : Type} (l : List α) (p q : α → Bool) (f : α → Nat) (h : ∀ x, q x = true → p x = true) (a : α) (ha : a ∈ l)
    (hp : p a = true) (hq : q a = false) : ((l.filter q).map f).sum + f a ≤ ((l.filter p).map f).sum := by
  induction l with
  | nil => cases ha
  | cons b r ih =>
    have mono : ((r.filter q).map f).sum ≤ ((r.filter p).map f).sum := by
      clear ih ha
      induction r with
      | nil => simp
      | cons c r ih =>
        by_cases hc : q c = true
        · simpa [List.filter, hc, h c hc] using ih
        · by_cases hd : p c = true
          · simp [List.filter, hc, hd]; omega
          · simpa [List.filter, hc, hd] using ih
    rcases List.mem_cons.mp ha with rfl | hr
    · simp [List.filter, hp, hq]; omega
    · have := ih hr
      by_cases hc : q b = true
      · simp [List.filter, hc, h b hc]; omega
      · by_cases hd : p b = true
        · simp [List.filter, hc, hd]; omega
        · simpa [List.filter, hc, hd] using this

/-- From a place on there is a clear one, at it or after a run taken, where the runs that reach past it leave room below the limit. -/
theorem exists_clear (taken : List (Nat × Nat)) (limit m n : Nat) (hm : 0 < m) (k a : Nat)
    (hk : ((taken.filter fun t => decide (a < t.1 + t.2)).map fun _ => 1).sum ≤ k)
    (h : a + ((taken.filter fun t => decide (a < t.1 + t.2)).map fun t => t.2 + (n + m)).sum + n ≤ limit) :
    ∃ b, (b = a ∨ ∃ t ∈ taken, b = roundUp (t.1 + t.2) m) ∧ b + n ≤ limit ∧ clearOf taken b n = true := by
  induction k generalizing a with
  | zero =>
    refine ⟨a, .inl rfl, by omega, ?_⟩
    simp only [clearOf, List.all_eq_true, decide_eq_true_eq]
    intro t ht
    by_cases hp : a < t.1 + t.2
    · have := sum_filter_lt taken (fun t => decide (a < t.1 + t.2)) (fun _ => false) (fun _ => 1) (by simp) t ht (by simpa using hp) rfl
      omega
    · omega
  | succ k ih =>
    by_cases hc : clearOf taken a n = true
    · exact ⟨a, .inl rfl, by omega, hc⟩
    · simp only [clearOf, Bool.not_eq_true, List.all_eq_false, decide_eq_true_eq] at hc
      obtain ⟨t, ht, hn⟩ := hc
      have hb := le_roundUp (t.1 + t.2) hm
      have hl := roundUp_lt (t.1 + t.2) hm
      have step (f : Nat × Nat → Nat) := sum_filter_lt taken (fun u => decide (a < u.1 + u.2))
        (fun u => decide (roundUp (t.1 + t.2) m < u.1 + u.2)) f (fun u hu => by simp at hu ⊢; omega) t ht (by simp; omega) (by simp; omega)
      have s1 := step fun _ => 1
      have s2 := step fun t => t.2 + (n + m)
      obtain ⟨b, hb, rest⟩ := ih (roundUp (t.1 + t.2) m) (by omega) (by omega)
      exact ⟨b, .inr (hb.elim (fun e => ⟨t, ht, e⟩) id), rest⟩

/-- A place is found, whatever the hint, where the runs taken leave room below the limit. -/
theorem findPlace_isSome (taken : List (Nat × Nat)) (limit m n hint : Nat) (hm : 0 < m)
    (h : (taken.map fun t => t.2 + (n + m)).sum + n ≤ limit) : (findPlace taken limit m n hint).isSome = true := by
  have le : ∀ (l : List (Nat × Nat)) (p : Nat × Nat → Bool) (f : Nat × Nat → Nat), ((l.filter p).map f).sum ≤ (l.map f).sum := by
    intro l p f
    induction l with
    | nil => simp
    | cons c r ih => by_cases hc : p c = true <;> simp [List.filter, hc] <;> omega
  have := le taken (fun t => decide (0 < t.1 + t.2)) fun t => t.2 + (n + m)
  obtain ⟨b, hb, hl, hc⟩ := exists_clear taken limit m n hm _ 0 (Nat.le_refl _) (by simp only [Nat.zero_add] at this ⊢; omega)
  simp only [findPlace, List.find?_isSome, List.mem_map, List.mem_cons, Bool.and_eq_true, decide_eq_true_eq]
  refine ⟨b, ?_, hl, hc⟩
  rcases hb with rfl | ⟨t, ht, rfl⟩
  · have : roundUp 0 m = 0 := by
      have e : (0 + m - 1) / m = 0 := Nat.div_eq_of_lt (by omega)
      simp only [roundUp, ceilDiv, e, Nat.zero_mul]
    exact ⟨0, .inr (.inl rfl), this⟩
  · exact ⟨_, .inr (.inr ⟨t, ht, rfl⟩), rfl⟩

/-! ### The loader's takes -/

/-- A table of zeros maps nothing. -/
theorem State.mappedFrom_empty (s : State) (l t va : Nat) (h : ∀ i < 512, s.word .dev (t + 8 * i) 8 = 0) :
    s.mappedFrom l t va = ([t], []) := by
  cases l with
  | zero =>
    simp only [State.mappedFrom, Prod.mk.injEq, true_and, List.filterMap_eq_nil_iff]
    intro i hi
    rw [h i (List.mem_range.mp hi)]
    rfl
  | succ l =>
    unfold State.mappedFrom
    dsimp only
    rw [List.map_congr_left (g := fun _ => ([], [])) (fun i hi => by rw [h i (List.mem_range.mp hi)]; rfl)]
    simp

/-- What the runs taken cost at most, each with what a place beside it may lose. -/
def costOf (l : List (Nat × Nat)) : Nat := (l.map fun t => t.2 + 268435456).sum

theorem findPlace_of_cost (taken : List (Nat × Nat)) (limit m n hint : Nat) (hm : 0 < m) (hn : n + m ≤ 268435456)
    (h : costOf taken + 268435456 ≤ limit) : ∃ a, findPlace taken limit m n hint = some a := by
  apply Option.isSome_iff_exists.mp
  apply findPlace_isSome taken limit m n hint hm
  have : ∀ l : List (Nat × Nat), (l.map fun t => t.2 + (n + m)).sum ≤ costOf l := by
    intro l
    induction l with
    | nil => simp [costOf]
    | cons c r ih => simp only [costOf, List.map_cons, List.sum_cons] at ih ⊢; omega
  have := this taken
  omega

theorem costOf_append (l : List (Nat × Nat)) (a n : Nat) : costOf (l ++ [(a, n)]) = costOf l + (n + 268435456) := by simp [costOf]

theorem Loader.takeMemory_some (l : Loader) (m n : Nat) (hm : 0 < m) (hn : n + m ≤ 268435456) (h : costOf l.phys + 268435456 ≤ deviceLimit) :
    ∃ a l', l.takeMemory m n = some (a, l') ∧ costOf l'.phys = costOf l.phys + (n + 268435456) ∧ l'.virt = l.virt := by
  obtain ⟨a, ha⟩ := findPlace_of_cost l.phys deviceLimit m n (Config.placeBase l.s.freeN) hm hn h
  have e : l.takeMemory m n = Option.map _ (findPlace l.phys deviceLimit m n (Config.placeBase l.s.freeN)) := rfl
  rw [ha] at e
  exact ⟨a, _, e, costOf_append _ _ _, rfl⟩

theorem Loader.takeVirtual_some (l : Loader) (m n : Nat) (hm : 0 < m) (hn : n + m ≤ 268435456) (h : costOf l.virt + 268435456 ≤ 2 ^ 56) :
    ∃ a l', l.takeVirtual m n = some (a, l') ∧ costOf l'.virt = costOf l.virt + (n + 268435456) ∧ l'.phys = l.phys := by
  obtain ⟨a, ha⟩ := findPlace_of_cost l.virt (2 ^ 56) m n (Config.placeBase l.s.freeN) hm hn h
  have e : l.takeVirtual m n = Option.map _ (findPlace l.virt (2 ^ 56) m n (Config.placeBase l.s.freeN)) := rfl
  rw [ha] at e
  exact ⟨a, _, e, costOf_append _ _ _, rfl⟩

/-- A page is mapped where each table that it may need has a place. -/
theorem Loader.map_some (va pgsz pte : Nat) (n t : Nat) (l : Loader) (h : costOf l.phys + n * 536870912 ≤ deviceLimit) :
    ∃ l', Loader.map va pgsz pte n t l = some l' ∧ costOf l'.phys ≤ costOf l.phys + n * 536870912 ∧ l'.virt = l.virt := by
  induction n generalizing t l with
  | zero => exact ⟨_, rfl, by simp, rfl⟩
  | succ n ih =>
    rw [Nat.succ_mul] at h ⊢
    generalize n * 536870912 = z at *
    have hle : costOf l.phys + z ≤ deviceLimit := by omega
    have hup : costOf l.phys + z ≤ costOf l.phys + (z + 536870912) := by omega
    have hone : costOf l.phys + 268435456 ≤ deviceLimit :=
      Nat.le_trans (Nat.add_le_add_left (Nat.le_trans (by decide) (Nat.le_add_left 536870912 z)) _) h
    have room (c : Nat) (h : c = costOf l.phys + (4096 + 268435456)) : c + z ≤ costOf l.phys + (z + 536870912) := by omega
    unfold Loader.map
    split
    · exact ⟨_, rfl, Nat.le_add_right _ _, rfl⟩
    · dsimp only
      split
      · rename_i u _
        obtain ⟨l', e, c, v⟩ := ih u l hle
        exact ⟨l', e, Nat.le_trans c hup, v⟩
      · obtain ⟨a, l1, e1, c1, v1⟩ := l.takeMemory_some 4096 4096 (by decide) (by decide) hone
        rw [e1, Option.bind_some]
        generalize hx : Loader.mk _ l1.phys l1.virt = x
        have hp : x.phys = l1.phys := by rw [← hx]
        have hv : x.virt = l1.virt := by rw [← hx]
        have r := room _ c1
        obtain ⟨l', e, c, v⟩ := ih a x (by rw [hp]; exact Nat.le_trans r h)
        exact ⟨l', e, by rw [hp] at c; exact Nat.le_trans c r, by rw [v, hv, v1]⟩

/-- An image without buffers is placed where its region, its code and the tables that map them have their places. -/
theorem State.placeImage_some (s : State) (c : Launch) (bs : List Byte) (hb : imageBuffers bs = [])
    (hp : costOf (s.loader c).phys + 4000000000 ≤ deviceLimit) (hv : costOf (s.loader c).virt + 1000000000 ≤ 2 ^ 56)
    (hn : entryField bs 0x18 8 + 8 ≤ 268435456) : ∃ t, s.placeImage c bs = some t := by
  obtain ⟨pa, l1, e1, c1, v1⟩ := (s.loader c).takeMemory_some 65536 65536 (by decide) (by decide)
    (Nat.le_trans (Nat.add_le_add_left (by decide) _) hp)
  obtain ⟨va, l2, e2, v2, p2⟩ := l1.takeVirtual_some 65536 65536 (by decide) (by decide) (by
    rw [v1]; exact Nat.le_trans (Nat.add_le_add_left (by decide) _) hv)
  generalize hx : Loader.mk ((l2.s.zeroDevice pa 65536).devPut pa (regionBytes [])) l2.phys l2.virt = x
  have xp : x.phys = l2.phys := by rw [← hx]
  have xv : x.virt = l2.virt := by rw [← hx]
  obtain ⟨l3, e3, -, v3⟩ := Loader.map_some va 1 (leafWord 1 pa false false true) 4 c.asroot x (by
    rw [xp, p2, c1, Nat.add_assoc]; exact Nat.le_trans (Nat.add_le_add_left (by decide) _) hp)
  obtain ⟨cb, l4, e4, -, -⟩ := l3.takeVirtual_some 8 (entryField bs 0x18 8) (by decide) hn (by
    rw [v3, xv, v2, v1, Nat.add_assoc]; exact Nat.le_trans (Nat.add_le_add_left (by decide) _) hv)
  have place : (s.loader c).place c.asroot 1 65536 false false (regionBytes []) = some ((va, pa), l3) := by
    unfold Loader.place
    rw [show pageSize 1 = 65536 from rfl, e1, Option.bind_some]
    dsimp only
    rw [e2, Option.bind_some]
    dsimp only
    rw [hx, show 65536 / 65536 = 1 from rfl, Loader.mapRun, e3, Option.bind_some, Loader.mapRun, Option.map_some]
  unfold State.placeImage
  rw [hb, Loader.placeBuffers, Option.bind_some]
  dsimp only
  rw [List.map_nil, place, Option.bind_some]
  dsimp only
  rw [e4, Option.map_some]
  exact ⟨_, rfl⟩

end Sys2Proof.Machine
end

