-- ==== Sys2Proof/Laws/State.lean ====
section
/-!
SUPPORT. The small lemmas of the state's accessors: what a table holds after an entry is put into it, what each update of the state leaves
in each of its fields, and what each update of a context leaves in each of the context's fields.
-/

namespace Sys2Proof.Machine

/-! ### Tables -/

@[simp] theorem lookupD_insertKey_self {α : Type} (d : α) (m : List (Nat × α)) (k : Nat) (v : α) :
    lookupD d (insertKey m k v) k = v := by
  induction m with
  | nil => simp [insertKey, lookupD]
  | cons e r ih =>
    obtain ⟨j, w⟩ := e
    unfold insertKey
    split
    · simp [lookupD]
    · split
      · simp [lookupD]
      · rename_i h _
        simp [lookupD, h, ih]

theorem lookupD_insertKey_of_ne {α : Type} (d : α) (m : List (Nat × α)) {j k : Nat} (v : α) (h : j ≠ k) :
    lookupD d (insertKey m k v) j = lookupD d m j := by
  induction m with
  | nil => simp [insertKey, lookupD, h.symm]
  | cons e r ih =>
    obtain ⟨i, w⟩ := e
    unfold insertKey
    split
    · rename_i hi
      subst hi
      simp [lookupD, h.symm]
    · split
      · simp [lookupD, h.symm]
      · simp [lookupD, ih]

/-! ### The state -/

/-- A key of a context determines its core and number. -/
theorem ctxKey_inj {c x d y : Nat} (hx : x < 2) (hy : y < 2) : 2 * c + x = 2 * d + y ↔ c = d ∧ x = y := by omega

@[simp] theorem State.ctx_setCtx (s : State) (c x : Nat) (k : Ctx) : (s.setCtx c x k).ctx c x = k := by
  simp [State.setCtx, State.ctx]

theorem State.ctx_setCtx_of_ne (s : State) {c x d y : Nat} (k : Ctx) (h : 2 * d + y ≠ 2 * c + x) :
    (s.setCtx c x k).ctx d y = s.ctx d y := by
  simp [State.setCtx, State.ctx, lookupD_insertKey_of_ne _ _ _ h]

@[simp] theorem State.core_setCore (s : State) (c : Nat) (k : Core) : (s.setCore c k).core c = k := by
  simp [State.setCore, State.core]

theorem State.core_setCore_of_ne (s : State) {c d : Nat} (k : Core) (h : d ≠ c) : (s.setCore c k).core d = s.core d := by
  simp [State.setCore, State.core, lookupD_insertKey_of_ne _ _ _ h]

@[simp] theorem State.pair_setPair (s : State) (n : Nat) (p : Pair) : (s.setPair n p).pair n = p := by
  simp [State.setPair, State.pair]

theorem State.pair_setPair_of_ne (s : State) {m n : Nat} (p : Pair) (h : m ≠ n) : (s.setPair n p).pair m = s.pair m := by
  simp [State.setPair, State.pair, lookupD_insertKey_of_ne _ _ _ h]

@[simp] theorem State.camp_setCamp (s : State) (n : Nat) (c : Camp) : (s.setCamp n c).camp n = c := by
  simp [State.setCamp, State.camp]

theorem State.camp_setCamp_of_ne (s : State) {m n : Nat} (c : Camp) (h : m ≠ n) : (s.setCamp n c).camp m = s.camp m := by
  simp [State.setCamp, State.camp, lookupD_insertKey_of_ne _ _ _ h]

theorem State.modCtx_eq (s : State) (c x : Nat) (f : Ctx → Ctx) : s.modCtx c x f = s.setCtx c x (f (s.ctx c x)) := rfl
theorem State.modMe_eq (s : State) (f : Ctx → Ctx) : s.modMe f = s.setCtx s.cur.core s.cur.x (f s.me) := rfl
theorem State.modCore_eq (s : State) (c : Nat) (f : Core → Core) : s.modCore c f = s.setCore c (f (s.core c)) := rfl
theorem State.modCamp_eq (s : State) (n : Nat) (f : Camp → Camp) : s.modCamp n f = s.setCamp n (f (s.camp n)) := rfl

@[simp] theorem State.ctx_modCtx (s : State) (c x : Nat) (f : Ctx → Ctx) : (s.modCtx c x f).ctx c x = f (s.ctx c x) := by
  simp [State.modCtx]
@[simp] theorem State.core_modCore (s : State) (c : Nat) (f : Core → Core) : (s.modCore c f).core c = f (s.core c) := by
  simp [State.modCore]
@[simp] theorem State.camp_modCamp (s : State) (n : Nat) (f : Camp → Camp) : (s.modCamp n f).camp n = f (s.camp n) := by
  simp [State.modCamp]
@[simp] theorem State.me_modMe (s : State) (f : Ctx → Ctx) : (s.modMe f).me = f s.me := by
  simp only [State.modMe, State.me, State.modCtx, State.setCtx, State.ctx, lookupD_insertKey_self]


/-! ### The fields that setCtx leaves -/

@[simp] theorem State.now_setCtx (s : State) (c x : Nat) (k : Ctx) : (s.setCtx c x k).now = s.now := rfl
@[simp] theorem State.mem_setCtx (s : State) (c x : Nat) (k : Ctx) : (s.setCtx c x k).mem = s.mem := rfl
@[simp] theorem State.memStart_setCtx (s : State) (c x : Nat) (k : Ctx) : (s.setCtx c x k).memStart = s.memStart := rfl
@[simp] theorem State.cores_setCtx (s : State) (c x : Nat) (k : Ctx) : (s.setCtx c x k).cores = s.cores := rfl
@[simp] theorem State.pairs_setCtx (s : State) (c x : Nat) (k : Ctx) : (s.setCtx c x k).pairs = s.pairs := rfl
@[simp] theorem State.camps_setCtx (s : State) (c x : Nat) (k : Ctx) : (s.setCtx c x k).camps = s.camps := rfl
@[simp] theorem State.accs_setCtx (s : State) (c x : Nat) (k : Ctx) : (s.setCtx c x k).accs = s.accs := rfl
@[simp] theorem State.held_setCtx (s : State) (c x : Nat) (k : Ctx) : (s.setCtx c x k).held = s.held := rfl
@[simp] theorem State.polver_setCtx (s : State) (c x : Nat) (k : Ctx) : (s.setCtx c x k).polver = s.polver := rfl
@[simp] theorem State.launch_setCtx (s : State) (c x : Nat) (k : Ctx) : (s.setCtx c x k).launch = s.launch := rfl
@[simp] theorem State.image_setCtx (s : State) (c x : Nat) (k : Ctx) : (s.setCtx c x k).image = s.image := rfl
@[simp] theorem State.codes_setCtx (s : State) (c x : Nat) (k : Ctx) : (s.setCtx c x k).codes = s.codes := rfl
@[simp] theorem State.allocated_setCtx (s : State) (c x : Nat) (k : Ctx) : (s.setCtx c x k).allocated = s.allocated := rfl
@[simp] theorem State.started_setCtx (s : State) (c x : Nat) (k : Ctx) : (s.setCtx c x k).started = s.started := rfl
@[simp] theorem State.fqprod_setCtx (s : State) (c x : Nat) (k : Ctx) : (s.setCtx c x k).fqprod = s.fqprod := rfl
@[simp] theorem State.fqcons_setCtx (s : State) (c x : Nat) (k : Ctx) : (s.setCtx c x k).fqcons = s.fqcons := rfl
@[simp] theorem State.frprod_setCtx (s : State) (c x : Nat) (k : Ctx) : (s.setCtx c x k).frprod = s.frprod := rfl
@[simp] theorem State.frcons_setCtx (s : State) (c x : Nat) (k : Ctx) : (s.setCtx c x k).frcons = s.frcons := rfl
@[simp] theorem State.openFaults_setCtx (s : State) (c x : Nat) (k : Ctx) : (s.setCtx c x k).openFaults = s.openFaults := rfl
@[simp] theorem State.records_setCtx (s : State) (c x : Nat) (k : Ctx) : (s.setCtx c x k).records = s.records := rfl
@[simp] theorem State.conts_setCtx (s : State) (c x : Nat) (k : Ctx) : (s.setCtx c x k).conts = s.conts := rfl
@[simp] theorem State.spills_setCtx (s : State) (c x : Nat) (k : Ctx) : (s.setCtx c x k).spills = s.spills := rfl
@[simp] theorem State.blocks_setCtx (s : State) (c x : Nat) (k : Ctx) : (s.setCtx c x k).blocks = s.blocks := rfl
@[simp] theorem State.recSeq_setCtx (s : State) (c x : Nat) (k : Ctx) : (s.setCtx c x k).recSeq = s.recSeq := rfl
@[simp] theorem State.transits_setCtx (s : State) (c x : Nat) (k : Ctx) : (s.setCtx c x k).transits = s.transits := rfl
@[simp] theorem State.packets_setCtx (s : State) (c x : Nat) (k : Ctx) : (s.setCtx c x k).packets = s.packets := rfl
@[simp] theorem State.decs_setCtx (s : State) (c x : Nat) (k : Ctx) : (s.setCtx c x k).decs = s.decs := rfl
@[simp] theorem State.saves_setCtx (s : State) (c x : Nat) (k : Ctx) : (s.setCtx c x k).saves = s.saves := rfl
@[simp] theorem State.owner_setCtx (s : State) (c x : Nat) (k : Ctx) : (s.setCtx c x k).owner = s.owner := rfl
@[simp] theorem State.election_setCtx (s : State) (c x : Nat) (k : Ctx) : (s.setCtx c x k).election = s.election := rfl
@[simp] theorem State.claims_setCtx (s : State) (c x : Nat) (k : Ctx) : (s.setCtx c x k).claims = s.claims := rfl
@[simp] theorem State.claimPri_setCtx (s : State) (c x : Nat) (k : Ctx) : (s.setCtx c x k).claimPri = s.claimPri := rfl
@[simp] theorem State.nonce_setCtx (s : State) (c x : Nat) (k : Ctx) : (s.setCtx c x k).nonce = s.nonce := rfl
@[simp] theorem State.cmd_setCtx (s : State) (c x : Nat) (k : Ctx) : (s.setCtx c x k).cmd = s.cmd := rfl
@[simp] theorem State.cmdRun_setCtx (s : State) (c x : Nat) (k : Ctx) : (s.setCtx c x k).cmdRun = s.cmdRun := rfl
@[simp] theorem State.cmdCode_setCtx (s : State) (c x : Nat) (k : Ctx) : (s.setCtx c x k).cmdCode = s.cmdCode := rfl
@[simp] theorem State.cmdResult_setCtx (s : State) (c x : Nat) (k : Ctx) : (s.setCtx c x k).cmdResult = s.cmdResult := rfl
@[simp] theorem State.memready_setCtx (s : State) (c x : Nat) (k : Ctx) : (s.setCtx c x k).memready = s.memready := rfl
@[simp] theorem State.resetting_setCtx (s : State) (c x : Nat) (k : Ctx) : (s.setCtx c x k).resetting = s.resetting := rfl
@[simp] theorem State.strap_setCtx (s : State) (c x : Nat) (k : Ctx) : (s.setCtx c x k).strap = s.strap := rfl
@[simp] theorem State.sessions_setCtx (s : State) (c x : Nat) (k : Ctx) : (s.setCtx c x k).sessions = s.sessions := rfl
@[simp] theorem State.firmware_setCtx (s : State) (c x : Nat) (k : Ctx) : (s.setCtx c x k).firmware = s.firmware := rfl
@[simp] theorem State.tables_setCtx (s : State) (c x : Nat) (k : Ctx) : (s.setCtx c x k).tables = s.tables := rfl
@[simp] theorem State.identityKey_setCtx (s : State) (c x : Nat) (k : Ctx) : (s.setCtx c x k).identityKey = s.identityKey := rfl
@[simp] theorem State.fusedRepairs_setCtx (s : State) (c x : Nat) (k : Ctx) : (s.setCtx c x k).fusedRepairs = s.fusedRepairs := rfl
@[simp] theorem State.routes_setCtx (s : State) (c x : Nat) (k : Ctx) : (s.setCtx c x k).routes = s.routes := rfl
@[simp] theorem State.failedLinks_setCtx (s : State) (c x : Nat) (k : Ctx) : (s.setCtx c x k).failedLinks = s.failedLinks := rfl
@[simp] theorem State.pages_setCtx (s : State) (c x : Nat) (k : Ctx) : (s.setCtx c x k).pages = s.pages := rfl
@[simp] theorem State.migrating_setCtx (s : State) (c x : Nat) (k : Ctx) : (s.setCtx c x k).migrating = s.migrating := rfl
@[simp] theorem State.migrated_setCtx (s : State) (c x : Nat) (k : Ctx) : (s.setCtx c x k).migrated = s.migrated := rfl
@[simp] theorem State.settled_setCtx (s : State) (c x : Nat) (k : Ctx) : (s.setCtx c x k).settled = s.settled := rfl
@[simp] theorem State.retiring_setCtx (s : State) (c x : Nat) (k : Ctx) : (s.setCtx c x k).retiring = s.retiring := rfl
@[simp] theorem State.repaired_setCtx (s : State) (c x : Nat) (k : Ctx) : (s.setCtx c x k).repaired = s.repaired := rfl
@[simp] theorem State.powers_setCtx (s : State) (c x : Nat) (k : Ctx) : (s.setCtx c x k).powers = s.powers := rfl
@[simp] theorem State.supply_setCtx (s : State) (c x : Nat) (k : Ctx) : (s.setCtx c x k).supply = s.supply := rfl
@[simp] theorem State.notices_setCtx (s : State) (c x : Nat) (k : Ctx) : (s.setCtx c x k).notices = s.notices := rfl
@[simp] theorem State.hostReads_setCtx (s : State) (c x : Nat) (k : Ctx) : (s.setCtx c x k).hostReads = s.hostReads := rfl
@[simp] theorem State.freeN_setCtx (s : State) (c x : Nat) (k : Ctx) : (s.setCtx c x k).freeN = s.freeN := rfl
@[simp] theorem State.seqN_setCtx (s : State) (c x : Nat) (k : Ctx) : (s.setCtx c x k).seqN = s.seqN := rfl
@[simp] theorem State.stage_setCtx (s : State) (c x : Nat) (k : Ctx) : (s.setCtx c x k).stage = s.stage := rfl
@[simp] theorem State.agenda_setCtx (s : State) (c x : Nat) (k : Ctx) : (s.setCtx c x k).agenda = s.agenda := rfl
@[simp] theorem State.inputs_setCtx (s : State) (c x : Nat) (k : Ctx) : (s.setCtx c x k).inputs = s.inputs := rfl
@[simp] theorem State.cur_setCtx (s : State) (c x : Nat) (k : Ctx) : (s.setCtx c x k).cur = s.cur := rfl

/-! ### The fields that modCtx leaves -/

@[simp] theorem State.now_modCtx (s : State) (c x : Nat) (f : Ctx → Ctx) : (s.modCtx c x f).now = s.now := rfl
@[simp] theorem State.mem_modCtx (s : State) (c x : Nat) (f : Ctx → Ctx) : (s.modCtx c x f).mem = s.mem := rfl
@[simp] theorem State.memStart_modCtx (s : State) (c x : Nat) (f : Ctx → Ctx) : (s.modCtx c x f).memStart = s.memStart := rfl
@[simp] theorem State.cores_modCtx (s : State) (c x : Nat) (f : Ctx → Ctx) : (s.modCtx c x f).cores = s.cores := rfl
@[simp] theorem State.pairs_modCtx (s : State) (c x : Nat) (f : Ctx → Ctx) : (s.modCtx c x f).pairs = s.pairs := rfl
@[simp] theorem State.camps_modCtx (s : State) (c x : Nat) (f : Ctx → Ctx) : (s.modCtx c x f).camps = s.camps := rfl
@[simp] theorem State.accs_modCtx (s : State) (c x : Nat) (f : Ctx → Ctx) : (s.modCtx c x f).accs = s.accs := rfl
@[simp] theorem State.held_modCtx (s : State) (c x : Nat) (f : Ctx → Ctx) : (s.modCtx c x f).held = s.held := rfl
@[simp] theorem State.polver_modCtx (s : State) (c x : Nat) (f : Ctx → Ctx) : (s.modCtx c x f).polver = s.polver := rfl
@[simp] theorem State.launch_modCtx (s : State) (c x : Nat) (f : Ctx → Ctx) : (s.modCtx c x f).launch = s.launch := rfl
@[simp] theorem State.image_modCtx (s : State) (c x : Nat) (f : Ctx → Ctx) : (s.modCtx c x f).image = s.image := rfl
@[simp] theorem State.codes_modCtx (s : State) (c x : Nat) (f : Ctx → Ctx) : (s.modCtx c x f).codes = s.codes := rfl
@[simp] theorem State.allocated_modCtx (s : State) (c x : Nat) (f : Ctx → Ctx) : (s.modCtx c x f).allocated = s.allocated := rfl
@[simp] theorem State.started_modCtx (s : State) (c x : Nat) (f : Ctx → Ctx) : (s.modCtx c x f).started = s.started := rfl
@[simp] theorem State.fqprod_modCtx (s : State) (c x : Nat) (f : Ctx → Ctx) : (s.modCtx c x f).fqprod = s.fqprod := rfl
@[simp] theorem State.fqcons_modCtx (s : State) (c x : Nat) (f : Ctx → Ctx) : (s.modCtx c x f).fqcons = s.fqcons := rfl
@[simp] theorem State.frprod_modCtx (s : State) (c x : Nat) (f : Ctx → Ctx) : (s.modCtx c x f).frprod = s.frprod := rfl
@[simp] theorem State.frcons_modCtx (s : State) (c x : Nat) (f : Ctx → Ctx) : (s.modCtx c x f).frcons = s.frcons := rfl
@[simp] theorem State.openFaults_modCtx (s : State) (c x : Nat) (f : Ctx → Ctx) : (s.modCtx c x f).openFaults = s.openFaults := rfl
@[simp] theorem State.records_modCtx (s : State) (c x : Nat) (f : Ctx → Ctx) : (s.modCtx c x f).records = s.records := rfl
@[simp] theorem State.conts_modCtx (s : State) (c x : Nat) (f : Ctx → Ctx) : (s.modCtx c x f).conts = s.conts := rfl
@[simp] theorem State.spills_modCtx (s : State) (c x : Nat) (f : Ctx → Ctx) : (s.modCtx c x f).spills = s.spills := rfl
@[simp] theorem State.blocks_modCtx (s : State) (c x : Nat) (f : Ctx → Ctx) : (s.modCtx c x f).blocks = s.blocks := rfl
@[simp] theorem State.recSeq_modCtx (s : State) (c x : Nat) (f : Ctx → Ctx) : (s.modCtx c x f).recSeq = s.recSeq := rfl
@[simp] theorem State.transits_modCtx (s : State) (c x : Nat) (f : Ctx → Ctx) : (s.modCtx c x f).transits = s.transits := rfl
@[simp] theorem State.packets_modCtx (s : State) (c x : Nat) (f : Ctx → Ctx) : (s.modCtx c x f).packets = s.packets := rfl
@[simp] theorem State.decs_modCtx (s : State) (c x : Nat) (f : Ctx → Ctx) : (s.modCtx c x f).decs = s.decs := rfl
@[simp] theorem State.saves_modCtx (s : State) (c x : Nat) (f : Ctx → Ctx) : (s.modCtx c x f).saves = s.saves := rfl
@[simp] theorem State.owner_modCtx (s : State) (c x : Nat) (f : Ctx → Ctx) : (s.modCtx c x f).owner = s.owner := rfl
@[simp] theorem State.election_modCtx (s : State) (c x : Nat) (f : Ctx → Ctx) : (s.modCtx c x f).election = s.election := rfl
@[simp] theorem State.claims_modCtx (s : State) (c x : Nat) (f : Ctx → Ctx) : (s.modCtx c x f).claims = s.claims := rfl
@[simp] theorem State.claimPri_modCtx (s : State) (c x : Nat) (f : Ctx → Ctx) : (s.modCtx c x f).claimPri = s.claimPri := rfl
@[simp] theorem State.nonce_modCtx (s : State) (c x : Nat) (f : Ctx → Ctx) : (s.modCtx c x f).nonce = s.nonce := rfl
@[simp] theorem State.cmd_modCtx (s : State) (c x : Nat) (f : Ctx → Ctx) : (s.modCtx c x f).cmd = s.cmd := rfl
@[simp] theorem State.cmdRun_modCtx (s : State) (c x : Nat) (f : Ctx → Ctx) : (s.modCtx c x f).cmdRun = s.cmdRun := rfl
@[simp] theorem State.cmdCode_modCtx (s : State) (c x : Nat) (f : Ctx → Ctx) : (s.modCtx c x f).cmdCode = s.cmdCode := rfl
@[simp] theorem State.cmdResult_modCtx (s : State) (c x : Nat) (f : Ctx → Ctx) : (s.modCtx c x f).cmdResult = s.cmdResult := rfl
@[simp] theorem State.memready_modCtx (s : State) (c x : Nat) (f : Ctx → Ctx) : (s.modCtx c x f).memready = s.memready := rfl
@[simp] theorem State.resetting_modCtx (s : State) (c x : Nat) (f : Ctx → Ctx) : (s.modCtx c x f).resetting = s.resetting := rfl
@[simp] theorem State.strap_modCtx (s : State) (c x : Nat) (f : Ctx → Ctx) : (s.modCtx c x f).strap = s.strap := rfl
@[simp] theorem State.sessions_modCtx (s : State) (c x : Nat) (f : Ctx → Ctx) : (s.modCtx c x f).sessions = s.sessions := rfl
@[simp] theorem State.firmware_modCtx (s : State) (c x : Nat) (f : Ctx → Ctx) : (s.modCtx c x f).firmware = s.firmware := rfl
@[simp] theorem State.tables_modCtx (s : State) (c x : Nat) (f : Ctx → Ctx) : (s.modCtx c x f).tables = s.tables := rfl
@[simp] theorem State.identityKey_modCtx (s : State) (c x : Nat) (f : Ctx → Ctx) : (s.modCtx c x f).identityKey = s.identityKey := rfl
@[simp] theorem State.fusedRepairs_modCtx (s : State) (c x : Nat) (f : Ctx → Ctx) : (s.modCtx c x f).fusedRepairs = s.fusedRepairs := rfl
@[simp] theorem State.routes_modCtx (s : State) (c x : Nat) (f : Ctx → Ctx) : (s.modCtx c x f).routes = s.routes := rfl
@[simp] theorem State.failedLinks_modCtx (s : State) (c x : Nat) (f : Ctx → Ctx) : (s.modCtx c x f).failedLinks = s.failedLinks := rfl
@[simp] theorem State.pages_modCtx (s : State) (c x : Nat) (f : Ctx → Ctx) : (s.modCtx c x f).pages = s.pages := rfl
@[simp] theorem State.migrating_modCtx (s : State) (c x : Nat) (f : Ctx → Ctx) : (s.modCtx c x f).migrating = s.migrating := rfl
@[simp] theorem State.migrated_modCtx (s : State) (c x : Nat) (f : Ctx → Ctx) : (s.modCtx c x f).migrated = s.migrated := rfl
@[simp] theorem State.settled_modCtx (s : State) (c x : Nat) (f : Ctx → Ctx) : (s.modCtx c x f).settled = s.settled := rfl
@[simp] theorem State.retiring_modCtx (s : State) (c x : Nat) (f : Ctx → Ctx) : (s.modCtx c x f).retiring = s.retiring := rfl
@[simp] theorem State.repaired_modCtx (s : State) (c x : Nat) (f : Ctx → Ctx) : (s.modCtx c x f).repaired = s.repaired := rfl
@[simp] theorem State.powers_modCtx (s : State) (c x : Nat) (f : Ctx → Ctx) : (s.modCtx c x f).powers = s.powers := rfl
@[simp] theorem State.supply_modCtx (s : State) (c x : Nat) (f : Ctx → Ctx) : (s.modCtx c x f).supply = s.supply := rfl
@[simp] theorem State.notices_modCtx (s : State) (c x : Nat) (f : Ctx → Ctx) : (s.modCtx c x f).notices = s.notices := rfl
@[simp] theorem State.hostReads_modCtx (s : State) (c x : Nat) (f : Ctx → Ctx) : (s.modCtx c x f).hostReads = s.hostReads := rfl
@[simp] theorem State.freeN_modCtx (s : State) (c x : Nat) (f : Ctx → Ctx) : (s.modCtx c x f).freeN = s.freeN := rfl
@[simp] theorem State.seqN_modCtx (s : State) (c x : Nat) (f : Ctx → Ctx) : (s.modCtx c x f).seqN = s.seqN := rfl
@[simp] theorem State.stage_modCtx (s : State) (c x : Nat) (f : Ctx → Ctx) : (s.modCtx c x f).stage = s.stage := rfl
@[simp] theorem State.agenda_modCtx (s : State) (c x : Nat) (f : Ctx → Ctx) : (s.modCtx c x f).agenda = s.agenda := rfl
@[simp] theorem State.inputs_modCtx (s : State) (c x : Nat) (f : Ctx → Ctx) : (s.modCtx c x f).inputs = s.inputs := rfl
@[simp] theorem State.cur_modCtx (s : State) (c x : Nat) (f : Ctx → Ctx) : (s.modCtx c x f).cur = s.cur := rfl

/-! ### The fields that modMe leaves -/

@[simp] theorem State.now_modMe (s : State) (f : Ctx → Ctx) : (s.modMe f).now = s.now := rfl
@[simp] theorem State.mem_modMe (s : State) (f : Ctx → Ctx) : (s.modMe f).mem = s.mem := rfl
@[simp] theorem State.memStart_modMe (s : State) (f : Ctx → Ctx) : (s.modMe f).memStart = s.memStart := rfl
@[simp] theorem State.cores_modMe (s : State) (f : Ctx → Ctx) : (s.modMe f).cores = s.cores := rfl
@[simp] theorem State.pairs_modMe (s : State) (f : Ctx → Ctx) : (s.modMe f).pairs = s.pairs := rfl
@[simp] theorem State.camps_modMe (s : State) (f : Ctx → Ctx) : (s.modMe f).camps = s.camps := rfl
@[simp] theorem State.accs_modMe (s : State) (f : Ctx → Ctx) : (s.modMe f).accs = s.accs := rfl
@[simp] theorem State.held_modMe (s : State) (f : Ctx → Ctx) : (s.modMe f).held = s.held := rfl
@[simp] theorem State.polver_modMe (s : State) (f : Ctx → Ctx) : (s.modMe f).polver = s.polver := rfl
@[simp] theorem State.launch_modMe (s : State) (f : Ctx → Ctx) : (s.modMe f).launch = s.launch := rfl
@[simp] theorem State.image_modMe (s : State) (f : Ctx → Ctx) : (s.modMe f).image = s.image := rfl
@[simp] theorem State.codes_modMe (s : State) (f : Ctx → Ctx) : (s.modMe f).codes = s.codes := rfl
@[simp] theorem State.allocated_modMe (s : State) (f : Ctx → Ctx) : (s.modMe f).allocated = s.allocated := rfl
@[simp] theorem State.started_modMe (s : State) (f : Ctx → Ctx) : (s.modMe f).started = s.started := rfl
@[simp] theorem State.fqprod_modMe (s : State) (f : Ctx → Ctx) : (s.modMe f).fqprod = s.fqprod := rfl
@[simp] theorem State.fqcons_modMe (s : State) (f : Ctx → Ctx) : (s.modMe f).fqcons = s.fqcons := rfl
@[simp] theorem State.frprod_modMe (s : State) (f : Ctx → Ctx) : (s.modMe f).frprod = s.frprod := rfl
@[simp] theorem State.frcons_modMe (s : State) (f : Ctx → Ctx) : (s.modMe f).frcons = s.frcons := rfl
@[simp] theorem State.openFaults_modMe (s : State) (f : Ctx → Ctx) : (s.modMe f).openFaults = s.openFaults := rfl
@[simp] theorem State.records_modMe (s : State) (f : Ctx → Ctx) : (s.modMe f).records = s.records := rfl
@[simp] theorem State.conts_modMe (s : State) (f : Ctx → Ctx) : (s.modMe f).conts = s.conts := rfl
@[simp] theorem State.spills_modMe (s : State) (f : Ctx → Ctx) : (s.modMe f).spills = s.spills := rfl
@[simp] theorem State.blocks_modMe (s : State) (f : Ctx → Ctx) : (s.modMe f).blocks = s.blocks := rfl
@[simp] theorem State.recSeq_modMe (s : State) (f : Ctx → Ctx) : (s.modMe f).recSeq = s.recSeq := rfl
@[simp] theorem State.transits_modMe (s : State) (f : Ctx → Ctx) : (s.modMe f).transits = s.transits := rfl
@[simp] theorem State.packets_modMe (s : State) (f : Ctx → Ctx) : (s.modMe f).packets = s.packets := rfl
@[simp] theorem State.decs_modMe (s : State) (f : Ctx → Ctx) : (s.modMe f).decs = s.decs := rfl
@[simp] theorem State.saves_modMe (s : State) (f : Ctx → Ctx) : (s.modMe f).saves = s.saves := rfl
@[simp] theorem State.owner_modMe (s : State) (f : Ctx → Ctx) : (s.modMe f).owner = s.owner := rfl
@[simp] theorem State.election_modMe (s : State) (f : Ctx → Ctx) : (s.modMe f).election = s.election := rfl
@[simp] theorem State.claims_modMe (s : State) (f : Ctx → Ctx) : (s.modMe f).claims = s.claims := rfl
@[simp] theorem State.claimPri_modMe (s : State) (f : Ctx → Ctx) : (s.modMe f).claimPri = s.claimPri := rfl
@[simp] theorem State.nonce_modMe (s : State) (f : Ctx → Ctx) : (s.modMe f).nonce = s.nonce := rfl
@[simp] theorem State.cmd_modMe (s : State) (f : Ctx → Ctx) : (s.modMe f).cmd = s.cmd := rfl
@[simp] theorem State.cmdRun_modMe (s : State) (f : Ctx → Ctx) : (s.modMe f).cmdRun = s.cmdRun := rfl
@[simp] theorem State.cmdCode_modMe (s : State) (f : Ctx → Ctx) : (s.modMe f).cmdCode = s.cmdCode := rfl
@[simp] theorem State.cmdResult_modMe (s : State) (f : Ctx → Ctx) : (s.modMe f).cmdResult = s.cmdResult := rfl
@[simp] theorem State.memready_modMe (s : State) (f : Ctx → Ctx) : (s.modMe f).memready = s.memready := rfl
@[simp] theorem State.resetting_modMe (s : State) (f : Ctx → Ctx) : (s.modMe f).resetting = s.resetting := rfl
@[simp] theorem State.strap_modMe (s : State) (f : Ctx → Ctx) : (s.modMe f).strap = s.strap := rfl
@[simp] theorem State.sessions_modMe (s : State) (f : Ctx → Ctx) : (s.modMe f).sessions = s.sessions := rfl
@[simp] theorem State.firmware_modMe (s : State) (f : Ctx → Ctx) : (s.modMe f).firmware = s.firmware := rfl
@[simp] theorem State.tables_modMe (s : State) (f : Ctx → Ctx) : (s.modMe f).tables = s.tables := rfl
@[simp] theorem State.identityKey_modMe (s : State) (f : Ctx → Ctx) : (s.modMe f).identityKey = s.identityKey := rfl
@[simp] theorem State.fusedRepairs_modMe (s : State) (f : Ctx → Ctx) : (s.modMe f).fusedRepairs = s.fusedRepairs := rfl
@[simp] theorem State.routes_modMe (s : State) (f : Ctx → Ctx) : (s.modMe f).routes = s.routes := rfl
@[simp] theorem State.failedLinks_modMe (s : State) (f : Ctx → Ctx) : (s.modMe f).failedLinks = s.failedLinks := rfl
@[simp] theorem State.pages_modMe (s : State) (f : Ctx → Ctx) : (s.modMe f).pages = s.pages := rfl
@[simp] theorem State.migrating_modMe (s : State) (f : Ctx → Ctx) : (s.modMe f).migrating = s.migrating := rfl
@[simp] theorem State.migrated_modMe (s : State) (f : Ctx → Ctx) : (s.modMe f).migrated = s.migrated := rfl
@[simp] theorem State.settled_modMe (s : State) (f : Ctx → Ctx) : (s.modMe f).settled = s.settled := rfl
@[simp] theorem State.retiring_modMe (s : State) (f : Ctx → Ctx) : (s.modMe f).retiring = s.retiring := rfl
@[simp] theorem State.repaired_modMe (s : State) (f : Ctx → Ctx) : (s.modMe f).repaired = s.repaired := rfl
@[simp] theorem State.powers_modMe (s : State) (f : Ctx → Ctx) : (s.modMe f).powers = s.powers := rfl
@[simp] theorem State.supply_modMe (s : State) (f : Ctx → Ctx) : (s.modMe f).supply = s.supply := rfl
@[simp] theorem State.notices_modMe (s : State) (f : Ctx → Ctx) : (s.modMe f).notices = s.notices := rfl
@[simp] theorem State.hostReads_modMe (s : State) (f : Ctx → Ctx) : (s.modMe f).hostReads = s.hostReads := rfl
@[simp] theorem State.freeN_modMe (s : State) (f : Ctx → Ctx) : (s.modMe f).freeN = s.freeN := rfl
@[simp] theorem State.seqN_modMe (s : State) (f : Ctx → Ctx) : (s.modMe f).seqN = s.seqN := rfl
@[simp] theorem State.stage_modMe (s : State) (f : Ctx → Ctx) : (s.modMe f).stage = s.stage := rfl
@[simp] theorem State.agenda_modMe (s : State) (f : Ctx → Ctx) : (s.modMe f).agenda = s.agenda := rfl
@[simp] theorem State.inputs_modMe (s : State) (f : Ctx → Ctx) : (s.modMe f).inputs = s.inputs := rfl
@[simp] theorem State.cur_modMe (s : State) (f : Ctx → Ctx) : (s.modMe f).cur = s.cur := rfl

/-! ### The fields that setCore leaves -/

@[simp] theorem State.now_setCore (s : State) (c : Nat) (k : Core) : (s.setCore c k).now = s.now := rfl
@[simp] theorem State.mem_setCore (s : State) (c : Nat) (k : Core) : (s.setCore c k).mem = s.mem := rfl
@[simp] theorem State.memStart_setCore (s : State) (c : Nat) (k : Core) : (s.setCore c k).memStart = s.memStart := rfl
@[simp] theorem State.ctxs_setCore (s : State) (c : Nat) (k : Core) : (s.setCore c k).ctxs = s.ctxs := rfl
@[simp] theorem State.pairs_setCore (s : State) (c : Nat) (k : Core) : (s.setCore c k).pairs = s.pairs := rfl
@[simp] theorem State.camps_setCore (s : State) (c : Nat) (k : Core) : (s.setCore c k).camps = s.camps := rfl
@[simp] theorem State.accs_setCore (s : State) (c : Nat) (k : Core) : (s.setCore c k).accs = s.accs := rfl
@[simp] theorem State.held_setCore (s : State) (c : Nat) (k : Core) : (s.setCore c k).held = s.held := rfl
@[simp] theorem State.polver_setCore (s : State) (c : Nat) (k : Core) : (s.setCore c k).polver = s.polver := rfl
@[simp] theorem State.launch_setCore (s : State) (c : Nat) (k : Core) : (s.setCore c k).launch = s.launch := rfl
@[simp] theorem State.image_setCore (s : State) (c : Nat) (k : Core) : (s.setCore c k).image = s.image := rfl
@[simp] theorem State.codes_setCore (s : State) (c : Nat) (k : Core) : (s.setCore c k).codes = s.codes := rfl
@[simp] theorem State.allocated_setCore (s : State) (c : Nat) (k : Core) : (s.setCore c k).allocated = s.allocated := rfl
@[simp] theorem State.started_setCore (s : State) (c : Nat) (k : Core) : (s.setCore c k).started = s.started := rfl
@[simp] theorem State.fqprod_setCore (s : State) (c : Nat) (k : Core) : (s.setCore c k).fqprod = s.fqprod := rfl
@[simp] theorem State.fqcons_setCore (s : State) (c : Nat) (k : Core) : (s.setCore c k).fqcons = s.fqcons := rfl
@[simp] theorem State.frprod_setCore (s : State) (c : Nat) (k : Core) : (s.setCore c k).frprod = s.frprod := rfl
@[simp] theorem State.frcons_setCore (s : State) (c : Nat) (k : Core) : (s.setCore c k).frcons = s.frcons := rfl
@[simp] theorem State.openFaults_setCore (s : State) (c : Nat) (k : Core) : (s.setCore c k).openFaults = s.openFaults := rfl
@[simp] theorem State.records_setCore (s : State) (c : Nat) (k : Core) : (s.setCore c k).records = s.records := rfl
@[simp] theorem State.conts_setCore (s : State) (c : Nat) (k : Core) : (s.setCore c k).conts = s.conts := rfl
@[simp] theorem State.spills_setCore (s : State) (c : Nat) (k : Core) : (s.setCore c k).spills = s.spills := rfl
@[simp] theorem State.blocks_setCore (s : State) (c : Nat) (k : Core) : (s.setCore c k).blocks = s.blocks := rfl
@[simp] theorem State.recSeq_setCore (s : State) (c : Nat) (k : Core) : (s.setCore c k).recSeq = s.recSeq := rfl
@[simp] theorem State.transits_setCore (s : State) (c : Nat) (k : Core) : (s.setCore c k).transits = s.transits := rfl
@[simp] theorem State.packets_setCore (s : State) (c : Nat) (k : Core) : (s.setCore c k).packets = s.packets := rfl
@[simp] theorem State.decs_setCore (s : State) (c : Nat) (k : Core) : (s.setCore c k).decs = s.decs := rfl
@[simp] theorem State.saves_setCore (s : State) (c : Nat) (k : Core) : (s.setCore c k).saves = s.saves := rfl
@[simp] theorem State.owner_setCore (s : State) (c : Nat) (k : Core) : (s.setCore c k).owner = s.owner := rfl
@[simp] theorem State.election_setCore (s : State) (c : Nat) (k : Core) : (s.setCore c k).election = s.election := rfl
@[simp] theorem State.claims_setCore (s : State) (c : Nat) (k : Core) : (s.setCore c k).claims = s.claims := rfl
@[simp] theorem State.claimPri_setCore (s : State) (c : Nat) (k : Core) : (s.setCore c k).claimPri = s.claimPri := rfl
@[simp] theorem State.nonce_setCore (s : State) (c : Nat) (k : Core) : (s.setCore c k).nonce = s.nonce := rfl
@[simp] theorem State.cmd_setCore (s : State) (c : Nat) (k : Core) : (s.setCore c k).cmd = s.cmd := rfl
@[simp] theorem State.cmdRun_setCore (s : State) (c : Nat) (k : Core) : (s.setCore c k).cmdRun = s.cmdRun := rfl
@[simp] theorem State.cmdCode_setCore (s : State) (c : Nat) (k : Core) : (s.setCore c k).cmdCode = s.cmdCode := rfl
@[simp] theorem State.cmdResult_setCore (s : State) (c : Nat) (k : Core) : (s.setCore c k).cmdResult = s.cmdResult := rfl
@[simp] theorem State.memready_setCore (s : State) (c : Nat) (k : Core) : (s.setCore c k).memready = s.memready := rfl
@[simp] theorem State.resetting_setCore (s : State) (c : Nat) (k : Core) : (s.setCore c k).resetting = s.resetting := rfl
@[simp] theorem State.strap_setCore (s : State) (c : Nat) (k : Core) : (s.setCore c k).strap = s.strap := rfl
@[simp] theorem State.sessions_setCore (s : State) (c : Nat) (k : Core) : (s.setCore c k).sessions = s.sessions := rfl
@[simp] theorem State.firmware_setCore (s : State) (c : Nat) (k : Core) : (s.setCore c k).firmware = s.firmware := rfl
@[simp] theorem State.tables_setCore (s : State) (c : Nat) (k : Core) : (s.setCore c k).tables = s.tables := rfl
@[simp] theorem State.identityKey_setCore (s : State) (c : Nat) (k : Core) : (s.setCore c k).identityKey = s.identityKey := rfl
@[simp] theorem State.fusedRepairs_setCore (s : State) (c : Nat) (k : Core) : (s.setCore c k).fusedRepairs = s.fusedRepairs := rfl
@[simp] theorem State.routes_setCore (s : State) (c : Nat) (k : Core) : (s.setCore c k).routes = s.routes := rfl
@[simp] theorem State.failedLinks_setCore (s : State) (c : Nat) (k : Core) : (s.setCore c k).failedLinks = s.failedLinks := rfl
@[simp] theorem State.pages_setCore (s : State) (c : Nat) (k : Core) : (s.setCore c k).pages = s.pages := rfl
@[simp] theorem State.migrating_setCore (s : State) (c : Nat) (k : Core) : (s.setCore c k).migrating = s.migrating := rfl
@[simp] theorem State.migrated_setCore (s : State) (c : Nat) (k : Core) : (s.setCore c k).migrated = s.migrated := rfl
@[simp] theorem State.settled_setCore (s : State) (c : Nat) (k : Core) : (s.setCore c k).settled = s.settled := rfl
@[simp] theorem State.retiring_setCore (s : State) (c : Nat) (k : Core) : (s.setCore c k).retiring = s.retiring := rfl
@[simp] theorem State.repaired_setCore (s : State) (c : Nat) (k : Core) : (s.setCore c k).repaired = s.repaired := rfl
@[simp] theorem State.powers_setCore (s : State) (c : Nat) (k : Core) : (s.setCore c k).powers = s.powers := rfl
@[simp] theorem State.supply_setCore (s : State) (c : Nat) (k : Core) : (s.setCore c k).supply = s.supply := rfl
@[simp] theorem State.notices_setCore (s : State) (c : Nat) (k : Core) : (s.setCore c k).notices = s.notices := rfl
@[simp] theorem State.hostReads_setCore (s : State) (c : Nat) (k : Core) : (s.setCore c k).hostReads = s.hostReads := rfl
@[simp] theorem State.freeN_setCore (s : State) (c : Nat) (k : Core) : (s.setCore c k).freeN = s.freeN := rfl
@[simp] theorem State.seqN_setCore (s : State) (c : Nat) (k : Core) : (s.setCore c k).seqN = s.seqN := rfl
@[simp] theorem State.stage_setCore (s : State) (c : Nat) (k : Core) : (s.setCore c k).stage = s.stage := rfl
@[simp] theorem State.agenda_setCore (s : State) (c : Nat) (k : Core) : (s.setCore c k).agenda = s.agenda := rfl
@[simp] theorem State.inputs_setCore (s : State) (c : Nat) (k : Core) : (s.setCore c k).inputs = s.inputs := rfl
@[simp] theorem State.cur_setCore (s : State) (c : Nat) (k : Core) : (s.setCore c k).cur = s.cur := rfl

/-! ### The fields that modCore leaves -/

@[simp] theorem State.now_modCore (s : State) (c : Nat) (f : Core → Core) : (s.modCore c f).now = s.now := rfl
@[simp] theorem State.mem_modCore (s : State) (c : Nat) (f : Core → Core) : (s.modCore c f).mem = s.mem := rfl
@[simp] theorem State.memStart_modCore (s : State) (c : Nat) (f : Core → Core) : (s.modCore c f).memStart = s.memStart := rfl
@[simp] theorem State.ctxs_modCore (s : State) (c : Nat) (f : Core → Core) : (s.modCore c f).ctxs = s.ctxs := rfl
@[simp] theorem State.pairs_modCore (s : State) (c : Nat) (f : Core → Core) : (s.modCore c f).pairs = s.pairs := rfl
@[simp] theorem State.camps_modCore (s : State) (c : Nat) (f : Core → Core) : (s.modCore c f).camps = s.camps := rfl
@[simp] theorem State.accs_modCore (s : State) (c : Nat) (f : Core → Core) : (s.modCore c f).accs = s.accs := rfl
@[simp] theorem State.held_modCore (s : State) (c : Nat) (f : Core → Core) : (s.modCore c f).held = s.held := rfl
@[simp] theorem State.polver_modCore (s : State) (c : Nat) (f : Core → Core) : (s.modCore c f).polver = s.polver := rfl
@[simp] theorem State.launch_modCore (s : State) (c : Nat) (f : Core → Core) : (s.modCore c f).launch = s.launch := rfl
@[simp] theorem State.image_modCore (s : State) (c : Nat) (f : Core → Core) : (s.modCore c f).image = s.image := rfl
@[simp] theorem State.codes_modCore (s : State) (c : Nat) (f : Core → Core) : (s.modCore c f).codes = s.codes := rfl
@[simp] theorem State.allocated_modCore (s : State) (c : Nat) (f : Core → Core) : (s.modCore c f).allocated = s.allocated := rfl
@[simp] theorem State.started_modCore (s : State) (c : Nat) (f : Core → Core) : (s.modCore c f).started = s.started := rfl
@[simp] theorem State.fqprod_modCore (s : State) (c : Nat) (f : Core → Core) : (s.modCore c f).fqprod = s.fqprod := rfl
@[simp] theorem State.fqcons_modCore (s : State) (c : Nat) (f : Core → Core) : (s.modCore c f).fqcons = s.fqcons := rfl
@[simp] theorem State.frprod_modCore (s : State) (c : Nat) (f : Core → Core) : (s.modCore c f).frprod = s.frprod := rfl
@[simp] theorem State.frcons_modCore (s : State) (c : Nat) (f : Core → Core) : (s.modCore c f).frcons = s.frcons := rfl
@[simp] theorem State.openFaults_modCore (s : State) (c : Nat) (f : Core → Core) : (s.modCore c f).openFaults = s.openFaults := rfl
@[simp] theorem State.records_modCore (s : State) (c : Nat) (f : Core → Core) : (s.modCore c f).records = s.records := rfl
@[simp] theorem State.conts_modCore (s : State) (c : Nat) (f : Core → Core) : (s.modCore c f).conts = s.conts := rfl
@[simp] theorem State.spills_modCore (s : State) (c : Nat) (f : Core → Core) : (s.modCore c f).spills = s.spills := rfl
@[simp] theorem State.blocks_modCore (s : State) (c : Nat) (f : Core → Core) : (s.modCore c f).blocks = s.blocks := rfl
@[simp] theorem State.recSeq_modCore (s : State) (c : Nat) (f : Core → Core) : (s.modCore c f).recSeq = s.recSeq := rfl
@[simp] theorem State.transits_modCore (s : State) (c : Nat) (f : Core → Core) : (s.modCore c f).transits = s.transits := rfl
@[simp] theorem State.packets_modCore (s : State) (c : Nat) (f : Core → Core) : (s.modCore c f).packets = s.packets := rfl
@[simp] theorem State.decs_modCore (s : State) (c : Nat) (f : Core → Core) : (s.modCore c f).decs = s.decs := rfl
@[simp] theorem State.saves_modCore (s : State) (c : Nat) (f : Core → Core) : (s.modCore c f).saves = s.saves := rfl
@[simp] theorem State.owner_modCore (s : State) (c : Nat) (f : Core → Core) : (s.modCore c f).owner = s.owner := rfl
@[simp] theorem State.election_modCore (s : State) (c : Nat) (f : Core → Core) : (s.modCore c f).election = s.election := rfl
@[simp] theorem State.claims_modCore (s : State) (c : Nat) (f : Core → Core) : (s.modCore c f).claims = s.claims := rfl
@[simp] theorem State.claimPri_modCore (s : State) (c : Nat) (f : Core → Core) : (s.modCore c f).claimPri = s.claimPri := rfl
@[simp] theorem State.nonce_modCore (s : State) (c : Nat) (f : Core → Core) : (s.modCore c f).nonce = s.nonce := rfl
@[simp] theorem State.cmd_modCore (s : State) (c : Nat) (f : Core → Core) : (s.modCore c f).cmd = s.cmd := rfl
@[simp] theorem State.cmdRun_modCore (s : State) (c : Nat) (f : Core → Core) : (s.modCore c f).cmdRun = s.cmdRun := rfl
@[simp] theorem State.cmdCode_modCore (s : State) (c : Nat) (f : Core → Core) : (s.modCore c f).cmdCode = s.cmdCode := rfl
@[simp] theorem State.cmdResult_modCore (s : State) (c : Nat) (f : Core → Core) : (s.modCore c f).cmdResult = s.cmdResult := rfl
@[simp] theorem State.memready_modCore (s : State) (c : Nat) (f : Core → Core) : (s.modCore c f).memready = s.memready := rfl
@[simp] theorem State.resetting_modCore (s : State) (c : Nat) (f : Core → Core) : (s.modCore c f).resetting = s.resetting := rfl
@[simp] theorem State.strap_modCore (s : State) (c : Nat) (f : Core → Core) : (s.modCore c f).strap = s.strap := rfl
@[simp] theorem State.sessions_modCore (s : State) (c : Nat) (f : Core → Core) : (s.modCore c f).sessions = s.sessions := rfl
@[simp] theorem State.firmware_modCore (s : State) (c : Nat) (f : Core → Core) : (s.modCore c f).firmware = s.firmware := rfl
@[simp] theorem State.tables_modCore (s : State) (c : Nat) (f : Core → Core) : (s.modCore c f).tables = s.tables := rfl
@[simp] theorem State.identityKey_modCore (s : State) (c : Nat) (f : Core → Core) : (s.modCore c f).identityKey = s.identityKey := rfl
@[simp] theorem State.fusedRepairs_modCore (s : State) (c : Nat) (f : Core → Core) : (s.modCore c f).fusedRepairs = s.fusedRepairs := rfl
@[simp] theorem State.routes_modCore (s : State) (c : Nat) (f : Core → Core) : (s.modCore c f).routes = s.routes := rfl
@[simp] theorem State.failedLinks_modCore (s : State) (c : Nat) (f : Core → Core) : (s.modCore c f).failedLinks = s.failedLinks := rfl
@[simp] theorem State.pages_modCore (s : State) (c : Nat) (f : Core → Core) : (s.modCore c f).pages = s.pages := rfl
@[simp] theorem State.migrating_modCore (s : State) (c : Nat) (f : Core → Core) : (s.modCore c f).migrating = s.migrating := rfl
@[simp] theorem State.migrated_modCore (s : State) (c : Nat) (f : Core → Core) : (s.modCore c f).migrated = s.migrated := rfl
@[simp] theorem State.settled_modCore (s : State) (c : Nat) (f : Core → Core) : (s.modCore c f).settled = s.settled := rfl
@[simp] theorem State.retiring_modCore (s : State) (c : Nat) (f : Core → Core) : (s.modCore c f).retiring = s.retiring := rfl
@[simp] theorem State.repaired_modCore (s : State) (c : Nat) (f : Core → Core) : (s.modCore c f).repaired = s.repaired := rfl
@[simp] theorem State.powers_modCore (s : State) (c : Nat) (f : Core → Core) : (s.modCore c f).powers = s.powers := rfl
@[simp] theorem State.supply_modCore (s : State) (c : Nat) (f : Core → Core) : (s.modCore c f).supply = s.supply := rfl
@[simp] theorem State.notices_modCore (s : State) (c : Nat) (f : Core → Core) : (s.modCore c f).notices = s.notices := rfl
@[simp] theorem State.hostReads_modCore (s : State) (c : Nat) (f : Core → Core) : (s.modCore c f).hostReads = s.hostReads := rfl
@[simp] theorem State.freeN_modCore (s : State) (c : Nat) (f : Core → Core) : (s.modCore c f).freeN = s.freeN := rfl
@[simp] theorem State.seqN_modCore (s : State) (c : Nat) (f : Core → Core) : (s.modCore c f).seqN = s.seqN := rfl
@[simp] theorem State.stage_modCore (s : State) (c : Nat) (f : Core → Core) : (s.modCore c f).stage = s.stage := rfl
@[simp] theorem State.agenda_modCore (s : State) (c : Nat) (f : Core → Core) : (s.modCore c f).agenda = s.agenda := rfl
@[simp] theorem State.inputs_modCore (s : State) (c : Nat) (f : Core → Core) : (s.modCore c f).inputs = s.inputs := rfl
@[simp] theorem State.cur_modCore (s : State) (c : Nat) (f : Core → Core) : (s.modCore c f).cur = s.cur := rfl

/-! ### The fields that setPair leaves -/

@[simp] theorem State.now_setPair (s : State) (n : Nat) (p : Pair) : (s.setPair n p).now = s.now := rfl
@[simp] theorem State.mem_setPair (s : State) (n : Nat) (p : Pair) : (s.setPair n p).mem = s.mem := rfl
@[simp] theorem State.memStart_setPair (s : State) (n : Nat) (p : Pair) : (s.setPair n p).memStart = s.memStart := rfl
@[simp] theorem State.ctxs_setPair (s : State) (n : Nat) (p : Pair) : (s.setPair n p).ctxs = s.ctxs := rfl
@[simp] theorem State.cores_setPair (s : State) (n : Nat) (p : Pair) : (s.setPair n p).cores = s.cores := rfl
@[simp] theorem State.camps_setPair (s : State) (n : Nat) (p : Pair) : (s.setPair n p).camps = s.camps := rfl
@[simp] theorem State.accs_setPair (s : State) (n : Nat) (p : Pair) : (s.setPair n p).accs = s.accs := rfl
@[simp] theorem State.held_setPair (s : State) (n : Nat) (p : Pair) : (s.setPair n p).held = s.held := rfl
@[simp] theorem State.polver_setPair (s : State) (n : Nat) (p : Pair) : (s.setPair n p).polver = s.polver := rfl
@[simp] theorem State.launch_setPair (s : State) (n : Nat) (p : Pair) : (s.setPair n p).launch = s.launch := rfl
@[simp] theorem State.image_setPair (s : State) (n : Nat) (p : Pair) : (s.setPair n p).image = s.image := rfl
@[simp] theorem State.codes_setPair (s : State) (n : Nat) (p : Pair) : (s.setPair n p).codes = s.codes := rfl
@[simp] theorem State.allocated_setPair (s : State) (n : Nat) (p : Pair) : (s.setPair n p).allocated = s.allocated := rfl
@[simp] theorem State.started_setPair (s : State) (n : Nat) (p : Pair) : (s.setPair n p).started = s.started := rfl
@[simp] theorem State.fqprod_setPair (s : State) (n : Nat) (p : Pair) : (s.setPair n p).fqprod = s.fqprod := rfl
@[simp] theorem State.fqcons_setPair (s : State) (n : Nat) (p : Pair) : (s.setPair n p).fqcons = s.fqcons := rfl
@[simp] theorem State.frprod_setPair (s : State) (n : Nat) (p : Pair) : (s.setPair n p).frprod = s.frprod := rfl
@[simp] theorem State.frcons_setPair (s : State) (n : Nat) (p : Pair) : (s.setPair n p).frcons = s.frcons := rfl
@[simp] theorem State.openFaults_setPair (s : State) (n : Nat) (p : Pair) : (s.setPair n p).openFaults = s.openFaults := rfl
@[simp] theorem State.records_setPair (s : State) (n : Nat) (p : Pair) : (s.setPair n p).records = s.records := rfl
@[simp] theorem State.conts_setPair (s : State) (n : Nat) (p : Pair) : (s.setPair n p).conts = s.conts := rfl
@[simp] theorem State.spills_setPair (s : State) (n : Nat) (p : Pair) : (s.setPair n p).spills = s.spills := rfl
@[simp] theorem State.blocks_setPair (s : State) (n : Nat) (p : Pair) : (s.setPair n p).blocks = s.blocks := rfl
@[simp] theorem State.recSeq_setPair (s : State) (n : Nat) (p : Pair) : (s.setPair n p).recSeq = s.recSeq := rfl
@[simp] theorem State.transits_setPair (s : State) (n : Nat) (p : Pair) : (s.setPair n p).transits = s.transits := rfl
@[simp] theorem State.packets_setPair (s : State) (n : Nat) (p : Pair) : (s.setPair n p).packets = s.packets := rfl
@[simp] theorem State.decs_setPair (s : State) (n : Nat) (p : Pair) : (s.setPair n p).decs = s.decs := rfl
@[simp] theorem State.saves_setPair (s : State) (n : Nat) (p : Pair) : (s.setPair n p).saves = s.saves := rfl
@[simp] theorem State.owner_setPair (s : State) (n : Nat) (p : Pair) : (s.setPair n p).owner = s.owner := rfl
@[simp] theorem State.election_setPair (s : State) (n : Nat) (p : Pair) : (s.setPair n p).election = s.election := rfl
@[simp] theorem State.claims_setPair (s : State) (n : Nat) (p : Pair) : (s.setPair n p).claims = s.claims := rfl
@[simp] theorem State.claimPri_setPair (s : State) (n : Nat) (p : Pair) : (s.setPair n p).claimPri = s.claimPri := rfl
@[simp] theorem State.nonce_setPair (s : State) (n : Nat) (p : Pair) : (s.setPair n p).nonce = s.nonce := rfl
@[simp] theorem State.cmd_setPair (s : State) (n : Nat) (p : Pair) : (s.setPair n p).cmd = s.cmd := rfl
@[simp] theorem State.cmdRun_setPair (s : State) (n : Nat) (p : Pair) : (s.setPair n p).cmdRun = s.cmdRun := rfl
@[simp] theorem State.cmdCode_setPair (s : State) (n : Nat) (p : Pair) : (s.setPair n p).cmdCode = s.cmdCode := rfl
@[simp] theorem State.cmdResult_setPair (s : State) (n : Nat) (p : Pair) : (s.setPair n p).cmdResult = s.cmdResult := rfl
@[simp] theorem State.memready_setPair (s : State) (n : Nat) (p : Pair) : (s.setPair n p).memready = s.memready := rfl
@[simp] theorem State.resetting_setPair (s : State) (n : Nat) (p : Pair) : (s.setPair n p).resetting = s.resetting := rfl
@[simp] theorem State.strap_setPair (s : State) (n : Nat) (p : Pair) : (s.setPair n p).strap = s.strap := rfl
@[simp] theorem State.sessions_setPair (s : State) (n : Nat) (p : Pair) : (s.setPair n p).sessions = s.sessions := rfl
@[simp] theorem State.firmware_setPair (s : State) (n : Nat) (p : Pair) : (s.setPair n p).firmware = s.firmware := rfl
@[simp] theorem State.tables_setPair (s : State) (n : Nat) (p : Pair) : (s.setPair n p).tables = s.tables := rfl
@[simp] theorem State.identityKey_setPair (s : State) (n : Nat) (p : Pair) : (s.setPair n p).identityKey = s.identityKey := rfl
@[simp] theorem State.fusedRepairs_setPair (s : State) (n : Nat) (p : Pair) : (s.setPair n p).fusedRepairs = s.fusedRepairs := rfl
@[simp] theorem State.routes_setPair (s : State) (n : Nat) (p : Pair) : (s.setPair n p).routes = s.routes := rfl
@[simp] theorem State.failedLinks_setPair (s : State) (n : Nat) (p : Pair) : (s.setPair n p).failedLinks = s.failedLinks := rfl
@[simp] theorem State.pages_setPair (s : State) (n : Nat) (p : Pair) : (s.setPair n p).pages = s.pages := rfl
@[simp] theorem State.migrating_setPair (s : State) (n : Nat) (p : Pair) : (s.setPair n p).migrating = s.migrating := rfl
@[simp] theorem State.migrated_setPair (s : State) (n : Nat) (p : Pair) : (s.setPair n p).migrated = s.migrated := rfl
@[simp] theorem State.settled_setPair (s : State) (n : Nat) (p : Pair) : (s.setPair n p).settled = s.settled := rfl
@[simp] theorem State.retiring_setPair (s : State) (n : Nat) (p : Pair) : (s.setPair n p).retiring = s.retiring := rfl
@[simp] theorem State.repaired_setPair (s : State) (n : Nat) (p : Pair) : (s.setPair n p).repaired = s.repaired := rfl
@[simp] theorem State.powers_setPair (s : State) (n : Nat) (p : Pair) : (s.setPair n p).powers = s.powers := rfl
@[simp] theorem State.supply_setPair (s : State) (n : Nat) (p : Pair) : (s.setPair n p).supply = s.supply := rfl
@[simp] theorem State.notices_setPair (s : State) (n : Nat) (p : Pair) : (s.setPair n p).notices = s.notices := rfl
@[simp] theorem State.hostReads_setPair (s : State) (n : Nat) (p : Pair) : (s.setPair n p).hostReads = s.hostReads := rfl
@[simp] theorem State.freeN_setPair (s : State) (n : Nat) (p : Pair) : (s.setPair n p).freeN = s.freeN := rfl
@[simp] theorem State.seqN_setPair (s : State) (n : Nat) (p : Pair) : (s.setPair n p).seqN = s.seqN := rfl
@[simp] theorem State.stage_setPair (s : State) (n : Nat) (p : Pair) : (s.setPair n p).stage = s.stage := rfl
@[simp] theorem State.agenda_setPair (s : State) (n : Nat) (p : Pair) : (s.setPair n p).agenda = s.agenda := rfl
@[simp] theorem State.inputs_setPair (s : State) (n : Nat) (p : Pair) : (s.setPair n p).inputs = s.inputs := rfl
@[simp] theorem State.cur_setPair (s : State) (n : Nat) (p : Pair) : (s.setPair n p).cur = s.cur := rfl

/-! ### The fields that setCamp leaves -/

@[simp] theorem State.now_setCamp (s : State) (n : Nat) (k : Camp) : (s.setCamp n k).now = s.now := rfl
@[simp] theorem State.mem_setCamp (s : State) (n : Nat) (k : Camp) : (s.setCamp n k).mem = s.mem := rfl
@[simp] theorem State.memStart_setCamp (s : State) (n : Nat) (k : Camp) : (s.setCamp n k).memStart = s.memStart := rfl
@[simp] theorem State.ctxs_setCamp (s : State) (n : Nat) (k : Camp) : (s.setCamp n k).ctxs = s.ctxs := rfl
@[simp] theorem State.cores_setCamp (s : State) (n : Nat) (k : Camp) : (s.setCamp n k).cores = s.cores := rfl
@[simp] theorem State.pairs_setCamp (s : State) (n : Nat) (k : Camp) : (s.setCamp n k).pairs = s.pairs := rfl
@[simp] theorem State.accs_setCamp (s : State) (n : Nat) (k : Camp) : (s.setCamp n k).accs = s.accs := rfl
@[simp] theorem State.held_setCamp (s : State) (n : Nat) (k : Camp) : (s.setCamp n k).held = s.held := rfl
@[simp] theorem State.polver_setCamp (s : State) (n : Nat) (k : Camp) : (s.setCamp n k).polver = s.polver := rfl
@[simp] theorem State.launch_setCamp (s : State) (n : Nat) (k : Camp) : (s.setCamp n k).launch = s.launch := rfl
@[simp] theorem State.image_setCamp (s : State) (n : Nat) (k : Camp) : (s.setCamp n k).image = s.image := rfl
@[simp] theorem State.codes_setCamp (s : State) (n : Nat) (k : Camp) : (s.setCamp n k).codes = s.codes := rfl
@[simp] theorem State.allocated_setCamp (s : State) (n : Nat) (k : Camp) : (s.setCamp n k).allocated = s.allocated := rfl
@[simp] theorem State.started_setCamp (s : State) (n : Nat) (k : Camp) : (s.setCamp n k).started = s.started := rfl
@[simp] theorem State.fqprod_setCamp (s : State) (n : Nat) (k : Camp) : (s.setCamp n k).fqprod = s.fqprod := rfl
@[simp] theorem State.fqcons_setCamp (s : State) (n : Nat) (k : Camp) : (s.setCamp n k).fqcons = s.fqcons := rfl
@[simp] theorem State.frprod_setCamp (s : State) (n : Nat) (k : Camp) : (s.setCamp n k).frprod = s.frprod := rfl
@[simp] theorem State.frcons_setCamp (s : State) (n : Nat) (k : Camp) : (s.setCamp n k).frcons = s.frcons := rfl
@[simp] theorem State.openFaults_setCamp (s : State) (n : Nat) (k : Camp) : (s.setCamp n k).openFaults = s.openFaults := rfl
@[simp] theorem State.records_setCamp (s : State) (n : Nat) (k : Camp) : (s.setCamp n k).records = s.records := rfl
@[simp] theorem State.conts_setCamp (s : State) (n : Nat) (k : Camp) : (s.setCamp n k).conts = s.conts := rfl
@[simp] theorem State.spills_setCamp (s : State) (n : Nat) (k : Camp) : (s.setCamp n k).spills = s.spills := rfl
@[simp] theorem State.blocks_setCamp (s : State) (n : Nat) (k : Camp) : (s.setCamp n k).blocks = s.blocks := rfl
@[simp] theorem State.recSeq_setCamp (s : State) (n : Nat) (k : Camp) : (s.setCamp n k).recSeq = s.recSeq := rfl
@[simp] theorem State.transits_setCamp (s : State) (n : Nat) (k : Camp) : (s.setCamp n k).transits = s.transits := rfl
@[simp] theorem State.packets_setCamp (s : State) (n : Nat) (k : Camp) : (s.setCamp n k).packets = s.packets := rfl
@[simp] theorem State.decs_setCamp (s : State) (n : Nat) (k : Camp) : (s.setCamp n k).decs = s.decs := rfl
@[simp] theorem State.saves_setCamp (s : State) (n : Nat) (k : Camp) : (s.setCamp n k).saves = s.saves := rfl
@[simp] theorem State.owner_setCamp (s : State) (n : Nat) (k : Camp) : (s.setCamp n k).owner = s.owner := rfl
@[simp] theorem State.election_setCamp (s : State) (n : Nat) (k : Camp) : (s.setCamp n k).election = s.election := rfl
@[simp] theorem State.claims_setCamp (s : State) (n : Nat) (k : Camp) : (s.setCamp n k).claims = s.claims := rfl
@[simp] theorem State.claimPri_setCamp (s : State) (n : Nat) (k : Camp) : (s.setCamp n k).claimPri = s.claimPri := rfl
@[simp] theorem State.nonce_setCamp (s : State) (n : Nat) (k : Camp) : (s.setCamp n k).nonce = s.nonce := rfl
@[simp] theorem State.cmd_setCamp (s : State) (n : Nat) (k : Camp) : (s.setCamp n k).cmd = s.cmd := rfl
@[simp] theorem State.cmdRun_setCamp (s : State) (n : Nat) (k : Camp) : (s.setCamp n k).cmdRun = s.cmdRun := rfl
@[simp] theorem State.cmdCode_setCamp (s : State) (n : Nat) (k : Camp) : (s.setCamp n k).cmdCode = s.cmdCode := rfl
@[simp] theorem State.cmdResult_setCamp (s : State) (n : Nat) (k : Camp) : (s.setCamp n k).cmdResult = s.cmdResult := rfl
@[simp] theorem State.memready_setCamp (s : State) (n : Nat) (k : Camp) : (s.setCamp n k).memready = s.memready := rfl
@[simp] theorem State.resetting_setCamp (s : State) (n : Nat) (k : Camp) : (s.setCamp n k).resetting = s.resetting := rfl
@[simp] theorem State.strap_setCamp (s : State) (n : Nat) (k : Camp) : (s.setCamp n k).strap = s.strap := rfl
@[simp] theorem State.sessions_setCamp (s : State) (n : Nat) (k : Camp) : (s.setCamp n k).sessions = s.sessions := rfl
@[simp] theorem State.firmware_setCamp (s : State) (n : Nat) (k : Camp) : (s.setCamp n k).firmware = s.firmware := rfl
@[simp] theorem State.tables_setCamp (s : State) (n : Nat) (k : Camp) : (s.setCamp n k).tables = s.tables := rfl
@[simp] theorem State.identityKey_setCamp (s : State) (n : Nat) (k : Camp) : (s.setCamp n k).identityKey = s.identityKey := rfl
@[simp] theorem State.fusedRepairs_setCamp (s : State) (n : Nat) (k : Camp) : (s.setCamp n k).fusedRepairs = s.fusedRepairs := rfl
@[simp] theorem State.routes_setCamp (s : State) (n : Nat) (k : Camp) : (s.setCamp n k).routes = s.routes := rfl
@[simp] theorem State.failedLinks_setCamp (s : State) (n : Nat) (k : Camp) : (s.setCamp n k).failedLinks = s.failedLinks := rfl
@[simp] theorem State.pages_setCamp (s : State) (n : Nat) (k : Camp) : (s.setCamp n k).pages = s.pages := rfl
@[simp] theorem State.migrating_setCamp (s : State) (n : Nat) (k : Camp) : (s.setCamp n k).migrating = s.migrating := rfl
@[simp] theorem State.migrated_setCamp (s : State) (n : Nat) (k : Camp) : (s.setCamp n k).migrated = s.migrated := rfl
@[simp] theorem State.settled_setCamp (s : State) (n : Nat) (k : Camp) : (s.setCamp n k).settled = s.settled := rfl
@[simp] theorem State.retiring_setCamp (s : State) (n : Nat) (k : Camp) : (s.setCamp n k).retiring = s.retiring := rfl
@[simp] theorem State.repaired_setCamp (s : State) (n : Nat) (k : Camp) : (s.setCamp n k).repaired = s.repaired := rfl
@[simp] theorem State.powers_setCamp (s : State) (n : Nat) (k : Camp) : (s.setCamp n k).powers = s.powers := rfl
@[simp] theorem State.supply_setCamp (s : State) (n : Nat) (k : Camp) : (s.setCamp n k).supply = s.supply := rfl
@[simp] theorem State.notices_setCamp (s : State) (n : Nat) (k : Camp) : (s.setCamp n k).notices = s.notices := rfl
@[simp] theorem State.hostReads_setCamp (s : State) (n : Nat) (k : Camp) : (s.setCamp n k).hostReads = s.hostReads := rfl
@[simp] theorem State.freeN_setCamp (s : State) (n : Nat) (k : Camp) : (s.setCamp n k).freeN = s.freeN := rfl
@[simp] theorem State.seqN_setCamp (s : State) (n : Nat) (k : Camp) : (s.setCamp n k).seqN = s.seqN := rfl
@[simp] theorem State.stage_setCamp (s : State) (n : Nat) (k : Camp) : (s.setCamp n k).stage = s.stage := rfl
@[simp] theorem State.agenda_setCamp (s : State) (n : Nat) (k : Camp) : (s.setCamp n k).agenda = s.agenda := rfl
@[simp] theorem State.inputs_setCamp (s : State) (n : Nat) (k : Camp) : (s.setCamp n k).inputs = s.inputs := rfl
@[simp] theorem State.cur_setCamp (s : State) (n : Nat) (k : Camp) : (s.setCamp n k).cur = s.cur := rfl

/-! ### The fields that modCamp leaves -/

@[simp] theorem State.now_modCamp (s : State) (n : Nat) (f : Camp → Camp) : (s.modCamp n f).now = s.now := rfl
@[simp] theorem State.mem_modCamp (s : State) (n : Nat) (f : Camp → Camp) : (s.modCamp n f).mem = s.mem := rfl
@[simp] theorem State.memStart_modCamp (s : State) (n : Nat) (f : Camp → Camp) : (s.modCamp n f).memStart = s.memStart := rfl
@[simp] theorem State.ctxs_modCamp (s : State) (n : Nat) (f : Camp → Camp) : (s.modCamp n f).ctxs = s.ctxs := rfl
@[simp] theorem State.cores_modCamp (s : State) (n : Nat) (f : Camp → Camp) : (s.modCamp n f).cores = s.cores := rfl
@[simp] theorem State.pairs_modCamp (s : State) (n : Nat) (f : Camp → Camp) : (s.modCamp n f).pairs = s.pairs := rfl
@[simp] theorem State.accs_modCamp (s : State) (n : Nat) (f : Camp → Camp) : (s.modCamp n f).accs = s.accs := rfl
@[simp] theorem State.held_modCamp (s : State) (n : Nat) (f : Camp → Camp) : (s.modCamp n f).held = s.held := rfl
@[simp] theorem State.polver_modCamp (s : State) (n : Nat) (f : Camp → Camp) : (s.modCamp n f).polver = s.polver := rfl
@[simp] theorem State.launch_modCamp (s : State) (n : Nat) (f : Camp → Camp) : (s.modCamp n f).launch = s.launch := rfl
@[simp] theorem State.image_modCamp (s : State) (n : Nat) (f : Camp → Camp) : (s.modCamp n f).image = s.image := rfl
@[simp] theorem State.codes_modCamp (s : State) (n : Nat) (f : Camp → Camp) : (s.modCamp n f).codes = s.codes := rfl
@[simp] theorem State.allocated_modCamp (s : State) (n : Nat) (f : Camp → Camp) : (s.modCamp n f).allocated = s.allocated := rfl
@[simp] theorem State.started_modCamp (s : State) (n : Nat) (f : Camp → Camp) : (s.modCamp n f).started = s.started := rfl
@[simp] theorem State.fqprod_modCamp (s : State) (n : Nat) (f : Camp → Camp) : (s.modCamp n f).fqprod = s.fqprod := rfl
@[simp] theorem State.fqcons_modCamp (s : State) (n : Nat) (f : Camp → Camp) : (s.modCamp n f).fqcons = s.fqcons := rfl
@[simp] theorem State.frprod_modCamp (s : State) (n : Nat) (f : Camp → Camp) : (s.modCamp n f).frprod = s.frprod := rfl
@[simp] theorem State.frcons_modCamp (s : State) (n : Nat) (f : Camp → Camp) : (s.modCamp n f).frcons = s.frcons := rfl
@[simp] theorem State.openFaults_modCamp (s : State) (n : Nat) (f : Camp → Camp) : (s.modCamp n f).openFaults = s.openFaults := rfl
@[simp] theorem State.records_modCamp (s : State) (n : Nat) (f : Camp → Camp) : (s.modCamp n f).records = s.records := rfl
@[simp] theorem State.conts_modCamp (s : State) (n : Nat) (f : Camp → Camp) : (s.modCamp n f).conts = s.conts := rfl
@[simp] theorem State.spills_modCamp (s : State) (n : Nat) (f : Camp → Camp) : (s.modCamp n f).spills = s.spills := rfl
@[simp] theorem State.blocks_modCamp (s : State) (n : Nat) (f : Camp → Camp) : (s.modCamp n f).blocks = s.blocks := rfl
@[simp] theorem State.recSeq_modCamp (s : State) (n : Nat) (f : Camp → Camp) : (s.modCamp n f).recSeq = s.recSeq := rfl
@[simp] theorem State.transits_modCamp (s : State) (n : Nat) (f : Camp → Camp) : (s.modCamp n f).transits = s.transits := rfl
@[simp] theorem State.packets_modCamp (s : State) (n : Nat) (f : Camp → Camp) : (s.modCamp n f).packets = s.packets := rfl
@[simp] theorem State.decs_modCamp (s : State) (n : Nat) (f : Camp → Camp) : (s.modCamp n f).decs = s.decs := rfl
@[simp] theorem State.saves_modCamp (s : State) (n : Nat) (f : Camp → Camp) : (s.modCamp n f).saves = s.saves := rfl
@[simp] theorem State.owner_modCamp (s : State) (n : Nat) (f : Camp → Camp) : (s.modCamp n f).owner = s.owner := rfl
@[simp] theorem State.election_modCamp (s : State) (n : Nat) (f : Camp → Camp) : (s.modCamp n f).election = s.election := rfl
@[simp] theorem State.claims_modCamp (s : State) (n : Nat) (f : Camp → Camp) : (s.modCamp n f).claims = s.claims := rfl
@[simp] theorem State.claimPri_modCamp (s : State) (n : Nat) (f : Camp → Camp) : (s.modCamp n f).claimPri = s.claimPri := rfl
@[simp] theorem State.nonce_modCamp (s : State) (n : Nat) (f : Camp → Camp) : (s.modCamp n f).nonce = s.nonce := rfl
@[simp] theorem State.cmd_modCamp (s : State) (n : Nat) (f : Camp → Camp) : (s.modCamp n f).cmd = s.cmd := rfl
@[simp] theorem State.cmdRun_modCamp (s : State) (n : Nat) (f : Camp → Camp) : (s.modCamp n f).cmdRun = s.cmdRun := rfl
@[simp] theorem State.cmdCode_modCamp (s : State) (n : Nat) (f : Camp → Camp) : (s.modCamp n f).cmdCode = s.cmdCode := rfl
@[simp] theorem State.cmdResult_modCamp (s : State) (n : Nat) (f : Camp → Camp) : (s.modCamp n f).cmdResult = s.cmdResult := rfl
@[simp] theorem State.memready_modCamp (s : State) (n : Nat) (f : Camp → Camp) : (s.modCamp n f).memready = s.memready := rfl
@[simp] theorem State.resetting_modCamp (s : State) (n : Nat) (f : Camp → Camp) : (s.modCamp n f).resetting = s.resetting := rfl
@[simp] theorem State.strap_modCamp (s : State) (n : Nat) (f : Camp → Camp) : (s.modCamp n f).strap = s.strap := rfl
@[simp] theorem State.sessions_modCamp (s : State) (n : Nat) (f : Camp → Camp) : (s.modCamp n f).sessions = s.sessions := rfl
@[simp] theorem State.firmware_modCamp (s : State) (n : Nat) (f : Camp → Camp) : (s.modCamp n f).firmware = s.firmware := rfl
@[simp] theorem State.tables_modCamp (s : State) (n : Nat) (f : Camp → Camp) : (s.modCamp n f).tables = s.tables := rfl
@[simp] theorem State.identityKey_modCamp (s : State) (n : Nat) (f : Camp → Camp) : (s.modCamp n f).identityKey = s.identityKey := rfl
@[simp] theorem State.fusedRepairs_modCamp (s : State) (n : Nat) (f : Camp → Camp) : (s.modCamp n f).fusedRepairs = s.fusedRepairs := rfl
@[simp] theorem State.routes_modCamp (s : State) (n : Nat) (f : Camp → Camp) : (s.modCamp n f).routes = s.routes := rfl
@[simp] theorem State.failedLinks_modCamp (s : State) (n : Nat) (f : Camp → Camp) : (s.modCamp n f).failedLinks = s.failedLinks := rfl
@[simp] theorem State.pages_modCamp (s : State) (n : Nat) (f : Camp → Camp) : (s.modCamp n f).pages = s.pages := rfl
@[simp] theorem State.migrating_modCamp (s : State) (n : Nat) (f : Camp → Camp) : (s.modCamp n f).migrating = s.migrating := rfl
@[simp] theorem State.migrated_modCamp (s : State) (n : Nat) (f : Camp → Camp) : (s.modCamp n f).migrated = s.migrated := rfl
@[simp] theorem State.settled_modCamp (s : State) (n : Nat) (f : Camp → Camp) : (s.modCamp n f).settled = s.settled := rfl
@[simp] theorem State.retiring_modCamp (s : State) (n : Nat) (f : Camp → Camp) : (s.modCamp n f).retiring = s.retiring := rfl
@[simp] theorem State.repaired_modCamp (s : State) (n : Nat) (f : Camp → Camp) : (s.modCamp n f).repaired = s.repaired := rfl
@[simp] theorem State.powers_modCamp (s : State) (n : Nat) (f : Camp → Camp) : (s.modCamp n f).powers = s.powers := rfl
@[simp] theorem State.supply_modCamp (s : State) (n : Nat) (f : Camp → Camp) : (s.modCamp n f).supply = s.supply := rfl
@[simp] theorem State.notices_modCamp (s : State) (n : Nat) (f : Camp → Camp) : (s.modCamp n f).notices = s.notices := rfl
@[simp] theorem State.hostReads_modCamp (s : State) (n : Nat) (f : Camp → Camp) : (s.modCamp n f).hostReads = s.hostReads := rfl
@[simp] theorem State.freeN_modCamp (s : State) (n : Nat) (f : Camp → Camp) : (s.modCamp n f).freeN = s.freeN := rfl
@[simp] theorem State.seqN_modCamp (s : State) (n : Nat) (f : Camp → Camp) : (s.modCamp n f).seqN = s.seqN := rfl
@[simp] theorem State.stage_modCamp (s : State) (n : Nat) (f : Camp → Camp) : (s.modCamp n f).stage = s.stage := rfl
@[simp] theorem State.agenda_modCamp (s : State) (n : Nat) (f : Camp → Camp) : (s.modCamp n f).agenda = s.agenda := rfl
@[simp] theorem State.inputs_modCamp (s : State) (n : Nat) (f : Camp → Camp) : (s.modCamp n f).inputs = s.inputs := rfl
@[simp] theorem State.cur_modCamp (s : State) (n : Nat) (f : Camp → Camp) : (s.modCamp n f).cur = s.cur := rfl

/-! ### The fields that putBytes leaves -/

@[simp] theorem State.now_putBytes (s : State) (r : Region) (a : Nat) (bs : List Byte) : (s.putBytes r a bs).now = s.now := rfl
@[simp] theorem State.memStart_putBytes (s : State) (r : Region) (a : Nat) (bs : List Byte) : (s.putBytes r a bs).memStart = s.memStart := rfl
@[simp] theorem State.ctxs_putBytes (s : State) (r : Region) (a : Nat) (bs : List Byte) : (s.putBytes r a bs).ctxs = s.ctxs := rfl
@[simp] theorem State.cores_putBytes (s : State) (r : Region) (a : Nat) (bs : List Byte) : (s.putBytes r a bs).cores = s.cores := rfl
@[simp] theorem State.pairs_putBytes (s : State) (r : Region) (a : Nat) (bs : List Byte) : (s.putBytes r a bs).pairs = s.pairs := rfl
@[simp] theorem State.camps_putBytes (s : State) (r : Region) (a : Nat) (bs : List Byte) : (s.putBytes r a bs).camps = s.camps := rfl
@[simp] theorem State.accs_putBytes (s : State) (r : Region) (a : Nat) (bs : List Byte) : (s.putBytes r a bs).accs = s.accs := rfl
@[simp] theorem State.held_putBytes (s : State) (r : Region) (a : Nat) (bs : List Byte) : (s.putBytes r a bs).held = s.held := rfl
@[simp] theorem State.polver_putBytes (s : State) (r : Region) (a : Nat) (bs : List Byte) : (s.putBytes r a bs).polver = s.polver := rfl
@[simp] theorem State.launch_putBytes (s : State) (r : Region) (a : Nat) (bs : List Byte) : (s.putBytes r a bs).launch = s.launch := rfl
@[simp] theorem State.image_putBytes (s : State) (r : Region) (a : Nat) (bs : List Byte) : (s.putBytes r a bs).image = s.image := rfl
@[simp] theorem State.codes_putBytes (s : State) (r : Region) (a : Nat) (bs : List Byte) : (s.putBytes r a bs).codes = s.codes := rfl
@[simp] theorem State.allocated_putBytes (s : State) (r : Region) (a : Nat) (bs : List Byte) : (s.putBytes r a bs).allocated = s.allocated := rfl
@[simp] theorem State.started_putBytes (s : State) (r : Region) (a : Nat) (bs : List Byte) : (s.putBytes r a bs).started = s.started := rfl
@[simp] theorem State.fqprod_putBytes (s : State) (r : Region) (a : Nat) (bs : List Byte) : (s.putBytes r a bs).fqprod = s.fqprod := rfl
@[simp] theorem State.fqcons_putBytes (s : State) (r : Region) (a : Nat) (bs : List Byte) : (s.putBytes r a bs).fqcons = s.fqcons := rfl
@[simp] theorem State.frprod_putBytes (s : State) (r : Region) (a : Nat) (bs : List Byte) : (s.putBytes r a bs).frprod = s.frprod := rfl
@[simp] theorem State.frcons_putBytes (s : State) (r : Region) (a : Nat) (bs : List Byte) : (s.putBytes r a bs).frcons = s.frcons := rfl
@[simp] theorem State.openFaults_putBytes (s : State) (r : Region) (a : Nat) (bs : List Byte) : (s.putBytes r a bs).openFaults = s.openFaults := rfl
@[simp] theorem State.records_putBytes (s : State) (r : Region) (a : Nat) (bs : List Byte) : (s.putBytes r a bs).records = s.records := rfl
@[simp] theorem State.conts_putBytes (s : State) (r : Region) (a : Nat) (bs : List Byte) : (s.putBytes r a bs).conts = s.conts := rfl
@[simp] theorem State.spills_putBytes (s : State) (r : Region) (a : Nat) (bs : List Byte) : (s.putBytes r a bs).spills = s.spills := rfl
@[simp] theorem State.blocks_putBytes (s : State) (r : Region) (a : Nat) (bs : List Byte) : (s.putBytes r a bs).blocks = s.blocks := rfl
@[simp] theorem State.recSeq_putBytes (s : State) (r : Region) (a : Nat) (bs : List Byte) : (s.putBytes r a bs).recSeq = s.recSeq := rfl
@[simp] theorem State.transits_putBytes (s : State) (r : Region) (a : Nat) (bs : List Byte) : (s.putBytes r a bs).transits = s.transits := rfl
@[simp] theorem State.packets_putBytes (s : State) (r : Region) (a : Nat) (bs : List Byte) : (s.putBytes r a bs).packets = s.packets := rfl
@[simp] theorem State.decs_putBytes (s : State) (r : Region) (a : Nat) (bs : List Byte) : (s.putBytes r a bs).decs = s.decs := rfl
@[simp] theorem State.saves_putBytes (s : State) (r : Region) (a : Nat) (bs : List Byte) : (s.putBytes r a bs).saves = s.saves := rfl
@[simp] theorem State.owner_putBytes (s : State) (r : Region) (a : Nat) (bs : List Byte) : (s.putBytes r a bs).owner = s.owner := rfl
@[simp] theorem State.election_putBytes (s : State) (r : Region) (a : Nat) (bs : List Byte) : (s.putBytes r a bs).election = s.election := rfl
@[simp] theorem State.claims_putBytes (s : State) (r : Region) (a : Nat) (bs : List Byte) : (s.putBytes r a bs).claims = s.claims := rfl
@[simp] theorem State.claimPri_putBytes (s : State) (r : Region) (a : Nat) (bs : List Byte) : (s.putBytes r a bs).claimPri = s.claimPri := rfl
@[simp] theorem State.nonce_putBytes (s : State) (r : Region) (a : Nat) (bs : List Byte) : (s.putBytes r a bs).nonce = s.nonce := rfl
@[simp] theorem State.cmd_putBytes (s : State) (r : Region) (a : Nat) (bs : List Byte) : (s.putBytes r a bs).cmd = s.cmd := rfl
@[simp] theorem State.cmdRun_putBytes (s : State) (r : Region) (a : Nat) (bs : List Byte) : (s.putBytes r a bs).cmdRun = s.cmdRun := rfl
@[simp] theorem State.cmdCode_putBytes (s : State) (r : Region) (a : Nat) (bs : List Byte) : (s.putBytes r a bs).cmdCode = s.cmdCode := rfl
@[simp] theorem State.cmdResult_putBytes (s : State) (r : Region) (a : Nat) (bs : List Byte) : (s.putBytes r a bs).cmdResult = s.cmdResult := rfl
@[simp] theorem State.memready_putBytes (s : State) (r : Region) (a : Nat) (bs : List Byte) : (s.putBytes r a bs).memready = s.memready := rfl
@[simp] theorem State.resetting_putBytes (s : State) (r : Region) (a : Nat) (bs : List Byte) : (s.putBytes r a bs).resetting = s.resetting := rfl
@[simp] theorem State.strap_putBytes (s : State) (r : Region) (a : Nat) (bs : List Byte) : (s.putBytes r a bs).strap = s.strap := rfl
@[simp] theorem State.sessions_putBytes (s : State) (r : Region) (a : Nat) (bs : List Byte) : (s.putBytes r a bs).sessions = s.sessions := rfl
@[simp] theorem State.firmware_putBytes (s : State) (r : Region) (a : Nat) (bs : List Byte) : (s.putBytes r a bs).firmware = s.firmware := rfl
@[simp] theorem State.tables_putBytes (s : State) (r : Region) (a : Nat) (bs : List Byte) : (s.putBytes r a bs).tables = s.tables := rfl
@[simp] theorem State.identityKey_putBytes (s : State) (r : Region) (a : Nat) (bs : List Byte) : (s.putBytes r a bs).identityKey = s.identityKey := rfl
@[simp] theorem State.fusedRepairs_putBytes (s : State) (r : Region) (a : Nat) (bs : List Byte) : (s.putBytes r a bs).fusedRepairs = s.fusedRepairs := rfl
@[simp] theorem State.routes_putBytes (s : State) (r : Region) (a : Nat) (bs : List Byte) : (s.putBytes r a bs).routes = s.routes := rfl
@[simp] theorem State.failedLinks_putBytes (s : State) (r : Region) (a : Nat) (bs : List Byte) : (s.putBytes r a bs).failedLinks = s.failedLinks := rfl
@[simp] theorem State.pages_putBytes (s : State) (r : Region) (a : Nat) (bs : List Byte) : (s.putBytes r a bs).pages = s.pages := rfl
@[simp] theorem State.migrating_putBytes (s : State) (r : Region) (a : Nat) (bs : List Byte) : (s.putBytes r a bs).migrating = s.migrating := rfl
@[simp] theorem State.migrated_putBytes (s : State) (r : Region) (a : Nat) (bs : List Byte) : (s.putBytes r a bs).migrated = s.migrated := rfl
@[simp] theorem State.settled_putBytes (s : State) (r : Region) (a : Nat) (bs : List Byte) : (s.putBytes r a bs).settled = s.settled := rfl
@[simp] theorem State.retiring_putBytes (s : State) (r : Region) (a : Nat) (bs : List Byte) : (s.putBytes r a bs).retiring = s.retiring := rfl
@[simp] theorem State.repaired_putBytes (s : State) (r : Region) (a : Nat) (bs : List Byte) : (s.putBytes r a bs).repaired = s.repaired := rfl
@[simp] theorem State.powers_putBytes (s : State) (r : Region) (a : Nat) (bs : List Byte) : (s.putBytes r a bs).powers = s.powers := rfl
@[simp] theorem State.supply_putBytes (s : State) (r : Region) (a : Nat) (bs : List Byte) : (s.putBytes r a bs).supply = s.supply := rfl
@[simp] theorem State.notices_putBytes (s : State) (r : Region) (a : Nat) (bs : List Byte) : (s.putBytes r a bs).notices = s.notices := rfl
@[simp] theorem State.hostReads_putBytes (s : State) (r : Region) (a : Nat) (bs : List Byte) : (s.putBytes r a bs).hostReads = s.hostReads := rfl
@[simp] theorem State.freeN_putBytes (s : State) (r : Region) (a : Nat) (bs : List Byte) : (s.putBytes r a bs).freeN = s.freeN := rfl
@[simp] theorem State.seqN_putBytes (s : State) (r : Region) (a : Nat) (bs : List Byte) : (s.putBytes r a bs).seqN = s.seqN := rfl
@[simp] theorem State.stage_putBytes (s : State) (r : Region) (a : Nat) (bs : List Byte) : (s.putBytes r a bs).stage = s.stage := rfl
@[simp] theorem State.agenda_putBytes (s : State) (r : Region) (a : Nat) (bs : List Byte) : (s.putBytes r a bs).agenda = s.agenda := rfl
@[simp] theorem State.inputs_putBytes (s : State) (r : Region) (a : Nat) (bs : List Byte) : (s.putBytes r a bs).inputs = s.inputs := rfl
@[simp] theorem State.cur_putBytes (s : State) (r : Region) (a : Nat) (bs : List Byte) : (s.putBytes r a bs).cur = s.cur := rfl

/-! ### The fields that notify leaves -/

@[simp] theorem State.now_notify (s : State) (n : Notice) : (s.notify n).now = s.now := rfl
@[simp] theorem State.mem_notify (s : State) (n : Notice) : (s.notify n).mem = s.mem := rfl
@[simp] theorem State.memStart_notify (s : State) (n : Notice) : (s.notify n).memStart = s.memStart := rfl
@[simp] theorem State.ctxs_notify (s : State) (n : Notice) : (s.notify n).ctxs = s.ctxs := rfl
@[simp] theorem State.cores_notify (s : State) (n : Notice) : (s.notify n).cores = s.cores := rfl
@[simp] theorem State.pairs_notify (s : State) (n : Notice) : (s.notify n).pairs = s.pairs := rfl
@[simp] theorem State.camps_notify (s : State) (n : Notice) : (s.notify n).camps = s.camps := rfl
@[simp] theorem State.accs_notify (s : State) (n : Notice) : (s.notify n).accs = s.accs := rfl
@[simp] theorem State.held_notify (s : State) (n : Notice) : (s.notify n).held = s.held := rfl
@[simp] theorem State.polver_notify (s : State) (n : Notice) : (s.notify n).polver = s.polver := rfl
@[simp] theorem State.launch_notify (s : State) (n : Notice) : (s.notify n).launch = s.launch := rfl
@[simp] theorem State.image_notify (s : State) (n : Notice) : (s.notify n).image = s.image := rfl
@[simp] theorem State.codes_notify (s : State) (n : Notice) : (s.notify n).codes = s.codes := rfl
@[simp] theorem State.allocated_notify (s : State) (n : Notice) : (s.notify n).allocated = s.allocated := rfl
@[simp] theorem State.started_notify (s : State) (n : Notice) : (s.notify n).started = s.started := rfl
@[simp] theorem State.fqprod_notify (s : State) (n : Notice) : (s.notify n).fqprod = s.fqprod := rfl
@[simp] theorem State.fqcons_notify (s : State) (n : Notice) : (s.notify n).fqcons = s.fqcons := rfl
@[simp] theorem State.frprod_notify (s : State) (n : Notice) : (s.notify n).frprod = s.frprod := rfl
@[simp] theorem State.frcons_notify (s : State) (n : Notice) : (s.notify n).frcons = s.frcons := rfl
@[simp] theorem State.openFaults_notify (s : State) (n : Notice) : (s.notify n).openFaults = s.openFaults := rfl
@[simp] theorem State.records_notify (s : State) (n : Notice) : (s.notify n).records = s.records := rfl
@[simp] theorem State.conts_notify (s : State) (n : Notice) : (s.notify n).conts = s.conts := rfl
@[simp] theorem State.spills_notify (s : State) (n : Notice) : (s.notify n).spills = s.spills := rfl
@[simp] theorem State.blocks_notify (s : State) (n : Notice) : (s.notify n).blocks = s.blocks := rfl
@[simp] theorem State.recSeq_notify (s : State) (n : Notice) : (s.notify n).recSeq = s.recSeq := rfl
@[simp] theorem State.transits_notify (s : State) (n : Notice) : (s.notify n).transits = s.transits := rfl
@[simp] theorem State.packets_notify (s : State) (n : Notice) : (s.notify n).packets = s.packets := rfl
@[simp] theorem State.decs_notify (s : State) (n : Notice) : (s.notify n).decs = s.decs := rfl
@[simp] theorem State.saves_notify (s : State) (n : Notice) : (s.notify n).saves = s.saves := rfl
@[simp] theorem State.owner_notify (s : State) (n : Notice) : (s.notify n).owner = s.owner := rfl
@[simp] theorem State.election_notify (s : State) (n : Notice) : (s.notify n).election = s.election := rfl
@[simp] theorem State.claims_notify (s : State) (n : Notice) : (s.notify n).claims = s.claims := rfl
@[simp] theorem State.claimPri_notify (s : State) (n : Notice) : (s.notify n).claimPri = s.claimPri := rfl
@[simp] theorem State.nonce_notify (s : State) (n : Notice) : (s.notify n).nonce = s.nonce := rfl
@[simp] theorem State.cmd_notify (s : State) (n : Notice) : (s.notify n).cmd = s.cmd := rfl
@[simp] theorem State.cmdRun_notify (s : State) (n : Notice) : (s.notify n).cmdRun = s.cmdRun := rfl
@[simp] theorem State.cmdCode_notify (s : State) (n : Notice) : (s.notify n).cmdCode = s.cmdCode := rfl
@[simp] theorem State.cmdResult_notify (s : State) (n : Notice) : (s.notify n).cmdResult = s.cmdResult := rfl
@[simp] theorem State.memready_notify (s : State) (n : Notice) : (s.notify n).memready = s.memready := rfl
@[simp] theorem State.resetting_notify (s : State) (n : Notice) : (s.notify n).resetting = s.resetting := rfl
@[simp] theorem State.strap_notify (s : State) (n : Notice) : (s.notify n).strap = s.strap := rfl
@[simp] theorem State.sessions_notify (s : State) (n : Notice) : (s.notify n).sessions = s.sessions := rfl
@[simp] theorem State.firmware_notify (s : State) (n : Notice) : (s.notify n).firmware = s.firmware := rfl
@[simp] theorem State.tables_notify (s : State) (n : Notice) : (s.notify n).tables = s.tables := rfl
@[simp] theorem State.identityKey_notify (s : State) (n : Notice) : (s.notify n).identityKey = s.identityKey := rfl
@[simp] theorem State.fusedRepairs_notify (s : State) (n : Notice) : (s.notify n).fusedRepairs = s.fusedRepairs := rfl
@[simp] theorem State.routes_notify (s : State) (n : Notice) : (s.notify n).routes = s.routes := rfl
@[simp] theorem State.failedLinks_notify (s : State) (n : Notice) : (s.notify n).failedLinks = s.failedLinks := rfl
@[simp] theorem State.pages_notify (s : State) (n : Notice) : (s.notify n).pages = s.pages := rfl
@[simp] theorem State.migrating_notify (s : State) (n : Notice) : (s.notify n).migrating = s.migrating := rfl
@[simp] theorem State.migrated_notify (s : State) (n : Notice) : (s.notify n).migrated = s.migrated := rfl
@[simp] theorem State.settled_notify (s : State) (n : Notice) : (s.notify n).settled = s.settled := rfl
@[simp] theorem State.retiring_notify (s : State) (n : Notice) : (s.notify n).retiring = s.retiring := rfl
@[simp] theorem State.repaired_notify (s : State) (n : Notice) : (s.notify n).repaired = s.repaired := rfl
@[simp] theorem State.powers_notify (s : State) (n : Notice) : (s.notify n).powers = s.powers := rfl
@[simp] theorem State.supply_notify (s : State) (n : Notice) : (s.notify n).supply = s.supply := rfl
@[simp] theorem State.hostReads_notify (s : State) (n : Notice) : (s.notify n).hostReads = s.hostReads := rfl
@[simp] theorem State.freeN_notify (s : State) (n : Notice) : (s.notify n).freeN = s.freeN := rfl
@[simp] theorem State.seqN_notify (s : State) (n : Notice) : (s.notify n).seqN = s.seqN := rfl
@[simp] theorem State.stage_notify (s : State) (n : Notice) : (s.notify n).stage = s.stage := rfl
@[simp] theorem State.agenda_notify (s : State) (n : Notice) : (s.notify n).agenda = s.agenda := rfl
@[simp] theorem State.inputs_notify (s : State) (n : Notice) : (s.notify n).inputs = s.inputs := rfl
@[simp] theorem State.cur_notify (s : State) (n : Notice) : (s.notify n).cur = s.cur := rfl

theorem State.mem_putBytes (s : State) (r : Region) (a : Nat) (bs : List Byte) :
    (s.putBytes r a bs).mem = s.mem.putRun (cellKey r a) bs := rfl
theorem State.notices_notify (s : State) (n : Notice) : (s.notify n).notices = s.notices ++ [n] := rfl

/-! ### What a context is after an update of another part of the state -/

@[simp] theorem State.ctx_setCore (s : State) (c : Nat) (k : Core) (d y : Nat) : (s.setCore c k).ctx d y = s.ctx d y := rfl
@[simp] theorem State.ctx_modCore (s : State) (c : Nat) (f : Core → Core) (d y : Nat) : (s.modCore c f).ctx d y = s.ctx d y := rfl
@[simp] theorem State.core_setCtx (s : State) (c x : Nat) (k : Ctx) (d : Nat) : (s.setCtx c x k).core d = s.core d := rfl
@[simp] theorem State.core_modCtx (s : State) (c x : Nat) (f : Ctx → Ctx) (d : Nat) : (s.modCtx c x f).core d = s.core d := rfl
@[simp] theorem State.ctx_putBytes (s : State) (r : Region) (a : Nat) (bs : List Byte) (d y : Nat) :
    (s.putBytes r a bs).ctx d y = s.ctx d y := rfl
@[simp] theorem State.core_putBytes (s : State) (r : Region) (a : Nat) (bs : List Byte) (d : Nat) :
    (s.putBytes r a bs).core d = s.core d := rfl
@[simp] theorem State.me_putBytes (s : State) (r : Region) (a : Nat) (bs : List Byte) : (s.putBytes r a bs).me = s.me := rfl
@[simp] theorem State.me_modCore (s : State) (c : Nat) (f : Core → Core) : (s.modCore c f).me = s.me := rfl

/-! ### Contexts -/

@[simp] theorem Ctx.state_setS (k : Ctx) (n : Nat) (v : W64) : (k.setS n v).state = k.state := by
  unfold Ctx.setS; split <;> rfl
@[simp] theorem Ctx.unit_setS (k : Ctx) (n : Nat) (v : W64) : (k.setS n v).unit = k.unit := by
  unfold Ctx.setS; split <;> rfl
@[simp] theorem Ctx.gen_setS (k : Ctx) (n : Nat) (v : W64) : (k.setS n v).gen = k.gen := by
  unfold Ctx.setS; split <;> rfl
@[simp] theorem Ctx.slotGen_setS (k : Ctx) (n : Nat) (v : W64) : (k.setS n v).slotGen = k.slotGen := by
  unfold Ctx.setS; split <;> rfl
@[simp] theorem Ctx.vregs_setS (k : Ctx) (n : Nat) (v : W64) : (k.setS n v).vregs = k.vregs := by
  unfold Ctx.setS; split <;> rfl
@[simp] theorem Ctx.masks_setS (k : Ctx) (n : Nat) (v : W64) : (k.setS n v).masks = k.masks := by
  unfold Ctx.setS; split <;> rfl
@[simp] theorem Ctx.pats_setS (k : Ctx) (n : Nat) (v : W64) : (k.setS n v).pats = k.pats := by
  unfold Ctx.setS; split <;> rfl
@[simp] theorem Ctx.tables_setS (k : Ctx) (n : Nat) (v : W64) : (k.setS n v).tables = k.tables := by
  unfold Ctx.setS; split <;> rfl
@[simp] theorem Ctx.tableLoads_setS (k : Ctx) (n : Nat) (v : W64) : (k.setS n v).tableLoads = k.tableLoads := by
  unfold Ctx.setS; split <;> rfl
@[simp] theorem Ctx.cqs_setS (k : Ctx) (n : Nat) (v : W64) : (k.setS n v).cqs = k.cqs := by
  unfold Ctx.setS; split <;> rfl
@[simp] theorem Ctx.cb_setS (k : Ctx) (n : Nat) (v : W64) : (k.setS n v).cb = k.cb := by
  unfold Ctx.setS; split <;> rfl
@[simp] theorem Ctx.guards_setS (k : Ctx) (n : Nat) (v : W64) : (k.setS n v).guards = k.guards := by
  unfold Ctx.setS; split <;> rfl
@[simp] theorem Ctx.bars_setS (k : Ctx) (n : Nat) (v : W64) : (k.setS n v).bars = k.bars := by
  unfold Ctx.setS; split <;> rfl
@[simp] theorem Ctx.barEvents_setS (k : Ctx) (n : Nat) (v : W64) : (k.setS n v).barEvents = k.barEvents := by
  unfold Ctx.setS; split <;> rfl
@[simp] theorem Ctx.fpf_setS (k : Ctx) (n : Nat) (v : W64) : (k.setS n v).fpf = k.fpf := by
  unfold Ctx.setS; split <;> rfl
@[simp] theorem Ctx.ferec_setS (k : Ctx) (n : Nat) (v : W64) : (k.setS n v).ferec = k.ferec := by
  unfold Ctx.setS; split <;> rfl
@[simp] theorem Ctx.flagEvents_setS (k : Ctx) (n : Nat) (v : W64) : (k.setS n v).flagEvents = k.flagEvents := by
  unfold Ctx.setS; split <;> rfl
@[simp] theorem Ctx.tvec_setS (k : Ctx) (n : Nat) (v : W64) : (k.setS n v).tvec = k.tvec := by
  unfold Ctx.setS; split <;> rfl
@[simp] theorem Ctx.tepc_setS (k : Ctx) (n : Nat) (v : W64) : (k.setS n v).tepc = k.tepc := by
  unfold Ctx.setS; split <;> rfl
@[simp] theorem Ctx.tcause_setS (k : Ctx) (n : Nat) (v : W64) : (k.setS n v).tcause = k.tcause := by
  unfold Ctx.setS; split <;> rfl
@[simp] theorem Ctx.tval_setS (k : Ctx) (n : Nat) (v : W64) : (k.setS n v).tval = k.tval := by
  unfold Ctx.setS; split <;> rfl
@[simp] theorem Ctx.issue_setS (k : Ctx) (n : Nat) (v : W64) : (k.setS n v).issue = k.issue := by
  unfold Ctx.setS; split <;> rfl
@[simp] theorem Ctx.taskid_setS (k : Ctx) (n : Nat) (v : W64) : (k.setS n v).taskid = k.taskid := by
  unfold Ctx.setS; split <;> rfl
@[simp] theorem Ctx.brcol_setS (k : Ctx) (n : Nat) (v : W64) : (k.setS n v).brcol = k.brcol := by
  unfold Ctx.setS; split <;> rfl
@[simp] theorem Ctx.inhdl_setS (k : Ctx) (n : Nat) (v : W64) : (k.setS n v).inhdl = k.inhdl := by
  unfold Ctx.setS; split <;> rfl
@[simp] theorem Ctx.clkReq_setS (k : Ctx) (n : Nat) (v : W64) : (k.setS n v).clkReq = k.clkReq := by
  unfold Ctx.setS; split <;> rfl
@[simp] theorem Ctx.scrbase_setS (k : Ctx) (n : Nat) (v : W64) : (k.setS n v).scrbase = k.scrbase := by
  unfold Ctx.setS; split <;> rfl
@[simp] theorem Ctx.scrlim_setS (k : Ctx) (n : Nat) (v : W64) : (k.setS n v).scrlim = k.scrlim := by
  unfold Ctx.setS; split <;> rfl
@[simp] theorem Ctx.accbase_setS (k : Ctx) (n : Nat) (v : W64) : (k.setS n v).accbase = k.accbase := by
  unfold Ctx.setS; split <;> rfl
@[simp] theorem Ctx.acclim_setS (k : Ctx) (n : Nat) (v : W64) : (k.setS n v).acclim = k.acclim := by
  unfold Ctx.setS; split <;> rfl
@[simp] theorem Ctx.mscnt_setS (k : Ctx) (n : Nat) (v : W64) : (k.setS n v).mscnt = k.mscnt := by
  unfold Ctx.setS; split <;> rfl
@[simp] theorem Ctx.msfro_setS (k : Ctx) (n : Nat) (v : W64) : (k.setS n v).msfro = k.msfro := by
  unfold Ctx.setS; split <;> rfl
@[simp] theorem Ctx.msvar_setS (k : Ctx) (n : Nat) (v : W64) : (k.setS n v).msvar = k.msvar := by
  unfold Ctx.setS; split <;> rfl
@[simp] theorem Ctx.msz_setS (k : Ctx) (n : Nat) (v : W64) : (k.setS n v).msz = k.msz := by
  unfold Ctx.setS; split <;> rfl
@[simp] theorem Ctx.strands_setS (k : Ctx) (n : Nat) (v : W64) : (k.setS n v).strands = k.strands := by
  unfold Ctx.setS; split <;> rfl
@[simp] theorem Ctx.nextStrand_setS (k : Ctx) (n : Nat) (v : W64) : (k.setS n v).nextStrand = k.nextStrand := by
  unfold Ctx.setS; split <;> rfl
@[simp] theorem Ctx.repeats_setS (k : Ctx) (n : Nat) (v : W64) : (k.setS n v).repeats = k.repeats := by
  unfold Ctx.setS; split <;> rfl
@[simp] theorem Ctx.pend_setS (k : Ctx) (n : Nat) (v : W64) : (k.setS n v).pend = k.pend := by
  unfold Ctx.setS; split <;> rfl
@[simp] theorem Ctx.stopped_setS (k : Ctx) (n : Nat) (v : W64) : (k.setS n v).stopped = k.stopped := by
  unfold Ctx.setS; split <;> rfl
@[simp] theorem Ctx.faulted_setS (k : Ctx) (n : Nat) (v : W64) : (k.setS n v).faulted = k.faulted := by
  unfold Ctx.setS; split <;> rfl
@[simp] theorem Ctx.faultPc_setS (k : Ctx) (n : Nat) (v : W64) : (k.setS n v).faultPc = k.faultPc := by
  unfold Ctx.setS; split <;> rfl
@[simp] theorem Ctx.stoppedReps_setS (k : Ctx) (n : Nat) (v : W64) : (k.setS n v).stoppedReps = k.stoppedReps := by
  unfold Ctx.setS; split <;> rfl
@[simp] theorem Ctx.drain_setS (k : Ctx) (n : Nat) (v : W64) : (k.setS n v).drain = k.drain := by
  unfold Ctx.setS; split <;> rfl
@[simp] theorem Ctx.stoppedDrain_setS (k : Ctx) (n : Nat) (v : W64) : (k.setS n v).stoppedDrain = k.stoppedDrain := by
  unfold Ctx.setS; split <;> rfl
@[simp] theorem Ctx.leaving_setS (k : Ctx) (n : Nat) (v : W64) : (k.setS n v).leaving = k.leaving := by
  unfold Ctx.setS; split <;> rfl
@[simp] theorem Ctx.discards_setS (k : Ctx) (n : Nat) (v : W64) : (k.setS n v).discards = k.discards := by
  unfold Ctx.setS; split <;> rfl
@[simp] theorem Ctx.lives_setS (k : Ctx) (n : Nat) (v : W64) : (k.setS n v).lives = k.lives := by
  unfold Ctx.setS; split <;> rfl
@[simp] theorem Ctx.extents_setS (k : Ctx) (n : Nat) (v : W64) : (k.setS n v).extents = k.extents := by
  unfold Ctx.setS; split <;> rfl
@[simp] theorem Ctx.peers_setS (k : Ctx) (n : Nat) (v : W64) : (k.setS n v).peers = k.peers := by
  unfold Ctx.setS; split <;> rfl
@[simp] theorem Ctx.shadow_setS (k : Ctx) (n : Nat) (v : W64) : (k.setS n v).shadow = k.shadow := by
  unfold Ctx.setS; split <;> rfl
@[simp] theorem Ctx.tile_setS (k : Ctx) (n : Nat) (v : W64) : (k.setS n v).tile = k.tile := by
  unfold Ctx.setS; split <;> rfl
@[simp] theorem Ctx.wslots_setS (k : Ctx) (n : Nat) (v : W64) : (k.setS n v).wslots = k.wslots := by
  unfold Ctx.setS; split <;> rfl
@[simp] theorem Ctx.sampler_setS (k : Ctx) (n : Nat) (v : W64) : (k.setS n v).sampler = k.sampler := by
  unfold Ctx.setS; split <;> rfl
@[simp] theorem Ctx.inP_setS (k : Ctx) (n : Nat) (v : W64) : (k.setS n v).inP = k.inP := by
  unfold Ctx.setS; split <;> rfl
@[simp] theorem Ctx.inN_setS (k : Ctx) (n : Nat) (v : W64) : (k.setS n v).inN = k.inN := by
  unfold Ctx.setS; split <;> rfl
@[simp] theorem Ctx.newest_setS (k : Ctx) (n : Nat) (v : W64) : (k.setS n v).newest = k.newest := by
  unfold Ctx.setS; split <;> rfl
@[simp] theorem Ctx.posted_setS (k : Ctx) (n : Nat) (v : W64) : (k.setS n v).posted = k.posted := by
  unfold Ctx.setS; split <;> rfl
@[simp] theorem Ctx.snap_setS (k : Ctx) (n : Nat) (v : W64) : (k.setS n v).snap = k.snap := by
  unfold Ctx.setS; split <;> rfl
@[simp] theorem Ctx.relWord_setS (k : Ctx) (n : Nat) (v : W64) : (k.setS n v).relWord = k.relWord := by
  unfold Ctx.setS; split <;> rfl
@[simp] theorem Ctx.ranSince_setS (k : Ctx) (n : Nat) (v : W64) : (k.setS n v).ranSince = k.ranSince := by
  unfold Ctx.setS; split <;> rfl
@[simp] theorem Ctx.ranE_setS (k : Ctx) (n : Nat) (v : W64) : (k.setS n v).ranE = k.ranE := by
  unfold Ctx.setS; split <;> rfl
@[simp] theorem Ctx.resume_setS (k : Ctx) (n : Nat) (v : W64) : (k.setS n v).resume = k.resume := by
  unfold Ctx.setS; split <;> rfl
@[simp] theorem Ctx.replyLog_setS (k : Ctx) (n : Nat) (v : W64) : (k.setS n v).replyLog = k.replyLog := by
  unfold Ctx.setS; split <;> rfl
@[simp] theorem Ctx.counts_setS (k : Ctx) (n : Nat) (v : W64) : (k.setS n v).counts = k.counts := by
  unfold Ctx.setS; split <;> rfl
@[simp] theorem Ctx.copied_setS (k : Ctx) (n : Nat) (v : W64) : (k.setS n v).copied = k.copied := by
  unfold Ctx.setS; split <;> rfl
@[simp] theorem Ctx.state_setM (k : Ctx) (n : Nat) (l v : LaneMask) : (k.setM n l v).state = k.state := by
  unfold Ctx.setM; split <;> rfl
@[simp] theorem Ctx.unit_setM (k : Ctx) (n : Nat) (l v : LaneMask) : (k.setM n l v).unit = k.unit := by
  unfold Ctx.setM; split <;> rfl
@[simp] theorem Ctx.gen_setM (k : Ctx) (n : Nat) (l v : LaneMask) : (k.setM n l v).gen = k.gen := by
  unfold Ctx.setM; split <;> rfl
@[simp] theorem Ctx.slotGen_setM (k : Ctx) (n : Nat) (l v : LaneMask) : (k.setM n l v).slotGen = k.slotGen := by
  unfold Ctx.setM; split <;> rfl
@[simp] theorem Ctx.sregs_setM (k : Ctx) (n : Nat) (l v : LaneMask) : (k.setM n l v).sregs = k.sregs := by
  unfold Ctx.setM; split <;> rfl
@[simp] theorem Ctx.vregs_setM (k : Ctx) (n : Nat) (l v : LaneMask) : (k.setM n l v).vregs = k.vregs := by
  unfold Ctx.setM; split <;> rfl
@[simp] theorem Ctx.pats_setM (k : Ctx) (n : Nat) (l v : LaneMask) : (k.setM n l v).pats = k.pats := by
  unfold Ctx.setM; split <;> rfl
@[simp] theorem Ctx.tables_setM (k : Ctx) (n : Nat) (l v : LaneMask) : (k.setM n l v).tables = k.tables := by
  unfold Ctx.setM; split <;> rfl
@[simp] theorem Ctx.tableLoads_setM (k : Ctx) (n : Nat) (l v : LaneMask) : (k.setM n l v).tableLoads = k.tableLoads := by
  unfold Ctx.setM; split <;> rfl
@[simp] theorem Ctx.cqs_setM (k : Ctx) (n : Nat) (l v : LaneMask) : (k.setM n l v).cqs = k.cqs := by
  unfold Ctx.setM; split <;> rfl
@[simp] theorem Ctx.cb_setM (k : Ctx) (n : Nat) (l v : LaneMask) : (k.setM n l v).cb = k.cb := by
  unfold Ctx.setM; split <;> rfl
@[simp] theorem Ctx.guards_setM (k : Ctx) (n : Nat) (l v : LaneMask) : (k.setM n l v).guards = k.guards := by
  unfold Ctx.setM; split <;> rfl
@[simp] theorem Ctx.bars_setM (k : Ctx) (n : Nat) (l v : LaneMask) : (k.setM n l v).bars = k.bars := by
  unfold Ctx.setM; split <;> rfl
@[simp] theorem Ctx.barEvents_setM (k : Ctx) (n : Nat) (l v : LaneMask) : (k.setM n l v).barEvents = k.barEvents := by
  unfold Ctx.setM; split <;> rfl
@[simp] theorem Ctx.fpf_setM (k : Ctx) (n : Nat) (l v : LaneMask) : (k.setM n l v).fpf = k.fpf := by
  unfold Ctx.setM; split <;> rfl
@[simp] theorem Ctx.ferec_setM (k : Ctx) (n : Nat) (l v : LaneMask) : (k.setM n l v).ferec = k.ferec := by
  unfold Ctx.setM; split <;> rfl
@[simp] theorem Ctx.flagEvents_setM (k : Ctx) (n : Nat) (l v : LaneMask) : (k.setM n l v).flagEvents = k.flagEvents := by
  unfold Ctx.setM; split <;> rfl
@[simp] theorem Ctx.tvec_setM (k : Ctx) (n : Nat) (l v : LaneMask) : (k.setM n l v).tvec = k.tvec := by
  unfold Ctx.setM; split <;> rfl
@[simp] theorem Ctx.tepc_setM (k : Ctx) (n : Nat) (l v : LaneMask) : (k.setM n l v).tepc = k.tepc := by
  unfold Ctx.setM; split <;> rfl
@[simp] theorem Ctx.tcause_setM (k : Ctx) (n : Nat) (l v : LaneMask) : (k.setM n l v).tcause = k.tcause := by
  unfold Ctx.setM; split <;> rfl
@[simp] theorem Ctx.tval_setM (k : Ctx) (n : Nat) (l v : LaneMask) : (k.setM n l v).tval = k.tval := by
  unfold Ctx.setM; split <;> rfl
@[simp] theorem Ctx.issue_setM (k : Ctx) (n : Nat) (l v : LaneMask) : (k.setM n l v).issue = k.issue := by
  unfold Ctx.setM; split <;> rfl
@[simp] theorem Ctx.taskid_setM (k : Ctx) (n : Nat) (l v : LaneMask) : (k.setM n l v).taskid = k.taskid := by
  unfold Ctx.setM; split <;> rfl
@[simp] theorem Ctx.brcol_setM (k : Ctx) (n : Nat) (l v : LaneMask) : (k.setM n l v).brcol = k.brcol := by
  unfold Ctx.setM; split <;> rfl
@[simp] theorem Ctx.inhdl_setM (k : Ctx) (n : Nat) (l v : LaneMask) : (k.setM n l v).inhdl = k.inhdl := by
  unfold Ctx.setM; split <;> rfl
@[simp] theorem Ctx.clkReq_setM (k : Ctx) (n : Nat) (l v : LaneMask) : (k.setM n l v).clkReq = k.clkReq := by
  unfold Ctx.setM; split <;> rfl
@[simp] theorem Ctx.scrbase_setM (k : Ctx) (n : Nat) (l v : LaneMask) : (k.setM n l v).scrbase = k.scrbase := by
  unfold Ctx.setM; split <;> rfl
@[simp] theorem Ctx.scrlim_setM (k : Ctx) (n : Nat) (l v : LaneMask) : (k.setM n l v).scrlim = k.scrlim := by
  unfold Ctx.setM; split <;> rfl
@[simp] theorem Ctx.accbase_setM (k : Ctx) (n : Nat) (l v : LaneMask) : (k.setM n l v).accbase = k.accbase := by
  unfold Ctx.setM; split <;> rfl
@[simp] theorem Ctx.acclim_setM (k : Ctx) (n : Nat) (l v : LaneMask) : (k.setM n l v).acclim = k.acclim := by
  unfold Ctx.setM; split <;> rfl
@[simp] theorem Ctx.mscnt_setM (k : Ctx) (n : Nat) (l v : LaneMask) : (k.setM n l v).mscnt = k.mscnt := by
  unfold Ctx.setM; split <;> rfl
@[simp] theorem Ctx.msfro_setM (k : Ctx) (n : Nat) (l v : LaneMask) : (k.setM n l v).msfro = k.msfro := by
  unfold Ctx.setM; split <;> rfl
@[simp] theorem Ctx.msvar_setM (k : Ctx) (n : Nat) (l v : LaneMask) : (k.setM n l v).msvar = k.msvar := by
  unfold Ctx.setM; split <;> rfl
@[simp] theorem Ctx.msz_setM (k : Ctx) (n : Nat) (l v : LaneMask) : (k.setM n l v).msz = k.msz := by
  unfold Ctx.setM; split <;> rfl
@[simp] theorem Ctx.strands_setM (k : Ctx) (n : Nat) (l v : LaneMask) : (k.setM n l v).strands = k.strands := by
  unfold Ctx.setM; split <;> rfl
@[simp] theorem Ctx.nextStrand_setM (k : Ctx) (n : Nat) (l v : LaneMask) : (k.setM n l v).nextStrand = k.nextStrand := by
  unfold Ctx.setM; split <;> rfl
@[simp] theorem Ctx.repeats_setM (k : Ctx) (n : Nat) (l v : LaneMask) : (k.setM n l v).repeats = k.repeats := by
  unfold Ctx.setM; split <;> rfl
@[simp] theorem Ctx.pend_setM (k : Ctx) (n : Nat) (l v : LaneMask) : (k.setM n l v).pend = k.pend := by
  unfold Ctx.setM; split <;> rfl
@[simp] theorem Ctx.stopped_setM (k : Ctx) (n : Nat) (l v : LaneMask) : (k.setM n l v).stopped = k.stopped := by
  unfold Ctx.setM; split <;> rfl
@[simp] theorem Ctx.faulted_setM (k : Ctx) (n : Nat) (l v : LaneMask) : (k.setM n l v).faulted = k.faulted := by
  unfold Ctx.setM; split <;> rfl
@[simp] theorem Ctx.faultPc_setM (k : Ctx) (n : Nat) (l v : LaneMask) : (k.setM n l v).faultPc = k.faultPc := by
  unfold Ctx.setM; split <;> rfl
@[simp] theorem Ctx.stoppedReps_setM (k : Ctx) (n : Nat) (l v : LaneMask) : (k.setM n l v).stoppedReps = k.stoppedReps := by
  unfold Ctx.setM; split <;> rfl
@[simp] theorem Ctx.drain_setM (k : Ctx) (n : Nat) (l v : LaneMask) : (k.setM n l v).drain = k.drain := by
  unfold Ctx.setM; split <;> rfl
@[simp] theorem Ctx.stoppedDrain_setM (k : Ctx) (n : Nat) (l v : LaneMask) : (k.setM n l v).stoppedDrain = k.stoppedDrain := by
  unfold Ctx.setM; split <;> rfl
@[simp] theorem Ctx.leaving_setM (k : Ctx) (n : Nat) (l v : LaneMask) : (k.setM n l v).leaving = k.leaving := by
  unfold Ctx.setM; split <;> rfl
@[simp] theorem Ctx.discards_setM (k : Ctx) (n : Nat) (l v : LaneMask) : (k.setM n l v).discards = k.discards := by
  unfold Ctx.setM; split <;> rfl
@[simp] theorem Ctx.lives_setM (k : Ctx) (n : Nat) (l v : LaneMask) : (k.setM n l v).lives = k.lives := by
  unfold Ctx.setM; split <;> rfl
@[simp] theorem Ctx.extents_setM (k : Ctx) (n : Nat) (l v : LaneMask) : (k.setM n l v).extents = k.extents := by
  unfold Ctx.setM; split <;> rfl
@[simp] theorem Ctx.peers_setM (k : Ctx) (n : Nat) (l v : LaneMask) : (k.setM n l v).peers = k.peers := by
  unfold Ctx.setM; split <;> rfl
@[simp] theorem Ctx.shadow_setM (k : Ctx) (n : Nat) (l v : LaneMask) : (k.setM n l v).shadow = k.shadow := by
  unfold Ctx.setM; split <;> rfl
@[simp] theorem Ctx.tile_setM (k : Ctx) (n : Nat) (l v : LaneMask) : (k.setM n l v).tile = k.tile := by
  unfold Ctx.setM; split <;> rfl
@[simp] theorem Ctx.wslots_setM (k : Ctx) (n : Nat) (l v : LaneMask) : (k.setM n l v).wslots = k.wslots := by
  unfold Ctx.setM; split <;> rfl
@[simp] theorem Ctx.sampler_setM (k : Ctx) (n : Nat) (l v : LaneMask) : (k.setM n l v).sampler = k.sampler := by
  unfold Ctx.setM; split <;> rfl
@[simp] theorem Ctx.inP_setM (k : Ctx) (n : Nat) (l v : LaneMask) : (k.setM n l v).inP = k.inP := by
  unfold Ctx.setM; split <;> rfl
@[simp] theorem Ctx.inN_setM (k : Ctx) (n : Nat) (l v : LaneMask) : (k.setM n l v).inN = k.inN := by
  unfold Ctx.setM; split <;> rfl
@[simp] theorem Ctx.newest_setM (k : Ctx) (n : Nat) (l v : LaneMask) : (k.setM n l v).newest = k.newest := by
  unfold Ctx.setM; split <;> rfl
@[simp] theorem Ctx.posted_setM (k : Ctx) (n : Nat) (l v : LaneMask) : (k.setM n l v).posted = k.posted := by
  unfold Ctx.setM; split <;> rfl
@[simp] theorem Ctx.snap_setM (k : Ctx) (n : Nat) (l v : LaneMask) : (k.setM n l v).snap = k.snap := by
  unfold Ctx.setM; split <;> rfl
@[simp] theorem Ctx.relWord_setM (k : Ctx) (n : Nat) (l v : LaneMask) : (k.setM n l v).relWord = k.relWord := by
  unfold Ctx.setM; split <;> rfl
@[simp] theorem Ctx.ranSince_setM (k : Ctx) (n : Nat) (l v : LaneMask) : (k.setM n l v).ranSince = k.ranSince := by
  unfold Ctx.setM; split <;> rfl
@[simp] theorem Ctx.ranE_setM (k : Ctx) (n : Nat) (l v : LaneMask) : (k.setM n l v).ranE = k.ranE := by
  unfold Ctx.setM; split <;> rfl
@[simp] theorem Ctx.resume_setM (k : Ctx) (n : Nat) (l v : LaneMask) : (k.setM n l v).resume = k.resume := by
  unfold Ctx.setM; split <;> rfl
@[simp] theorem Ctx.replyLog_setM (k : Ctx) (n : Nat) (l v : LaneMask) : (k.setM n l v).replyLog = k.replyLog := by
  unfold Ctx.setM; split <;> rfl
@[simp] theorem Ctx.counts_setM (k : Ctx) (n : Nat) (l v : LaneMask) : (k.setM n l v).counts = k.counts := by
  unfold Ctx.setM; split <;> rfl
@[simp] theorem Ctx.copied_setM (k : Ctx) (n : Nat) (l v : LaneMask) : (k.setM n l v).copied = k.copied := by
  unfold Ctx.setM; split <;> rfl
@[simp] theorem Ctx.state_setV (k : Ctx) (n : Nat) (l : LaneMask) (v : VReg) : (k.setV n l v).state = k.state := rfl
@[simp] theorem Ctx.unit_setV (k : Ctx) (n : Nat) (l : LaneMask) (v : VReg) : (k.setV n l v).unit = k.unit := rfl
@[simp] theorem Ctx.gen_setV (k : Ctx) (n : Nat) (l : LaneMask) (v : VReg) : (k.setV n l v).gen = k.gen := rfl
@[simp] theorem Ctx.slotGen_setV (k : Ctx) (n : Nat) (l : LaneMask) (v : VReg) : (k.setV n l v).slotGen = k.slotGen := rfl
@[simp] theorem Ctx.sregs_setV (k : Ctx) (n : Nat) (l : LaneMask) (v : VReg) : (k.setV n l v).sregs = k.sregs := rfl
@[simp] theorem Ctx.masks_setV (k : Ctx) (n : Nat) (l : LaneMask) (v : VReg) : (k.setV n l v).masks = k.masks := rfl
@[simp] theorem Ctx.pats_setV (k : Ctx) (n : Nat) (l : LaneMask) (v : VReg) : (k.setV n l v).pats = k.pats := rfl
@[simp] theorem Ctx.tables_setV (k : Ctx) (n : Nat) (l : LaneMask) (v : VReg) : (k.setV n l v).tables = k.tables := rfl
@[simp] theorem Ctx.tableLoads_setV (k : Ctx) (n : Nat) (l : LaneMask) (v : VReg) : (k.setV n l v).tableLoads = k.tableLoads := rfl
@[simp] theorem Ctx.cqs_setV (k : Ctx) (n : Nat) (l : LaneMask) (v : VReg) : (k.setV n l v).cqs = k.cqs := rfl
@[simp] theorem Ctx.cb_setV (k : Ctx) (n : Nat) (l : LaneMask) (v : VReg) : (k.setV n l v).cb = k.cb := rfl
@[simp] theorem Ctx.guards_setV (k : Ctx) (n : Nat) (l : LaneMask) (v : VReg) : (k.setV n l v).guards = k.guards := rfl
@[simp] theorem Ctx.bars_setV (k : Ctx) (n : Nat) (l : LaneMask) (v : VReg) : (k.setV n l v).bars = k.bars := rfl
@[simp] theorem Ctx.barEvents_setV (k : Ctx) (n : Nat) (l : LaneMask) (v : VReg) : (k.setV n l v).barEvents = k.barEvents := rfl
@[simp] theorem Ctx.fpf_setV (k : Ctx) (n : Nat) (l : LaneMask) (v : VReg) : (k.setV n l v).fpf = k.fpf := rfl
@[simp] theorem Ctx.ferec_setV (k : Ctx) (n : Nat) (l : LaneMask) (v : VReg) : (k.setV n l v).ferec = k.ferec := rfl
@[simp] theorem Ctx.flagEvents_setV (k : Ctx) (n : Nat) (l : LaneMask) (v : VReg) : (k.setV n l v).flagEvents = k.flagEvents := rfl
@[simp] theorem Ctx.tvec_setV (k : Ctx) (n : Nat) (l : LaneMask) (v : VReg) : (k.setV n l v).tvec = k.tvec := rfl
@[simp] theorem Ctx.tepc_setV (k : Ctx) (n : Nat) (l : LaneMask) (v : VReg) : (k.setV n l v).tepc = k.tepc := rfl
@[simp] theorem Ctx.tcause_setV (k : Ctx) (n : Nat) (l : LaneMask) (v : VReg) : (k.setV n l v).tcause = k.tcause := rfl
@[simp] theorem Ctx.tval_setV (k : Ctx) (n : Nat) (l : LaneMask) (v : VReg) : (k.setV n l v).tval = k.tval := rfl
@[simp] theorem Ctx.issue_setV (k : Ctx) (n : Nat) (l : LaneMask) (v : VReg) : (k.setV n l v).issue = k.issue := rfl
@[simp] theorem Ctx.taskid_setV (k : Ctx) (n : Nat) (l : LaneMask) (v : VReg) : (k.setV n l v).taskid = k.taskid := rfl
@[simp] theorem Ctx.brcol_setV (k : Ctx) (n : Nat) (l : LaneMask) (v : VReg) : (k.setV n l v).brcol = k.brcol := rfl
@[simp] theorem Ctx.inhdl_setV (k : Ctx) (n : Nat) (l : LaneMask) (v : VReg) : (k.setV n l v).inhdl = k.inhdl := rfl
@[simp] theorem Ctx.clkReq_setV (k : Ctx) (n : Nat) (l : LaneMask) (v : VReg) : (k.setV n l v).clkReq = k.clkReq := rfl
@[simp] theorem Ctx.scrbase_setV (k : Ctx) (n : Nat) (l : LaneMask) (v : VReg) : (k.setV n l v).scrbase = k.scrbase := rfl
@[simp] theorem Ctx.scrlim_setV (k : Ctx) (n : Nat) (l : LaneMask) (v : VReg) : (k.setV n l v).scrlim = k.scrlim := rfl
@[simp] theorem Ctx.accbase_setV (k : Ctx) (n : Nat) (l : LaneMask) (v : VReg) : (k.setV n l v).accbase = k.accbase := rfl
@[simp] theorem Ctx.acclim_setV (k : Ctx) (n : Nat) (l : LaneMask) (v : VReg) : (k.setV n l v).acclim = k.acclim := rfl
@[simp] theorem Ctx.mscnt_setV (k : Ctx) (n : Nat) (l : LaneMask) (v : VReg) : (k.setV n l v).mscnt = k.mscnt := rfl
@[simp] theorem Ctx.msfro_setV (k : Ctx) (n : Nat) (l : LaneMask) (v : VReg) : (k.setV n l v).msfro = k.msfro := rfl
@[simp] theorem Ctx.msvar_setV (k : Ctx) (n : Nat) (l : LaneMask) (v : VReg) : (k.setV n l v).msvar = k.msvar := rfl
@[simp] theorem Ctx.msz_setV (k : Ctx) (n : Nat) (l : LaneMask) (v : VReg) : (k.setV n l v).msz = k.msz := rfl
@[simp] theorem Ctx.strands_setV (k : Ctx) (n : Nat) (l : LaneMask) (v : VReg) : (k.setV n l v).strands = k.strands := rfl
@[simp] theorem Ctx.nextStrand_setV (k : Ctx) (n : Nat) (l : LaneMask) (v : VReg) : (k.setV n l v).nextStrand = k.nextStrand := rfl
@[simp] theorem Ctx.repeats_setV (k : Ctx) (n : Nat) (l : LaneMask) (v : VReg) : (k.setV n l v).repeats = k.repeats := rfl
@[simp] theorem Ctx.pend_setV (k : Ctx) (n : Nat) (l : LaneMask) (v : VReg) : (k.setV n l v).pend = k.pend := rfl
@[simp] theorem Ctx.stopped_setV (k : Ctx) (n : Nat) (l : LaneMask) (v : VReg) : (k.setV n l v).stopped = k.stopped := rfl
@[simp] theorem Ctx.faulted_setV (k : Ctx) (n : Nat) (l : LaneMask) (v : VReg) : (k.setV n l v).faulted = k.faulted := rfl
@[simp] theorem Ctx.faultPc_setV (k : Ctx) (n : Nat) (l : LaneMask) (v : VReg) : (k.setV n l v).faultPc = k.faultPc := rfl
@[simp] theorem Ctx.stoppedReps_setV (k : Ctx) (n : Nat) (l : LaneMask) (v : VReg) : (k.setV n l v).stoppedReps = k.stoppedReps := rfl
@[simp] theorem Ctx.drain_setV (k : Ctx) (n : Nat) (l : LaneMask) (v : VReg) : (k.setV n l v).drain = k.drain := rfl
@[simp] theorem Ctx.stoppedDrain_setV (k : Ctx) (n : Nat) (l : LaneMask) (v : VReg) : (k.setV n l v).stoppedDrain = k.stoppedDrain := rfl
@[simp] theorem Ctx.leaving_setV (k : Ctx) (n : Nat) (l : LaneMask) (v : VReg) : (k.setV n l v).leaving = k.leaving := rfl
@[simp] theorem Ctx.discards_setV (k : Ctx) (n : Nat) (l : LaneMask) (v : VReg) : (k.setV n l v).discards = k.discards := rfl
@[simp] theorem Ctx.lives_setV (k : Ctx) (n : Nat) (l : LaneMask) (v : VReg) : (k.setV n l v).lives = k.lives := rfl
@[simp] theorem Ctx.extents_setV (k : Ctx) (n : Nat) (l : LaneMask) (v : VReg) : (k.setV n l v).extents = k.extents := rfl
@[simp] theorem Ctx.peers_setV (k : Ctx) (n : Nat) (l : LaneMask) (v : VReg) : (k.setV n l v).peers = k.peers := rfl
@[simp] theorem Ctx.shadow_setV (k : Ctx) (n : Nat) (l : LaneMask) (v : VReg) : (k.setV n l v).shadow = k.shadow := rfl
@[simp] theorem Ctx.tile_setV (k : Ctx) (n : Nat) (l : LaneMask) (v : VReg) : (k.setV n l v).tile = k.tile := rfl
@[simp] theorem Ctx.wslots_setV (k : Ctx) (n : Nat) (l : LaneMask) (v : VReg) : (k.setV n l v).wslots = k.wslots := rfl
@[simp] theorem Ctx.sampler_setV (k : Ctx) (n : Nat) (l : LaneMask) (v : VReg) : (k.setV n l v).sampler = k.sampler := rfl
@[simp] theorem Ctx.inP_setV (k : Ctx) (n : Nat) (l : LaneMask) (v : VReg) : (k.setV n l v).inP = k.inP := rfl
@[simp] theorem Ctx.inN_setV (k : Ctx) (n : Nat) (l : LaneMask) (v : VReg) : (k.setV n l v).inN = k.inN := rfl
@[simp] theorem Ctx.newest_setV (k : Ctx) (n : Nat) (l : LaneMask) (v : VReg) : (k.setV n l v).newest = k.newest := rfl
@[simp] theorem Ctx.posted_setV (k : Ctx) (n : Nat) (l : LaneMask) (v : VReg) : (k.setV n l v).posted = k.posted := rfl
@[simp] theorem Ctx.snap_setV (k : Ctx) (n : Nat) (l : LaneMask) (v : VReg) : (k.setV n l v).snap = k.snap := rfl
@[simp] theorem Ctx.relWord_setV (k : Ctx) (n : Nat) (l : LaneMask) (v : VReg) : (k.setV n l v).relWord = k.relWord := rfl
@[simp] theorem Ctx.ranSince_setV (k : Ctx) (n : Nat) (l : LaneMask) (v : VReg) : (k.setV n l v).ranSince = k.ranSince := rfl
@[simp] theorem Ctx.ranE_setV (k : Ctx) (n : Nat) (l : LaneMask) (v : VReg) : (k.setV n l v).ranE = k.ranE := rfl
@[simp] theorem Ctx.resume_setV (k : Ctx) (n : Nat) (l : LaneMask) (v : VReg) : (k.setV n l v).resume = k.resume := rfl
@[simp] theorem Ctx.replyLog_setV (k : Ctx) (n : Nat) (l : LaneMask) (v : VReg) : (k.setV n l v).replyLog = k.replyLog := rfl
@[simp] theorem Ctx.counts_setV (k : Ctx) (n : Nat) (l : LaneMask) (v : VReg) : (k.setV n l v).counts = k.counts := rfl
@[simp] theorem Ctx.copied_setV (k : Ctx) (n : Nat) (l : LaneMask) (v : VReg) : (k.setV n l v).copied = k.copied := rfl
@[simp] theorem Ctx.state_setP (k : Ctx) (n : Nat) (v : BitVec 128) : (k.setP n v).state = k.state := rfl
@[simp] theorem Ctx.unit_setP (k : Ctx) (n : Nat) (v : BitVec 128) : (k.setP n v).unit = k.unit := rfl
@[simp] theorem Ctx.gen_setP (k : Ctx) (n : Nat) (v : BitVec 128) : (k.setP n v).gen = k.gen := rfl
@[simp] theorem Ctx.slotGen_setP (k : Ctx) (n : Nat) (v : BitVec 128) : (k.setP n v).slotGen = k.slotGen := rfl
@[simp] theorem Ctx.sregs_setP (k : Ctx) (n : Nat) (v : BitVec 128) : (k.setP n v).sregs = k.sregs := rfl
@[simp] theorem Ctx.vregs_setP (k : Ctx) (n : Nat) (v : BitVec 128) : (k.setP n v).vregs = k.vregs := rfl
@[simp] theorem Ctx.masks_setP (k : Ctx) (n : Nat) (v : BitVec 128) : (k.setP n v).masks = k.masks := rfl
@[simp] theorem Ctx.tables_setP (k : Ctx) (n : Nat) (v : BitVec 128) : (k.setP n v).tables = k.tables := rfl
@[simp] theorem Ctx.tableLoads_setP (k : Ctx) (n : Nat) (v : BitVec 128) : (k.setP n v).tableLoads = k.tableLoads := rfl
@[simp] theorem Ctx.cqs_setP (k : Ctx) (n : Nat) (v : BitVec 128) : (k.setP n v).cqs = k.cqs := rfl
@[simp] theorem Ctx.cb_setP (k : Ctx) (n : Nat) (v : BitVec 128) : (k.setP n v).cb = k.cb := rfl
@[simp] theorem Ctx.guards_setP (k : Ctx) (n : Nat) (v : BitVec 128) : (k.setP n v).guards = k.guards := rfl
@[simp] theorem Ctx.bars_setP (k : Ctx) (n : Nat) (v : BitVec 128) : (k.setP n v).bars = k.bars := rfl
@[simp] theorem Ctx.barEvents_setP (k : Ctx) (n : Nat) (v : BitVec 128) : (k.setP n v).barEvents = k.barEvents := rfl
@[simp] theorem Ctx.fpf_setP (k : Ctx) (n : Nat) (v : BitVec 128) : (k.setP n v).fpf = k.fpf := rfl
@[simp] theorem Ctx.ferec_setP (k : Ctx) (n : Nat) (v : BitVec 128) : (k.setP n v).ferec = k.ferec := rfl
@[simp] theorem Ctx.flagEvents_setP (k : Ctx) (n : Nat) (v : BitVec 128) : (k.setP n v).flagEvents = k.flagEvents := rfl
@[simp] theorem Ctx.tvec_setP (k : Ctx) (n : Nat) (v : BitVec 128) : (k.setP n v).tvec = k.tvec := rfl
@[simp] theorem Ctx.tepc_setP (k : Ctx) (n : Nat) (v : BitVec 128) : (k.setP n v).tepc = k.tepc := rfl
@[simp] theorem Ctx.tcause_setP (k : Ctx) (n : Nat) (v : BitVec 128) : (k.setP n v).tcause = k.tcause := rfl
@[simp] theorem Ctx.tval_setP (k : Ctx) (n : Nat) (v : BitVec 128) : (k.setP n v).tval = k.tval := rfl
@[simp] theorem Ctx.issue_setP (k : Ctx) (n : Nat) (v : BitVec 128) : (k.setP n v).issue = k.issue := rfl
@[simp] theorem Ctx.taskid_setP (k : Ctx) (n : Nat) (v : BitVec 128) : (k.setP n v).taskid = k.taskid := rfl
@[simp] theorem Ctx.brcol_setP (k : Ctx) (n : Nat) (v : BitVec 128) : (k.setP n v).brcol = k.brcol := rfl
@[simp] theorem Ctx.inhdl_setP (k : Ctx) (n : Nat) (v : BitVec 128) : (k.setP n v).inhdl = k.inhdl := rfl
@[simp] theorem Ctx.clkReq_setP (k : Ctx) (n : Nat) (v : BitVec 128) : (k.setP n v).clkReq = k.clkReq := rfl
@[simp] theorem Ctx.scrbase_setP (k : Ctx) (n : Nat) (v : BitVec 128) : (k.setP n v).scrbase = k.scrbase := rfl
@[simp] theorem Ctx.scrlim_setP (k : Ctx) (n : Nat) (v : BitVec 128) : (k.setP n v).scrlim = k.scrlim := rfl
@[simp] theorem Ctx.accbase_setP (k : Ctx) (n : Nat) (v : BitVec 128) : (k.setP n v).accbase = k.accbase := rfl
@[simp] theorem Ctx.acclim_setP (k : Ctx) (n : Nat) (v : BitVec 128) : (k.setP n v).acclim = k.acclim := rfl
@[simp] theorem Ctx.mscnt_setP (k : Ctx) (n : Nat) (v : BitVec 128) : (k.setP n v).mscnt = k.mscnt := rfl
@[simp] theorem Ctx.msfro_setP (k : Ctx) (n : Nat) (v : BitVec 128) : (k.setP n v).msfro = k.msfro := rfl
@[simp] theorem Ctx.msvar_setP (k : Ctx) (n : Nat) (v : BitVec 128) : (k.setP n v).msvar = k.msvar := rfl
@[simp] theorem Ctx.msz_setP (k : Ctx) (n : Nat) (v : BitVec 128) : (k.setP n v).msz = k.msz := rfl
@[simp] theorem Ctx.strands_setP (k : Ctx) (n : Nat) (v : BitVec 128) : (k.setP n v).strands = k.strands := rfl
@[simp] theorem Ctx.nextStrand_setP (k : Ctx) (n : Nat) (v : BitVec 128) : (k.setP n v).nextStrand = k.nextStrand := rfl
@[simp] theorem Ctx.repeats_setP (k : Ctx) (n : Nat) (v : BitVec 128) : (k.setP n v).repeats = k.repeats := rfl
@[simp] theorem Ctx.pend_setP (k : Ctx) (n : Nat) (v : BitVec 128) : (k.setP n v).pend = k.pend := rfl
@[simp] theorem Ctx.stopped_setP (k : Ctx) (n : Nat) (v : BitVec 128) : (k.setP n v).stopped = k.stopped := rfl
@[simp] theorem Ctx.faulted_setP (k : Ctx) (n : Nat) (v : BitVec 128) : (k.setP n v).faulted = k.faulted := rfl
@[simp] theorem Ctx.faultPc_setP (k : Ctx) (n : Nat) (v : BitVec 128) : (k.setP n v).faultPc = k.faultPc := rfl
@[simp] theorem Ctx.stoppedReps_setP (k : Ctx) (n : Nat) (v : BitVec 128) : (k.setP n v).stoppedReps = k.stoppedReps := rfl
@[simp] theorem Ctx.drain_setP (k : Ctx) (n : Nat) (v : BitVec 128) : (k.setP n v).drain = k.drain := rfl
@[simp] theorem Ctx.stoppedDrain_setP (k : Ctx) (n : Nat) (v : BitVec 128) : (k.setP n v).stoppedDrain = k.stoppedDrain := rfl
@[simp] theorem Ctx.leaving_setP (k : Ctx) (n : Nat) (v : BitVec 128) : (k.setP n v).leaving = k.leaving := rfl
@[simp] theorem Ctx.discards_setP (k : Ctx) (n : Nat) (v : BitVec 128) : (k.setP n v).discards = k.discards := rfl
@[simp] theorem Ctx.lives_setP (k : Ctx) (n : Nat) (v : BitVec 128) : (k.setP n v).lives = k.lives := rfl
@[simp] theorem Ctx.extents_setP (k : Ctx) (n : Nat) (v : BitVec 128) : (k.setP n v).extents = k.extents := rfl
@[simp] theorem Ctx.peers_setP (k : Ctx) (n : Nat) (v : BitVec 128) : (k.setP n v).peers = k.peers := rfl
@[simp] theorem Ctx.shadow_setP (k : Ctx) (n : Nat) (v : BitVec 128) : (k.setP n v).shadow = k.shadow := rfl
@[simp] theorem Ctx.tile_setP (k : Ctx) (n : Nat) (v : BitVec 128) : (k.setP n v).tile = k.tile := rfl
@[simp] theorem Ctx.wslots_setP (k : Ctx) (n : Nat) (v : BitVec 128) : (k.setP n v).wslots = k.wslots := rfl
@[simp] theorem Ctx.sampler_setP (k : Ctx) (n : Nat) (v : BitVec 128) : (k.setP n v).sampler = k.sampler := rfl
@[simp] theorem Ctx.inP_setP (k : Ctx) (n : Nat) (v : BitVec 128) : (k.setP n v).inP = k.inP := rfl
@[simp] theorem Ctx.inN_setP (k : Ctx) (n : Nat) (v : BitVec 128) : (k.setP n v).inN = k.inN := rfl
@[simp] theorem Ctx.newest_setP (k : Ctx) (n : Nat) (v : BitVec 128) : (k.setP n v).newest = k.newest := rfl
@[simp] theorem Ctx.posted_setP (k : Ctx) (n : Nat) (v : BitVec 128) : (k.setP n v).posted = k.posted := rfl
@[simp] theorem Ctx.snap_setP (k : Ctx) (n : Nat) (v : BitVec 128) : (k.setP n v).snap = k.snap := rfl
@[simp] theorem Ctx.relWord_setP (k : Ctx) (n : Nat) (v : BitVec 128) : (k.setP n v).relWord = k.relWord := rfl
@[simp] theorem Ctx.ranSince_setP (k : Ctx) (n : Nat) (v : BitVec 128) : (k.setP n v).ranSince = k.ranSince := rfl
@[simp] theorem Ctx.ranE_setP (k : Ctx) (n : Nat) (v : BitVec 128) : (k.setP n v).ranE = k.ranE := rfl
@[simp] theorem Ctx.resume_setP (k : Ctx) (n : Nat) (v : BitVec 128) : (k.setP n v).resume = k.resume := rfl
@[simp] theorem Ctx.replyLog_setP (k : Ctx) (n : Nat) (v : BitVec 128) : (k.setP n v).replyLog = k.replyLog := rfl
@[simp] theorem Ctx.counts_setP (k : Ctx) (n : Nat) (v : BitVec 128) : (k.setP n v).counts = k.counts := rfl
@[simp] theorem Ctx.copied_setP (k : Ctx) (n : Nat) (v : BitVec 128) : (k.setP n v).copied = k.copied := rfl
@[simp] theorem Ctx.state_pushCq (k : Ctx) (n : Nat) (b : Bool) : (k.pushCq n b).state = k.state := rfl
@[simp] theorem Ctx.unit_pushCq (k : Ctx) (n : Nat) (b : Bool) : (k.pushCq n b).unit = k.unit := rfl
@[simp] theorem Ctx.gen_pushCq (k : Ctx) (n : Nat) (b : Bool) : (k.pushCq n b).gen = k.gen := rfl
@[simp] theorem Ctx.slotGen_pushCq (k : Ctx) (n : Nat) (b : Bool) : (k.pushCq n b).slotGen = k.slotGen := rfl
@[simp] theorem Ctx.sregs_pushCq (k : Ctx) (n : Nat) (b : Bool) : (k.pushCq n b).sregs = k.sregs := rfl
@[simp] theorem Ctx.vregs_pushCq (k : Ctx) (n : Nat) (b : Bool) : (k.pushCq n b).vregs = k.vregs := rfl
@[simp] theorem Ctx.masks_pushCq (k : Ctx) (n : Nat) (b : Bool) : (k.pushCq n b).masks = k.masks := rfl
@[simp] theorem Ctx.pats_pushCq (k : Ctx) (n : Nat) (b : Bool) : (k.pushCq n b).pats = k.pats := rfl
@[simp] theorem Ctx.tables_pushCq (k : Ctx) (n : Nat) (b : Bool) : (k.pushCq n b).tables = k.tables := rfl
@[simp] theorem Ctx.tableLoads_pushCq (k : Ctx) (n : Nat) (b : Bool) : (k.pushCq n b).tableLoads = k.tableLoads := rfl
@[simp] theorem Ctx.cb_pushCq (k : Ctx) (n : Nat) (b : Bool) : (k.pushCq n b).cb = k.cb := rfl
@[simp] theorem Ctx.guards_pushCq (k : Ctx) (n : Nat) (b : Bool) : (k.pushCq n b).guards = k.guards := rfl
@[simp] theorem Ctx.bars_pushCq (k : Ctx) (n : Nat) (b : Bool) : (k.pushCq n b).bars = k.bars := rfl
@[simp] theorem Ctx.barEvents_pushCq (k : Ctx) (n : Nat) (b : Bool) : (k.pushCq n b).barEvents = k.barEvents := rfl
@[simp] theorem Ctx.fpf_pushCq (k : Ctx) (n : Nat) (b : Bool) : (k.pushCq n b).fpf = k.fpf := rfl
@[simp] theorem Ctx.ferec_pushCq (k : Ctx) (n : Nat) (b : Bool) : (k.pushCq n b).ferec = k.ferec := rfl
@[simp] theorem Ctx.flagEvents_pushCq (k : Ctx) (n : Nat) (b : Bool) : (k.pushCq n b).flagEvents = k.flagEvents := rfl
@[simp] theorem Ctx.tvec_pushCq (k : Ctx) (n : Nat) (b : Bool) : (k.pushCq n b).tvec = k.tvec := rfl
@[simp] theorem Ctx.tepc_pushCq (k : Ctx) (n : Nat) (b : Bool) : (k.pushCq n b).tepc = k.tepc := rfl
@[simp] theorem Ctx.tcause_pushCq (k : Ctx) (n : Nat) (b : Bool) : (k.pushCq n b).tcause = k.tcause := rfl
@[simp] theorem Ctx.tval_pushCq (k : Ctx) (n : Nat) (b : Bool) : (k.pushCq n b).tval = k.tval := rfl
@[simp] theorem Ctx.issue_pushCq (k : Ctx) (n : Nat) (b : Bool) : (k.pushCq n b).issue = k.issue := rfl
@[simp] theorem Ctx.taskid_pushCq (k : Ctx) (n : Nat) (b : Bool) : (k.pushCq n b).taskid = k.taskid := rfl
@[simp] theorem Ctx.brcol_pushCq (k : Ctx) (n : Nat) (b : Bool) : (k.pushCq n b).brcol = k.brcol := rfl
@[simp] theorem Ctx.inhdl_pushCq (k : Ctx) (n : Nat) (b : Bool) : (k.pushCq n b).inhdl = k.inhdl := rfl
@[simp] theorem Ctx.clkReq_pushCq (k : Ctx) (n : Nat) (b : Bool) : (k.pushCq n b).clkReq = k.clkReq := rfl
@[simp] theorem Ctx.scrbase_pushCq (k : Ctx) (n : Nat) (b : Bool) : (k.pushCq n b).scrbase = k.scrbase := rfl
@[simp] theorem Ctx.scrlim_pushCq (k : Ctx) (n : Nat) (b : Bool) : (k.pushCq n b).scrlim = k.scrlim := rfl
@[simp] theorem Ctx.accbase_pushCq (k : Ctx) (n : Nat) (b : Bool) : (k.pushCq n b).accbase = k.accbase := rfl
@[simp] theorem Ctx.acclim_pushCq (k : Ctx) (n : Nat) (b : Bool) : (k.pushCq n b).acclim = k.acclim := rfl
@[simp] theorem Ctx.mscnt_pushCq (k : Ctx) (n : Nat) (b : Bool) : (k.pushCq n b).mscnt = k.mscnt := rfl
@[simp] theorem Ctx.msfro_pushCq (k : Ctx) (n : Nat) (b : Bool) : (k.pushCq n b).msfro = k.msfro := rfl
@[simp] theorem Ctx.msvar_pushCq (k : Ctx) (n : Nat) (b : Bool) : (k.pushCq n b).msvar = k.msvar := rfl
@[simp] theorem Ctx.msz_pushCq (k : Ctx) (n : Nat) (b : Bool) : (k.pushCq n b).msz = k.msz := rfl
@[simp] theorem Ctx.strands_pushCq (k : Ctx) (n : Nat) (b : Bool) : (k.pushCq n b).strands = k.strands := rfl
@[simp] theorem Ctx.nextStrand_pushCq (k : Ctx) (n : Nat) (b : Bool) : (k.pushCq n b).nextStrand = k.nextStrand := rfl
@[simp] theorem Ctx.repeats_pushCq (k : Ctx) (n : Nat) (b : Bool) : (k.pushCq n b).repeats = k.repeats := rfl
@[simp] theorem Ctx.pend_pushCq (k : Ctx) (n : Nat) (b : Bool) : (k.pushCq n b).pend = k.pend := rfl
@[simp] theorem Ctx.stopped_pushCq (k : Ctx) (n : Nat) (b : Bool) : (k.pushCq n b).stopped = k.stopped := rfl
@[simp] theorem Ctx.faulted_pushCq (k : Ctx) (n : Nat) (b : Bool) : (k.pushCq n b).faulted = k.faulted := rfl
@[simp] theorem Ctx.faultPc_pushCq (k : Ctx) (n : Nat) (b : Bool) : (k.pushCq n b).faultPc = k.faultPc := rfl
@[simp] theorem Ctx.stoppedReps_pushCq (k : Ctx) (n : Nat) (b : Bool) : (k.pushCq n b).stoppedReps = k.stoppedReps := rfl
@[simp] theorem Ctx.drain_pushCq (k : Ctx) (n : Nat) (b : Bool) : (k.pushCq n b).drain = k.drain := rfl
@[simp] theorem Ctx.stoppedDrain_pushCq (k : Ctx) (n : Nat) (b : Bool) : (k.pushCq n b).stoppedDrain = k.stoppedDrain := rfl
@[simp] theorem Ctx.leaving_pushCq (k : Ctx) (n : Nat) (b : Bool) : (k.pushCq n b).leaving = k.leaving := rfl
@[simp] theorem Ctx.discards_pushCq (k : Ctx) (n : Nat) (b : Bool) : (k.pushCq n b).discards = k.discards := rfl
@[simp] theorem Ctx.lives_pushCq (k : Ctx) (n : Nat) (b : Bool) : (k.pushCq n b).lives = k.lives := rfl
@[simp] theorem Ctx.extents_pushCq (k : Ctx) (n : Nat) (b : Bool) : (k.pushCq n b).extents = k.extents := rfl
@[simp] theorem Ctx.peers_pushCq (k : Ctx) (n : Nat) (b : Bool) : (k.pushCq n b).peers = k.peers := rfl
@[simp] theorem Ctx.shadow_pushCq (k : Ctx) (n : Nat) (b : Bool) : (k.pushCq n b).shadow = k.shadow := rfl
@[simp] theorem Ctx.tile_pushCq (k : Ctx) (n : Nat) (b : Bool) : (k.pushCq n b).tile = k.tile := rfl
@[simp] theorem Ctx.wslots_pushCq (k : Ctx) (n : Nat) (b : Bool) : (k.pushCq n b).wslots = k.wslots := rfl
@[simp] theorem Ctx.sampler_pushCq (k : Ctx) (n : Nat) (b : Bool) : (k.pushCq n b).sampler = k.sampler := rfl
@[simp] theorem Ctx.inP_pushCq (k : Ctx) (n : Nat) (b : Bool) : (k.pushCq n b).inP = k.inP := rfl
@[simp] theorem Ctx.inN_pushCq (k : Ctx) (n : Nat) (b : Bool) : (k.pushCq n b).inN = k.inN := rfl
@[simp] theorem Ctx.newest_pushCq (k : Ctx) (n : Nat) (b : Bool) : (k.pushCq n b).newest = k.newest := rfl
@[simp] theorem Ctx.posted_pushCq (k : Ctx) (n : Nat) (b : Bool) : (k.pushCq n b).posted = k.posted := rfl
@[simp] theorem Ctx.snap_pushCq (k : Ctx) (n : Nat) (b : Bool) : (k.pushCq n b).snap = k.snap := rfl
@[simp] theorem Ctx.relWord_pushCq (k : Ctx) (n : Nat) (b : Bool) : (k.pushCq n b).relWord = k.relWord := rfl
@[simp] theorem Ctx.ranSince_pushCq (k : Ctx) (n : Nat) (b : Bool) : (k.pushCq n b).ranSince = k.ranSince := rfl
@[simp] theorem Ctx.ranE_pushCq (k : Ctx) (n : Nat) (b : Bool) : (k.pushCq n b).ranE = k.ranE := rfl
@[simp] theorem Ctx.resume_pushCq (k : Ctx) (n : Nat) (b : Bool) : (k.pushCq n b).resume = k.resume := rfl
@[simp] theorem Ctx.replyLog_pushCq (k : Ctx) (n : Nat) (b : Bool) : (k.pushCq n b).replyLog = k.replyLog := rfl
@[simp] theorem Ctx.counts_pushCq (k : Ctx) (n : Nat) (b : Bool) : (k.pushCq n b).counts = k.counts := rfl
@[simp] theorem Ctx.copied_pushCq (k : Ctx) (n : Nat) (b : Bool) : (k.pushCq n b).copied = k.copied := rfl
@[simp] theorem Ctx.state_popCq (k : Ctx) (n : Nat) : (k.popCq n).state = k.state := rfl
@[simp] theorem Ctx.unit_popCq (k : Ctx) (n : Nat) : (k.popCq n).unit = k.unit := rfl
@[simp] theorem Ctx.gen_popCq (k : Ctx) (n : Nat) : (k.popCq n).gen = k.gen := rfl
@[simp] theorem Ctx.slotGen_popCq (k : Ctx) (n : Nat) : (k.popCq n).slotGen = k.slotGen := rfl
@[simp] theorem Ctx.sregs_popCq (k : Ctx) (n : Nat) : (k.popCq n).sregs = k.sregs := rfl
@[simp] theorem Ctx.vregs_popCq (k : Ctx) (n : Nat) : (k.popCq n).vregs = k.vregs := rfl
@[simp] theorem Ctx.masks_popCq (k : Ctx) (n : Nat) : (k.popCq n).masks = k.masks := rfl
@[simp] theorem Ctx.pats_popCq (k : Ctx) (n : Nat) : (k.popCq n).pats = k.pats := rfl
@[simp] theorem Ctx.tables_popCq (k : Ctx) (n : Nat) : (k.popCq n).tables = k.tables := rfl
@[simp] theorem Ctx.tableLoads_popCq (k : Ctx) (n : Nat) : (k.popCq n).tableLoads = k.tableLoads := rfl
@[simp] theorem Ctx.cb_popCq (k : Ctx) (n : Nat) : (k.popCq n).cb = k.cb := rfl
@[simp] theorem Ctx.guards_popCq (k : Ctx) (n : Nat) : (k.popCq n).guards = k.guards := rfl
@[simp] theorem Ctx.bars_popCq (k : Ctx) (n : Nat) : (k.popCq n).bars = k.bars := rfl
@[simp] theorem Ctx.barEvents_popCq (k : Ctx) (n : Nat) : (k.popCq n).barEvents = k.barEvents := rfl
@[simp] theorem Ctx.fpf_popCq (k : Ctx) (n : Nat) : (k.popCq n).fpf = k.fpf := rfl
@[simp] theorem Ctx.ferec_popCq (k : Ctx) (n : Nat) : (k.popCq n).ferec = k.ferec := rfl
@[simp] theorem Ctx.flagEvents_popCq (k : Ctx) (n : Nat) : (k.popCq n).flagEvents = k.flagEvents := rfl
@[simp] theorem Ctx.tvec_popCq (k : Ctx) (n : Nat) : (k.popCq n).tvec = k.tvec := rfl
@[simp] theorem Ctx.tepc_popCq (k : Ctx) (n : Nat) : (k.popCq n).tepc = k.tepc := rfl
@[simp] theorem Ctx.tcause_popCq (k : Ctx) (n : Nat) : (k.popCq n).tcause = k.tcause := rfl
@[simp] theorem Ctx.tval_popCq (k : Ctx) (n : Nat) : (k.popCq n).tval = k.tval := rfl
@[simp] theorem Ctx.issue_popCq (k : Ctx) (n : Nat) : (k.popCq n).issue = k.issue := rfl
@[simp] theorem Ctx.taskid_popCq (k : Ctx) (n : Nat) : (k.popCq n).taskid = k.taskid := rfl
@[simp] theorem Ctx.brcol_popCq (k : Ctx) (n : Nat) : (k.popCq n).brcol = k.brcol := rfl
@[simp] theorem Ctx.inhdl_popCq (k : Ctx) (n : Nat) : (k.popCq n).inhdl = k.inhdl := rfl
@[simp] theorem Ctx.clkReq_popCq (k : Ctx) (n : Nat) : (k.popCq n).clkReq = k.clkReq := rfl
@[simp] theorem Ctx.scrbase_popCq (k : Ctx) (n : Nat) : (k.popCq n).scrbase = k.scrbase := rfl
@[simp] theorem Ctx.scrlim_popCq (k : Ctx) (n : Nat) : (k.popCq n).scrlim = k.scrlim := rfl
@[simp] theorem Ctx.accbase_popCq (k : Ctx) (n : Nat) : (k.popCq n).accbase = k.accbase := rfl
@[simp] theorem Ctx.acclim_popCq (k : Ctx) (n : Nat) : (k.popCq n).acclim = k.acclim := rfl
@[simp] theorem Ctx.mscnt_popCq (k : Ctx) (n : Nat) : (k.popCq n).mscnt = k.mscnt := rfl
@[simp] theorem Ctx.msfro_popCq (k : Ctx) (n : Nat) : (k.popCq n).msfro = k.msfro := rfl
@[simp] theorem Ctx.msvar_popCq (k : Ctx) (n : Nat) : (k.popCq n).msvar = k.msvar := rfl
@[simp] theorem Ctx.msz_popCq (k : Ctx) (n : Nat) : (k.popCq n).msz = k.msz := rfl
@[simp] theorem Ctx.strands_popCq (k : Ctx) (n : Nat) : (k.popCq n).strands = k.strands := rfl
@[simp] theorem Ctx.nextStrand_popCq (k : Ctx) (n : Nat) : (k.popCq n).nextStrand = k.nextStrand := rfl
@[simp] theorem Ctx.repeats_popCq (k : Ctx) (n : Nat) : (k.popCq n).repeats = k.repeats := rfl
@[simp] theorem Ctx.pend_popCq (k : Ctx) (n : Nat) : (k.popCq n).pend = k.pend := rfl
@[simp] theorem Ctx.stopped_popCq (k : Ctx) (n : Nat) : (k.popCq n).stopped = k.stopped := rfl
@[simp] theorem Ctx.faulted_popCq (k : Ctx) (n : Nat) : (k.popCq n).faulted = k.faulted := rfl
@[simp] theorem Ctx.faultPc_popCq (k : Ctx) (n : Nat) : (k.popCq n).faultPc = k.faultPc := rfl
@[simp] theorem Ctx.stoppedReps_popCq (k : Ctx) (n : Nat) : (k.popCq n).stoppedReps = k.stoppedReps := rfl
@[simp] theorem Ctx.drain_popCq (k : Ctx) (n : Nat) : (k.popCq n).drain = k.drain := rfl
@[simp] theorem Ctx.stoppedDrain_popCq (k : Ctx) (n : Nat) : (k.popCq n).stoppedDrain = k.stoppedDrain := rfl
@[simp] theorem Ctx.leaving_popCq (k : Ctx) (n : Nat) : (k.popCq n).leaving = k.leaving := rfl
@[simp] theorem Ctx.discards_popCq (k : Ctx) (n : Nat) : (k.popCq n).discards = k.discards := rfl
@[simp] theorem Ctx.lives_popCq (k : Ctx) (n : Nat) : (k.popCq n).lives = k.lives := rfl
@[simp] theorem Ctx.extents_popCq (k : Ctx) (n : Nat) : (k.popCq n).extents = k.extents := rfl
@[simp] theorem Ctx.peers_popCq (k : Ctx) (n : Nat) : (k.popCq n).peers = k.peers := rfl
@[simp] theorem Ctx.shadow_popCq (k : Ctx) (n : Nat) : (k.popCq n).shadow = k.shadow := rfl
@[simp] theorem Ctx.tile_popCq (k : Ctx) (n : Nat) : (k.popCq n).tile = k.tile := rfl
@[simp] theorem Ctx.wslots_popCq (k : Ctx) (n : Nat) : (k.popCq n).wslots = k.wslots := rfl
@[simp] theorem Ctx.sampler_popCq (k : Ctx) (n : Nat) : (k.popCq n).sampler = k.sampler := rfl
@[simp] theorem Ctx.inP_popCq (k : Ctx) (n : Nat) : (k.popCq n).inP = k.inP := rfl
@[simp] theorem Ctx.inN_popCq (k : Ctx) (n : Nat) : (k.popCq n).inN = k.inN := rfl
@[simp] theorem Ctx.newest_popCq (k : Ctx) (n : Nat) : (k.popCq n).newest = k.newest := rfl
@[simp] theorem Ctx.posted_popCq (k : Ctx) (n : Nat) : (k.popCq n).posted = k.posted := rfl
@[simp] theorem Ctx.snap_popCq (k : Ctx) (n : Nat) : (k.popCq n).snap = k.snap := rfl
@[simp] theorem Ctx.relWord_popCq (k : Ctx) (n : Nat) : (k.popCq n).relWord = k.relWord := rfl
@[simp] theorem Ctx.ranSince_popCq (k : Ctx) (n : Nat) : (k.popCq n).ranSince = k.ranSince := rfl
@[simp] theorem Ctx.ranE_popCq (k : Ctx) (n : Nat) : (k.popCq n).ranE = k.ranE := rfl
@[simp] theorem Ctx.resume_popCq (k : Ctx) (n : Nat) : (k.popCq n).resume = k.resume := rfl
@[simp] theorem Ctx.replyLog_popCq (k : Ctx) (n : Nat) : (k.popCq n).replyLog = k.replyLog := rfl
@[simp] theorem Ctx.counts_popCq (k : Ctx) (n : Nat) : (k.popCq n).counts = k.counts := rfl
@[simp] theorem Ctx.copied_popCq (k : Ctx) (n : Nat) : (k.popCq n).copied = k.copied := rfl
@[simp] theorem Ctx.state_modStrand (k : Ctx) (i : Nat) (f : Strand → Strand) : (k.modStrand i f).state = k.state := rfl
@[simp] theorem Ctx.unit_modStrand (k : Ctx) (i : Nat) (f : Strand → Strand) : (k.modStrand i f).unit = k.unit := rfl
@[simp] theorem Ctx.gen_modStrand (k : Ctx) (i : Nat) (f : Strand → Strand) : (k.modStrand i f).gen = k.gen := rfl
@[simp] theorem Ctx.slotGen_modStrand (k : Ctx) (i : Nat) (f : Strand → Strand) : (k.modStrand i f).slotGen = k.slotGen := rfl
@[simp] theorem Ctx.sregs_modStrand (k : Ctx) (i : Nat) (f : Strand → Strand) : (k.modStrand i f).sregs = k.sregs := rfl
@[simp] theorem Ctx.vregs_modStrand (k : Ctx) (i : Nat) (f : Strand → Strand) : (k.modStrand i f).vregs = k.vregs := rfl
@[simp] theorem Ctx.masks_modStrand (k : Ctx) (i : Nat) (f : Strand → Strand) : (k.modStrand i f).masks = k.masks := rfl
@[simp] theorem Ctx.pats_modStrand (k : Ctx) (i : Nat) (f : Strand → Strand) : (k.modStrand i f).pats = k.pats := rfl
@[simp] theorem Ctx.tables_modStrand (k : Ctx) (i : Nat) (f : Strand → Strand) : (k.modStrand i f).tables = k.tables := rfl
@[simp] theorem Ctx.tableLoads_modStrand (k : Ctx) (i : Nat) (f : Strand → Strand) : (k.modStrand i f).tableLoads = k.tableLoads := rfl
@[simp] theorem Ctx.cqs_modStrand (k : Ctx) (i : Nat) (f : Strand → Strand) : (k.modStrand i f).cqs = k.cqs := rfl
@[simp] theorem Ctx.cb_modStrand (k : Ctx) (i : Nat) (f : Strand → Strand) : (k.modStrand i f).cb = k.cb := rfl
@[simp] theorem Ctx.guards_modStrand (k : Ctx) (i : Nat) (f : Strand → Strand) : (k.modStrand i f).guards = k.guards := rfl
@[simp] theorem Ctx.bars_modStrand (k : Ctx) (i : Nat) (f : Strand → Strand) : (k.modStrand i f).bars = k.bars := rfl
@[simp] theorem Ctx.barEvents_modStrand (k : Ctx) (i : Nat) (f : Strand → Strand) : (k.modStrand i f).barEvents = k.barEvents := rfl
@[simp] theorem Ctx.fpf_modStrand (k : Ctx) (i : Nat) (f : Strand → Strand) : (k.modStrand i f).fpf = k.fpf := rfl
@[simp] theorem Ctx.ferec_modStrand (k : Ctx) (i : Nat) (f : Strand → Strand) : (k.modStrand i f).ferec = k.ferec := rfl
@[simp] theorem Ctx.flagEvents_modStrand (k : Ctx) (i : Nat) (f : Strand → Strand) : (k.modStrand i f).flagEvents = k.flagEvents := rfl
@[simp] theorem Ctx.tvec_modStrand (k : Ctx) (i : Nat) (f : Strand → Strand) : (k.modStrand i f).tvec = k.tvec := rfl
@[simp] theorem Ctx.tepc_modStrand (k : Ctx) (i : Nat) (f : Strand → Strand) : (k.modStrand i f).tepc = k.tepc := rfl
@[simp] theorem Ctx.tcause_modStrand (k : Ctx) (i : Nat) (f : Strand → Strand) : (k.modStrand i f).tcause = k.tcause := rfl
@[simp] theorem Ctx.tval_modStrand (k : Ctx) (i : Nat) (f : Strand → Strand) : (k.modStrand i f).tval = k.tval := rfl
@[simp] theorem Ctx.issue_modStrand (k : Ctx) (i : Nat) (f : Strand → Strand) : (k.modStrand i f).issue = k.issue := rfl
@[simp] theorem Ctx.taskid_modStrand (k : Ctx) (i : Nat) (f : Strand → Strand) : (k.modStrand i f).taskid = k.taskid := rfl
@[simp] theorem Ctx.brcol_modStrand (k : Ctx) (i : Nat) (f : Strand → Strand) : (k.modStrand i f).brcol = k.brcol := rfl
@[simp] theorem Ctx.inhdl_modStrand (k : Ctx) (i : Nat) (f : Strand → Strand) : (k.modStrand i f).inhdl = k.inhdl := rfl
@[simp] theorem Ctx.clkReq_modStrand (k : Ctx) (i : Nat) (f : Strand → Strand) : (k.modStrand i f).clkReq = k.clkReq := rfl
@[simp] theorem Ctx.scrbase_modStrand (k : Ctx) (i : Nat) (f : Strand → Strand) : (k.modStrand i f).scrbase = k.scrbase := rfl
@[simp] theorem Ctx.scrlim_modStrand (k : Ctx) (i : Nat) (f : Strand → Strand) : (k.modStrand i f).scrlim = k.scrlim := rfl
@[simp] theorem Ctx.accbase_modStrand (k : Ctx) (i : Nat) (f : Strand → Strand) : (k.modStrand i f).accbase = k.accbase := rfl
@[simp] theorem Ctx.acclim_modStrand (k : Ctx) (i : Nat) (f : Strand → Strand) : (k.modStrand i f).acclim = k.acclim := rfl
@[simp] theorem Ctx.mscnt_modStrand (k : Ctx) (i : Nat) (f : Strand → Strand) : (k.modStrand i f).mscnt = k.mscnt := rfl
@[simp] theorem Ctx.msfro_modStrand (k : Ctx) (i : Nat) (f : Strand → Strand) : (k.modStrand i f).msfro = k.msfro := rfl
@[simp] theorem Ctx.msvar_modStrand (k : Ctx) (i : Nat) (f : Strand → Strand) : (k.modStrand i f).msvar = k.msvar := rfl
@[simp] theorem Ctx.msz_modStrand (k : Ctx) (i : Nat) (f : Strand → Strand) : (k.modStrand i f).msz = k.msz := rfl
@[simp] theorem Ctx.nextStrand_modStrand (k : Ctx) (i : Nat) (f : Strand → Strand) : (k.modStrand i f).nextStrand = k.nextStrand := rfl
@[simp] theorem Ctx.repeats_modStrand (k : Ctx) (i : Nat) (f : Strand → Strand) : (k.modStrand i f).repeats = k.repeats := rfl
@[simp] theorem Ctx.pend_modStrand (k : Ctx) (i : Nat) (f : Strand → Strand) : (k.modStrand i f).pend = k.pend := rfl
@[simp] theorem Ctx.stopped_modStrand (k : Ctx) (i : Nat) (f : Strand → Strand) : (k.modStrand i f).stopped = k.stopped := rfl
@[simp] theorem Ctx.faulted_modStrand (k : Ctx) (i : Nat) (f : Strand → Strand) : (k.modStrand i f).faulted = k.faulted := rfl
@[simp] theorem Ctx.faultPc_modStrand (k : Ctx) (i : Nat) (f : Strand → Strand) : (k.modStrand i f).faultPc = k.faultPc := rfl
@[simp] theorem Ctx.stoppedReps_modStrand (k : Ctx) (i : Nat) (f : Strand → Strand) : (k.modStrand i f).stoppedReps = k.stoppedReps := rfl
@[simp] theorem Ctx.drain_modStrand (k : Ctx) (i : Nat) (f : Strand → Strand) : (k.modStrand i f).drain = k.drain := rfl
@[simp] theorem Ctx.stoppedDrain_modStrand (k : Ctx) (i : Nat) (f : Strand → Strand) : (k.modStrand i f).stoppedDrain = k.stoppedDrain := rfl
@[simp] theorem Ctx.leaving_modStrand (k : Ctx) (i : Nat) (f : Strand → Strand) : (k.modStrand i f).leaving = k.leaving := rfl
@[simp] theorem Ctx.discards_modStrand (k : Ctx) (i : Nat) (f : Strand → Strand) : (k.modStrand i f).discards = k.discards := rfl
@[simp] theorem Ctx.lives_modStrand (k : Ctx) (i : Nat) (f : Strand → Strand) : (k.modStrand i f).lives = k.lives := rfl
@[simp] theorem Ctx.extents_modStrand (k : Ctx) (i : Nat) (f : Strand → Strand) : (k.modStrand i f).extents = k.extents := rfl
@[simp] theorem Ctx.peers_modStrand (k : Ctx) (i : Nat) (f : Strand → Strand) : (k.modStrand i f).peers = k.peers := rfl
@[simp] theorem Ctx.shadow_modStrand (k : Ctx) (i : Nat) (f : Strand → Strand) : (k.modStrand i f).shadow = k.shadow := rfl
@[simp] theorem Ctx.tile_modStrand (k : Ctx) (i : Nat) (f : Strand → Strand) : (k.modStrand i f).tile = k.tile := rfl
@[simp] theorem Ctx.wslots_modStrand (k : Ctx) (i : Nat) (f : Strand → Strand) : (k.modStrand i f).wslots = k.wslots := rfl
@[simp] theorem Ctx.sampler_modStrand (k : Ctx) (i : Nat) (f : Strand → Strand) : (k.modStrand i f).sampler = k.sampler := rfl
@[simp] theorem Ctx.inP_modStrand (k : Ctx) (i : Nat) (f : Strand → Strand) : (k.modStrand i f).inP = k.inP := rfl
@[simp] theorem Ctx.inN_modStrand (k : Ctx) (i : Nat) (f : Strand → Strand) : (k.modStrand i f).inN = k.inN := rfl
@[simp] theorem Ctx.newest_modStrand (k : Ctx) (i : Nat) (f : Strand → Strand) : (k.modStrand i f).newest = k.newest := rfl
@[simp] theorem Ctx.posted_modStrand (k : Ctx) (i : Nat) (f : Strand → Strand) : (k.modStrand i f).posted = k.posted := rfl
@[simp] theorem Ctx.snap_modStrand (k : Ctx) (i : Nat) (f : Strand → Strand) : (k.modStrand i f).snap = k.snap := rfl
@[simp] theorem Ctx.relWord_modStrand (k : Ctx) (i : Nat) (f : Strand → Strand) : (k.modStrand i f).relWord = k.relWord := rfl
@[simp] theorem Ctx.ranSince_modStrand (k : Ctx) (i : Nat) (f : Strand → Strand) : (k.modStrand i f).ranSince = k.ranSince := rfl
@[simp] theorem Ctx.ranE_modStrand (k : Ctx) (i : Nat) (f : Strand → Strand) : (k.modStrand i f).ranE = k.ranE := rfl
@[simp] theorem Ctx.resume_modStrand (k : Ctx) (i : Nat) (f : Strand → Strand) : (k.modStrand i f).resume = k.resume := rfl
@[simp] theorem Ctx.replyLog_modStrand (k : Ctx) (i : Nat) (f : Strand → Strand) : (k.modStrand i f).replyLog = k.replyLog := rfl
@[simp] theorem Ctx.counts_modStrand (k : Ctx) (i : Nat) (f : Strand → Strand) : (k.modStrand i f).counts = k.counts := rfl
@[simp] theorem Ctx.copied_modStrand (k : Ctx) (i : Nat) (f : Strand → Strand) : (k.modStrand i f).copied = k.copied := rfl

/-- s0 holds zero whatever is written (R30). -/
@[simp] theorem Ctx.s_zero (k : Ctx) : k.s 0 = 0#64 := rfl

/-- A write to s0 leaves the context as it is (R30). -/
@[simp] theorem Ctx.setS_zero (k : Ctx) (v : W64) : k.setS 0 v = k := rfl

/-- A register reads as what was last written into it. -/
theorem Ctx.s_setS {k : Ctx} {n : Nat} (v : W64) (h0 : n ≠ 0) (h : n < 64) : (k.setS n v).s n = v := by
  simp [Ctx.setS, Ctx.s, h0, Vector.getD, h]

/-- A write to one register leaves another. -/
theorem Ctx.s_setS_of_ne (k : Ctx) {n m : Nat} (v : W64) (h : m ≠ n) : (k.setS n v).s m = k.s m := by
  unfold Ctx.setS
  split
  · rfl
  · unfold Ctx.s
    split
    · rfl
    · simp only [Vector.getD, Array.getD]
      by_cases hm : m < 64
      · simp [hm, Ne.symm h]
      · simp [hm]

end Sys2Proof.Machine
end

