-- ==== Sys2Proof/Laws/Ops.lean ====
section
/-!
SUPPORT. What the shared operations can do, said once: how an operation runs when its checks pass, when one of them faults and when it is
held; what a posted result leaves; and that an operation that issues alone does not overflow the pending-writeback queue.
-/

namespace Sys2Proof.Machine

/-- Where the registers are free and owned, an operation's own checks and its hold decide (R36, R66). -/
theorem OpSem.verdict_eq {o : OpSem} {s : State} {n : Nat} (h : Issues s o.reads o.writes n) :
    o.verdict s = match o.before with
      | some e => .faulted ⟨e.1, e.2, s.cur.slot⟩
      | none =>
        match o.after with
        | some e => .faulted ⟨e.1, e.2, s.cur.slot⟩
        | none => o.hold := by
  obtain ⟨-, hv, hf, how, -⟩ := h
  have hfind : (o.writes.find? fun r => !s.myStrand.owns r) = none := by
    rw [List.find?_eq_none]
    intro r hr
    have := List.all_eq_true.mp how r hr
    simp only [this, Bool.not_true, Bool.false_eq_true, not_false_eq_true]
  simp only [OpSem.verdict, hv, hf, hfind, Bool.false_eq_true, if_false] <;> rfl

/-- Where the checks of an operation pass, it takes its effect (R36, R66). -/
theorem runOp_ok {o : OpSem} {s : State} {n : Nat} (h : Issues s o.reads o.writes n) (hb : o.before = none)
    (ha : o.after = none) (hh : o.hold = .ok) (ho : (o.eff s).pendOverflow = false) :
    runOp o s = .next { o.eff s with cur := { (o.eff s).cur with verdict := .ok } } := by
  simp only [runOp, h.1, OpSem.verdict_eq h, hb, ha, hh, ho, Bool.false_eq_true, if_false]

/-- A variable-latency result outstanding for one of its registers stalls the operation, before any of its checks (R36). -/
theorem runOp_stall {o : OpSem} {s : State} (hm : s.cur.mode = .whole)
    (hv : s.variableBusy ((o.reads ++ o.writes).filter fun r => !neverBusy r) = true) :
    runOp o s = .next { s with cur := { s.cur with verdict := .held true } } := by
  simp only [runOp, hm, OpSem.verdict, hv, if_true]

/-- A check that precedes the partition check faults at its bundle (R66, R67). -/
theorem runOp_before {o : OpSem} {s : State} {n : Nat} {e : Nat × W64} (h : Issues s o.reads o.writes n) (hb : o.before = some e) :
    runOp o s = .next (s.faultHere ⟨e.1, e.2, s.cur.slot⟩) := by
  simp only [runOp, h.1, OpSem.verdict_eq h, hb]

/-- A check that follows the partition check faults at its bundle. -/
theorem runOp_after {o : OpSem} {s : State} {n : Nat} {e : Nat × W64} (h : Issues s o.reads o.writes n) (hb : o.before = none)
    (ha : o.after = some e) : runOp o s = .next (s.faultHere ⟨e.1, e.2, s.cur.slot⟩) := by
  simp only [runOp, h.1, OpSem.verdict_eq h, hb, ha]

/-- A hold leaves the state as it is but for the verdict. -/
theorem runOp_held {o : OpSem} {s : State} {n : Nat} {b : Bool} (h : Issues s o.reads o.writes n) (hb : o.before = none)
    (ha : o.after = none) (hh : o.hold = .held b) : runOp o s = .next { s with cur := { s.cur with verdict := .held b } } := by
  simp only [runOp, h.1, OpSem.verdict_eq h, hb, ha, hh]

/-- What posting a result leaves (R39, R40). -/
theorem State.post_eq (s : State) (r : Result) (n : Nat) (fl : BitVec 7) :
    { s.post r n fl with cur := { (s.post r n fl).cur with verdict := .ok } } = State.delivers s r n fl := rfl

/-- The context after a result has been posted. -/
theorem State.me_post (s : State) (r : Result) (n : Nat) (fl : BitVec 7) :
    (s.post r n fl).me = { s.me with pend := s.me.pend ++ [State.entry s r n fl] } := by
  simp only [State.post, State.me, State.modMe, State.modCtx, State.setCtx, State.ctx, lookupD_insertKey_self]
  rfl

/-- A posted result raises the count of the pending-writeback queue by at most one. -/
theorem State.pendingCount_post (s : State) (r : Result) (n : Nat) (fl : BitVec 7) :
    (s.post r n fl).me.pendingCount ≤ s.me.pendingCount + 1 := by
  rw [State.me_post]
  simp only [Ctx.pendingCount, List.filter_append, List.length_append]
  have : (List.filter (fun p => p.exposed && decide (p.res ≠ .flagsOnly)) [State.entry s r n fl]).length ≤ 1 :=
    List.length_filter_le _ _
  omega

/-- An operation that adds at most the announced entries, results and links together, does not overflow the queue (R40). -/
theorem State.pendOverflow_of_room {s t : State} {reads writes : List (Nat × Nat)} {n : Nat} (h : Issues s reads writes n)
    (hx : t.cur.exposed = s.cur.exposed)
    (hp : t.me.pendingCount + (t.cur.acts.filter SeqAct.isCall).length
      ≤ s.me.pendingCount + (s.cur.acts.filter SeqAct.isCall).length + n) : t.pendOverflow = false := by
  unfold State.pendOverflow
  rw [hx]
  cases he : s.cur.exposed with
  | false => rfl
  | true =>
    have := h.2.2.2.2 he
    simp only [Bool.true_and, decide_eq_false_iff_not]
    omega

/-- An operation that posts one result where the queue has room does not overflow it. -/
theorem State.pendOverflow_post {s : State} {reads writes : List (Nat × Nat)} (h : Issues s reads writes 1)
    (r : Result) (n : Nat) (fl : BitVec 7) : (s.post r n fl).pendOverflow = false := by
  have hc := s.pendingCount_post r n fl
  refine State.pendOverflow_of_room h rfl ?_
  have e : (s.post r n fl).cur = s.cur := rfl
  rw [e]
  omega

/-- An operation that leaves its context's pending entries and asks for no CALL does not overflow the queue. -/
theorem State.pendOverflow_same {s t : State} {reads writes : List (Nat × Nat)} {n : Nat} (h : Issues s reads writes n)
    (hc : t.cur.exposed = s.cur.exposed) (ha : t.cur.acts.filter SeqAct.isCall = s.cur.acts.filter SeqAct.isCall)
    (hp : t.me.pend = s.me.pend) : t.pendOverflow = false := by
  refine State.pendOverflow_of_room h hc ?_
  rw [ha]
  simp only [Ctx.pendingCount, hp]
  omega

/-- An operation whose one effect is a result of latency n. -/
theorem runOp_post {o : OpSem} {s : State} (h : Issues s o.reads o.writes 1) (hb : o.before = none) (ha : o.after = none)
    (hh : o.hold = .ok) {r : Result} {n : Nat} {fl : BitVec 7} (he : o.eff s = s.post r n fl) :
    runOp o s = .next (State.delivers s r n fl) := by
  rw [runOp_ok h hb ha hh (by rw [he]; exact State.pendOverflow_post h r n fl), he, State.post_eq]

/-- An operation whose one effect is to ask for an act at the end of its bundle. -/
theorem runOp_act {o : OpSem} {s : State} {n : Nat} (h : Issues s o.reads o.writes n) (hb : o.before = none) (ha : o.after = none)
    (hh : o.hold = .ok) {a : SeqAct} (hn : ([a].filter SeqAct.isCall).length ≤ n) (he : o.eff s = s.act a) :
    runOp o s = .next (State.acts s [a]) := by
  have hr : (s.act a).pendOverflow = false := by
    refine State.pendOverflow_of_room h rfl ?_
    have e1 : (s.act a).me = s.me := rfl
    have e2 : (s.act a).cur.acts = s.cur.acts ++ [a] := rfl
    rw [e1, e2, List.filter_append, List.length_append]
    omega
  rw [runOp_ok h hb ha hh (by rw [he]; exact hr), he]
  rfl

end Sys2Proof.Machine
end

