-- ==== Sys2Proof/Laws/PerInstr.lean ====
section
/-!
SUPPORT. For every instruction by name: where it has a major, a function and format bits (R64), those decode to it.
-/

/-- The encoding of an operation of a bundle decodes to that operation (R64, R65). -/
def Sys2Proof.Laws.Encoding.Statement (i : Sys2Proof.Instr) : Prop :=
  ∀ maj fn b, Sys2Proof.opBits i = some (maj, fn, b) → Sys2Proof.mkOp maj fn b = some i

namespace Sys2Proof

/-- The statement of an operation whose words decode to it. -/
theorem Laws.statement_of_bits (i : Instr) (m n : Nat) (c : BitVec 48) (h : opBits i = some (m, n, c)) (hm : mkOp m n c = some i) :
    Laws.Encoding.Statement i := by
  intro maj fn b e
  rw [h] at e
  cases e
  exact hm

/-- The statement of what is no operation of a bundle. -/
theorem Laws.statement_of_none (i : Instr) (h : opBits i = none) : Laws.Encoding.Statement i := by
  intro maj fn b e
  rw [h] at e
  cases e

theorem Laws.Encoding.nop (f : SQ) : Laws.Encoding.Statement (.nop f) :=
  Laws.statement_of_bits _ _ _ _ rfl (congrArg (fun g => some (Instr.nop g)) (SQ.ofBits_toBits f))

theorem Laws.Encoding.br (f : SQ) : Laws.Encoding.Statement (.br f) :=
  Laws.statement_of_bits _ _ _ _ rfl (congrArg (fun g => some (Instr.br g)) (SQ.ofBits_toBits f))

theorem Laws.Encoding.call (f : SQ) : Laws.Encoding.Statement (.call f) :=
  Laws.statement_of_bits _ _ _ _ rfl (congrArg (fun g => some (Instr.call g)) (SQ.ofBits_toBits f))

theorem Laws.Encoding.ret (f : SQ) : Laws.Encoding.Statement (.ret f) :=
  Laws.statement_of_bits _ _ _ _ rfl (congrArg (fun g => some (Instr.ret g)) (SQ.ofBits_toBits f))

theorem Laws.Encoding.bri (f : SQ) : Laws.Encoding.Statement (.bri f) :=
  Laws.statement_of_bits _ _ _ _ rfl (congrArg (fun g => some (Instr.bri g)) (SQ.ofBits_toBits f))

theorem Laws.Encoding.brcT (f : SQ) : Laws.Encoding.Statement (.brcT f) :=
  Laws.statement_of_bits _ _ _ _ rfl (congrArg (fun g => some (Instr.brcT g)) (SQ.ofBits_toBits f))

theorem Laws.Encoding.brcF (f : SQ) : Laws.Encoding.Statement (.brcF f) :=
  Laws.statement_of_bits _ _ _ _ rfl (congrArg (fun g => some (Instr.brcF g)) (SQ.ofBits_toBits f))

theorem Laws.Encoding.loop (f : SQ) : Laws.Encoding.Statement (.loop f) :=
  Laws.statement_of_bits _ _ _ _ rfl (congrArg (fun g => some (Instr.loop g)) (SQ.ofBits_toBits f))

theorem Laws.Encoding.loopi (f : SLoopi) : Laws.Encoding.Statement (.loopi f) :=
  Laws.statement_of_bits _ _ _ _ rfl (congrArg (fun g => some (Instr.loopi g)) (SLoopi.ofBits_toBits f))

theorem Laws.Encoding.lcrd (f : SQ) : Laws.Encoding.Statement (.lcrd f) :=
  Laws.statement_of_bits _ _ _ _ rfl (congrArg (fun g => some (Instr.lcrd g)) (SQ.ofBits_toBits f))

theorem Laws.Encoding.lcwr (f : SQ) : Laws.Encoding.Statement (.lcwr f) :=
  Laws.statement_of_bits _ _ _ _ rfl (congrArg (fun g => some (Instr.lcwr g)) (SQ.ofBits_toBits f))

theorem Laws.Encoding.rep (f : SRep) : Laws.Encoding.Statement (.rep f) :=
  Laws.statement_of_bits _ _ _ _ rfl (congrArg (fun g => some (Instr.rep g)) (SRep.ofBits_toBits f))

theorem Laws.Encoding.fork (f : TS) : Laws.Encoding.Statement (.fork f) :=
  Laws.statement_of_bits _ _ _ _ rfl (congrArg (fun g => some (Instr.fork g)) (TS.ofBits_toBits f))

theorem Laws.Encoding.join (f : TS) : Laws.Encoding.Statement (.join f) :=
  Laws.statement_of_bits _ _ _ _ rfl (congrArg (fun g => some (Instr.join g)) (TS.ofBits_toBits f))

theorem Laws.Encoding.cbset (f : TS) : Laws.Encoding.Statement (.cbset f) :=
  Laws.statement_of_bits _ _ _ _ rfl (congrArg (fun g => some (Instr.cbset g)) (TS.ofBits_toBits f))

theorem Laws.Encoding.cbclr (f : TS) : Laws.Encoding.Statement (.cbclr f) :=
  Laws.statement_of_bits _ _ _ _ rfl (congrArg (fun g => some (Instr.cbclr g)) (TS.ofBits_toBits f))

theorem Laws.Encoding.cbwait (f : TS) : Laws.Encoding.Statement (.cbwait f) :=
  Laws.statement_of_bits _ _ _ _ rfl (congrArg (fun g => some (Instr.cbwait g)) (TS.ofBits_toBits f))

theorem Laws.Encoding.cqpush (f : TS) : Laws.Encoding.Statement (.cqpush f) :=
  Laws.statement_of_bits _ _ _ _ rfl (congrArg (fun g => some (Instr.cqpush g)) (TS.ofBits_toBits f))

theorem Laws.Encoding.cqpop (f : TS) : Laws.Encoding.Statement (.cqpop f) :=
  Laws.statement_of_bits _ _ _ _ rfl (congrArg (fun g => some (Instr.cqpop g)) (TS.ofBits_toBits f))

theorem Laws.Encoding.cqcnt (f : TS) : Laws.Encoding.Statement (.cqcnt f) :=
  Laws.statement_of_bits _ _ _ _ rfl (congrArg (fun g => some (Instr.cqcnt g)) (TS.ofBits_toBits f))

theorem Laws.Encoding.gsetQ (f : TS) : Laws.Encoding.Statement (.gsetQ f) :=
  Laws.statement_of_bits _ _ _ _ rfl (congrArg (fun g => some (Instr.gsetQ g)) (TS.ofBits_toBits f))

theorem Laws.Encoding.gsetS (f : TS) : Laws.Encoding.Statement (.gsetS f) :=
  Laws.statement_of_bits _ _ _ _ rfl (congrArg (fun g => some (Instr.gsetS g)) (TS.ofBits_toBits f))

theorem Laws.Encoding.gclr (f : TS) : Laws.Encoding.Statement (.gclr f) :=
  Laws.statement_of_bits _ _ _ _ rfl (congrArg (fun g => some (Instr.gclr g)) (TS.ofBits_toBits f))

theorem Laws.Encoding.waitcnt (f : TS) : Laws.Encoding.Statement (.waitcnt f) :=
  Laws.statement_of_bits _ _ _ _ rfl (congrArg (fun g => some (Instr.waitcnt g)) (TS.ofBits_toBits f))

theorem Laws.Encoding.fenceAll (f : TS) : Laws.Encoding.Statement (.fenceAll f) :=
  Laws.statement_of_bits _ _ _ _ rfl (congrArg (fun g => some (Instr.fenceAll g)) (TS.ofBits_toBits f))

theorem Laws.Encoding.fence (f : TS) : Laws.Encoding.Statement (.fence f) :=
  Laws.statement_of_bits _ _ _ _ rfl (congrArg (fun g => some (Instr.fence g)) (TS.ofBits_toBits f))

theorem Laws.Encoding.phase (f : TS) : Laws.Encoding.Statement (.phase f) :=
  Laws.statement_of_bits _ _ _ _ rfl (congrArg (fun g => some (Instr.phase g)) (TS.ofBits_toBits f))

theorem Laws.Encoding.csrr (f : SI) : Laws.Encoding.Statement (.csrr f) :=
  Laws.statement_of_bits _ _ _ _ rfl (congrArg (fun g => some (Instr.csrr g)) (SI.ofBits_toBits f))

theorem Laws.Encoding.csrw (f : SI) : Laws.Encoding.Statement (.csrw f) :=
  Laws.statement_of_bits _ _ _ _ rfl (congrArg (fun g => some (Instr.csrw g)) (SI.ofBits_toBits f))

theorem Laws.Encoding.csrs (f : SI) : Laws.Encoding.Statement (.csrs f) :=
  Laws.statement_of_bits _ _ _ _ rfl (congrArg (fun g => some (Instr.csrs g)) (SI.ofBits_toBits f))

theorem Laws.Encoding.csrc (f : SI) : Laws.Encoding.Statement (.csrc f) :=
  Laws.statement_of_bits _ _ _ _ rfl (congrArg (fun g => some (Instr.csrc g)) (SI.ofBits_toBits f))

theorem Laws.Encoding.trap (f : TS) : Laws.Encoding.Statement (.trap f) :=
  Laws.statement_of_bits _ _ _ _ rfl (congrArg (fun g => some (Instr.trap g)) (TS.ofBits_toBits f))

theorem Laws.Encoding.tret (f : TS) : Laws.Encoding.Statement (.tret f) :=
  Laws.statement_of_bits _ _ _ _ rfl (congrArg (fun g => some (Instr.tret g)) (TS.ofBits_toBits f))

theorem Laws.Encoding.halt (f : TS) : Laws.Encoding.Statement (.halt f) :=
  Laws.statement_of_bits _ _ _ _ rfl (congrArg (fun g => some (Instr.halt g)) (TS.ofBits_toBits f))

theorem Laws.Encoding.clkdiv (f : TS) : Laws.Encoding.Statement (.clkdiv f) :=
  Laws.statement_of_bits _ _ _ _ rfl (congrArg (fun g => some (Instr.clkdiv g)) (TS.ofBits_toBits f))

theorem Laws.Encoding.clkmode (f : TS) : Laws.Encoding.Statement (.clkmode f) :=
  Laws.statement_of_bits _ _ _ _ rfl (congrArg (fun g => some (Instr.clkmode g)) (TS.ofBits_toBits f))

theorem Laws.Encoding.discard (f : TS) : Laws.Encoding.Statement (.discard f) :=
  Laws.statement_of_bits _ _ _ _ rfl (congrArg (fun g => some (Instr.discard g)) (TS.ofBits_toBits f))

theorem Laws.Encoding.acclive (f : TS) : Laws.Encoding.Statement (.acclive f) :=
  Laws.statement_of_bits _ _ _ _ rfl (congrArg (fun g => some (Instr.acclive g)) (TS.ofBits_toBits f))

theorem Laws.Encoding.add (f : SR) : Laws.Encoding.Statement (.add f) :=
  Laws.statement_of_bits _ _ _ _ rfl (congrArg (fun g => some (Instr.add g)) (SR.ofBits_toBits f))

theorem Laws.Encoding.sub (f : SR) : Laws.Encoding.Statement (.sub f) :=
  Laws.statement_of_bits _ _ _ _ rfl (congrArg (fun g => some (Instr.sub g)) (SR.ofBits_toBits f))

theorem Laws.Encoding.and (f : SR) : Laws.Encoding.Statement (.and f) :=
  Laws.statement_of_bits _ _ _ _ rfl (congrArg (fun g => some (Instr.and g)) (SR.ofBits_toBits f))

theorem Laws.Encoding.or (f : SR) : Laws.Encoding.Statement (.or f) :=
  Laws.statement_of_bits _ _ _ _ rfl (congrArg (fun g => some (Instr.or g)) (SR.ofBits_toBits f))

theorem Laws.Encoding.xor (f : SR) : Laws.Encoding.Statement (.xor f) :=
  Laws.statement_of_bits _ _ _ _ rfl (congrArg (fun g => some (Instr.xor g)) (SR.ofBits_toBits f))

theorem Laws.Encoding.andn (f : SR) : Laws.Encoding.Statement (.andn f) :=
  Laws.statement_of_bits _ _ _ _ rfl (congrArg (fun g => some (Instr.andn g)) (SR.ofBits_toBits f))

theorem Laws.Encoding.shl (f : SR) : Laws.Encoding.Statement (.shl f) :=
  Laws.statement_of_bits _ _ _ _ rfl (congrArg (fun g => some (Instr.shl g)) (SR.ofBits_toBits f))

theorem Laws.Encoding.shr (f : SR) : Laws.Encoding.Statement (.shr f) :=
  Laws.statement_of_bits _ _ _ _ rfl (congrArg (fun g => some (Instr.shr g)) (SR.ofBits_toBits f))

theorem Laws.Encoding.sar (f : SR) : Laws.Encoding.Statement (.sar f) :=
  Laws.statement_of_bits _ _ _ _ rfl (congrArg (fun g => some (Instr.sar g)) (SR.ofBits_toBits f))

theorem Laws.Encoding.min (f : SR) : Laws.Encoding.Statement (.min f) :=
  Laws.statement_of_bits _ _ _ _ rfl (congrArg (fun g => some (Instr.min g)) (SR.ofBits_toBits f))

theorem Laws.Encoding.max (f : SR) : Laws.Encoding.Statement (.max f) :=
  Laws.statement_of_bits _ _ _ _ rfl (congrArg (fun g => some (Instr.max g)) (SR.ofBits_toBits f))

theorem Laws.Encoding.minu (f : SR) : Laws.Encoding.Statement (.minu f) :=
  Laws.statement_of_bits _ _ _ _ rfl (congrArg (fun g => some (Instr.minu g)) (SR.ofBits_toBits f))

theorem Laws.Encoding.maxu (f : SR) : Laws.Encoding.Statement (.maxu f) :=
  Laws.statement_of_bits _ _ _ _ rfl (congrArg (fun g => some (Instr.maxu g)) (SR.ofBits_toBits f))

theorem Laws.Encoding.addi (f : SI) : Laws.Encoding.Statement (.addi f) :=
  Laws.statement_of_bits _ _ _ _ rfl (congrArg (fun g => some (Instr.addi g)) (SI.ofBits_toBits f))

theorem Laws.Encoding.andi (f : SI) : Laws.Encoding.Statement (.andi f) :=
  Laws.statement_of_bits _ _ _ _ rfl (congrArg (fun g => some (Instr.andi g)) (SI.ofBits_toBits f))

theorem Laws.Encoding.ori (f : SI) : Laws.Encoding.Statement (.ori f) :=
  Laws.statement_of_bits _ _ _ _ rfl (congrArg (fun g => some (Instr.ori g)) (SI.ofBits_toBits f))

theorem Laws.Encoding.xori (f : SI) : Laws.Encoding.Statement (.xori f) :=
  Laws.statement_of_bits _ _ _ _ rfl (congrArg (fun g => some (Instr.xori g)) (SI.ofBits_toBits f))

theorem Laws.Encoding.shli (f : SI) : Laws.Encoding.Statement (.shli f) :=
  Laws.statement_of_bits _ _ _ _ rfl (congrArg (fun g => some (Instr.shli g)) (SI.ofBits_toBits f))

theorem Laws.Encoding.shri (f : SI) : Laws.Encoding.Statement (.shri f) :=
  Laws.statement_of_bits _ _ _ _ rfl (congrArg (fun g => some (Instr.shri g)) (SI.ofBits_toBits f))

theorem Laws.Encoding.sari (f : SI) : Laws.Encoding.Statement (.sari f) :=
  Laws.statement_of_bits _ _ _ _ rfl (congrArg (fun g => some (Instr.sari g)) (SI.ofBits_toBits f))

theorem Laws.Encoding.li (f : SI) : Laws.Encoding.Statement (.li f) :=
  Laws.statement_of_bits _ _ _ _ rfl (congrArg (fun g => some (Instr.li g)) (SI.ofBits_toBits f))

theorem Laws.Encoding.lih (f : SI) : Laws.Encoding.Statement (.lih f) :=
  Laws.statement_of_bits _ _ _ _ rfl (congrArg (fun g => some (Instr.lih g)) (SI.ofBits_toBits f))

theorem Laws.Encoding.mul (f : SR) : Laws.Encoding.Statement (.mul f) :=
  Laws.statement_of_bits _ _ _ _ rfl (congrArg (fun g => some (Instr.mul g)) (SR.ofBits_toBits f))

theorem Laws.Encoding.mulh (f : SR) : Laws.Encoding.Statement (.mulh f) :=
  Laws.statement_of_bits _ _ _ _ rfl (congrArg (fun g => some (Instr.mulh g)) (SR.ofBits_toBits f))

theorem Laws.Encoding.mulhu (f : SR) : Laws.Encoding.Statement (.mulhu f) :=
  Laws.statement_of_bits _ _ _ _ rfl (congrArg (fun g => some (Instr.mulhu g)) (SR.ofBits_toBits f))

theorem Laws.Encoding.mad (f : SR) : Laws.Encoding.Statement (.mad f) :=
  Laws.statement_of_bits _ _ _ _ rfl (congrArg (fun g => some (Instr.mad g)) (SR.ofBits_toBits f))

theorem Laws.Encoding.div (f : SR) : Laws.Encoding.Statement (.div f) :=
  Laws.statement_of_bits _ _ _ _ rfl (congrArg (fun g => some (Instr.div g)) (SR.ofBits_toBits f))

theorem Laws.Encoding.divu (f : SR) : Laws.Encoding.Statement (.divu f) :=
  Laws.statement_of_bits _ _ _ _ rfl (congrArg (fun g => some (Instr.divu g)) (SR.ofBits_toBits f))

theorem Laws.Encoding.rem (f : SR) : Laws.Encoding.Statement (.rem f) :=
  Laws.statement_of_bits _ _ _ _ rfl (congrArg (fun g => some (Instr.rem g)) (SR.ofBits_toBits f))

theorem Laws.Encoding.remu (f : SR) : Laws.Encoding.Statement (.remu f) :=
  Laws.statement_of_bits _ _ _ _ rfl (congrArg (fun g => some (Instr.remu g)) (SR.ofBits_toBits f))

theorem Laws.Encoding.cmp (f : SR) : Laws.Encoding.Statement (.cmp f) :=
  Laws.statement_of_bits _ _ _ _ rfl (congrArg (fun g => some (Instr.cmp g)) (SR.ofBits_toBits f))

theorem Laws.Encoding.cmpq (f : SR) : Laws.Encoding.Statement (.cmpq f) :=
  Laws.statement_of_bits _ _ _ _ rfl (congrArg (fun g => some (Instr.cmpq g)) (SR.ofBits_toBits f))

theorem Laws.Encoding.clz (f : SR) : Laws.Encoding.Statement (.clz f) :=
  Laws.statement_of_bits _ _ _ _ rfl (congrArg (fun g => some (Instr.clz g)) (SR.ofBits_toBits f))

theorem Laws.Encoding.ctz (f : SR) : Laws.Encoding.Statement (.ctz f) :=
  Laws.statement_of_bits _ _ _ _ rfl (congrArg (fun g => some (Instr.ctz g)) (SR.ofBits_toBits f))

theorem Laws.Encoding.popc (f : SR) : Laws.Encoding.Statement (.popc f) :=
  Laws.statement_of_bits _ _ _ _ rfl (congrArg (fun g => some (Instr.popc g)) (SR.ofBits_toBits f))

theorem Laws.Encoding.bfe (f : SR) : Laws.Encoding.Statement (.bfe f) :=
  Laws.statement_of_bits _ _ _ _ rfl (congrArg (fun g => some (Instr.bfe g)) (SR.ofBits_toBits f))

theorem Laws.Encoding.bfi (f : SR) : Laws.Encoding.Statement (.bfi f) :=
  Laws.statement_of_bits _ _ _ _ rfl (congrArg (fun g => some (Instr.bfi g)) (SR.ofBits_toBits f))

theorem Laws.Encoding.brev (f : SR) : Laws.Encoding.Statement (.brev f) :=
  Laws.statement_of_bits _ _ _ _ rfl (congrArg (fun g => some (Instr.brev g)) (SR.ofBits_toBits f))

theorem Laws.Encoding.sel (f : SR) : Laws.Encoding.Statement (.sel f) :=
  Laws.statement_of_bits _ _ _ _ rfl (congrArg (fun g => some (Instr.sel g)) (SR.ofBits_toBits f))

theorem Laws.Encoding.fadd (f : SR) : Laws.Encoding.Statement (.fadd f) :=
  Laws.statement_of_bits _ _ _ _ rfl (congrArg (fun g => some (Instr.fadd g)) (SR.ofBits_toBits f))

theorem Laws.Encoding.fsub (f : SR) : Laws.Encoding.Statement (.fsub f) :=
  Laws.statement_of_bits _ _ _ _ rfl (congrArg (fun g => some (Instr.fsub g)) (SR.ofBits_toBits f))

theorem Laws.Encoding.fmul (f : SR) : Laws.Encoding.Statement (.fmul f) :=
  Laws.statement_of_bits _ _ _ _ rfl (congrArg (fun g => some (Instr.fmul g)) (SR.ofBits_toBits f))

theorem Laws.Encoding.fmin (f : SR) : Laws.Encoding.Statement (.fmin f) :=
  Laws.statement_of_bits _ _ _ _ rfl (congrArg (fun g => some (Instr.fmin g)) (SR.ofBits_toBits f))

theorem Laws.Encoding.fmax (f : SR) : Laws.Encoding.Statement (.fmax f) :=
  Laws.statement_of_bits _ _ _ _ rfl (congrArg (fun g => some (Instr.fmax g)) (SR.ofBits_toBits f))

theorem Laws.Encoding.ffma (f : SR) : Laws.Encoding.Statement (.ffma f) :=
  Laws.statement_of_bits _ _ _ _ rfl (congrArg (fun g => some (Instr.ffma g)) (SR.ofBits_toBits f))

theorem Laws.Encoding.fcmp (f : SR) : Laws.Encoding.Statement (.fcmp f) :=
  Laws.statement_of_bits _ _ _ _ rfl (congrArg (fun g => some (Instr.fcmp g)) (SR.ofBits_toBits f))

theorem Laws.Encoding.fcmpq (f : SR) : Laws.Encoding.Statement (.fcmpq f) :=
  Laws.statement_of_bits _ _ _ _ rfl (congrArg (fun g => some (Instr.fcmpq g)) (SR.ofBits_toBits f))

theorem Laws.Encoding.fcvt (f : SR) : Laws.Encoding.Statement (.fcvt f) :=
  Laws.statement_of_bits _ _ _ _ rfl (congrArg (fun g => some (Instr.fcvt g)) (SR.ofBits_toBits f))

theorem Laws.Encoding.fclass (f : SR) : Laws.Encoding.Statement (.fclass f) :=
  Laws.statement_of_bits _ _ _ _ rfl (congrArg (fun g => some (Instr.fclass g)) (SR.ofBits_toBits f))

theorem Laws.Encoding.ld (f : SM) : Laws.Encoding.Statement (.ld f) :=
  Laws.statement_of_bits _ _ _ _ rfl (congrArg (fun g => some (Instr.ld g)) (SM.ofBits_toBits f))

theorem Laws.Encoding.st (f : SM) : Laws.Encoding.Statement (.st f) :=
  Laws.statement_of_bits _ _ _ _ rfl (congrArg (fun g => some (Instr.st g)) (SM.ofBits_toBits f))

theorem Laws.Encoding.amoadd (f : SM) : Laws.Encoding.Statement (.amoadd f) :=
  Laws.statement_of_bits _ _ _ _ rfl (congrArg (fun g => some (Instr.amoadd g)) (SM.ofBits_toBits f))

theorem Laws.Encoding.amoand (f : SM) : Laws.Encoding.Statement (.amoand f) :=
  Laws.statement_of_bits _ _ _ _ rfl (congrArg (fun g => some (Instr.amoand g)) (SM.ofBits_toBits f))

theorem Laws.Encoding.amoor (f : SM) : Laws.Encoding.Statement (.amoor f) :=
  Laws.statement_of_bits _ _ _ _ rfl (congrArg (fun g => some (Instr.amoor g)) (SM.ofBits_toBits f))

theorem Laws.Encoding.amoxor (f : SM) : Laws.Encoding.Statement (.amoxor f) :=
  Laws.statement_of_bits _ _ _ _ rfl (congrArg (fun g => some (Instr.amoxor g)) (SM.ofBits_toBits f))

theorem Laws.Encoding.amomin (f : SM) : Laws.Encoding.Statement (.amomin f) :=
  Laws.statement_of_bits _ _ _ _ rfl (congrArg (fun g => some (Instr.amomin g)) (SM.ofBits_toBits f))

theorem Laws.Encoding.amomax (f : SM) : Laws.Encoding.Statement (.amomax f) :=
  Laws.statement_of_bits _ _ _ _ rfl (congrArg (fun g => some (Instr.amomax g)) (SM.ofBits_toBits f))

theorem Laws.Encoding.amominu (f : SM) : Laws.Encoding.Statement (.amominu f) :=
  Laws.statement_of_bits _ _ _ _ rfl (congrArg (fun g => some (Instr.amominu g)) (SM.ofBits_toBits f))

theorem Laws.Encoding.amomaxu (f : SM) : Laws.Encoding.Statement (.amomaxu f) :=
  Laws.statement_of_bits _ _ _ _ rfl (congrArg (fun g => some (Instr.amomaxu g)) (SM.ofBits_toBits f))

theorem Laws.Encoding.amoswp (f : SM) : Laws.Encoding.Statement (.amoswp f) :=
  Laws.statement_of_bits _ _ _ _ rfl (congrArg (fun g => some (Instr.amoswp g)) (SM.ofBits_toBits f))

theorem Laws.Encoding.amocas (f : SM) : Laws.Encoding.Statement (.amocas f) :=
  Laws.statement_of_bits _ _ _ _ rfl (congrArg (fun g => some (Instr.amocas g)) (SM.ofBits_toBits f))

theorem Laws.Encoding.amofadd (f : SM) : Laws.Encoding.Statement (.amofadd f) :=
  Laws.statement_of_bits _ _ _ _ rfl (congrArg (fun g => some (Instr.amofadd g)) (SM.ofBits_toBits f))

theorem Laws.Encoding.feset (f : SM) : Laws.Encoding.Statement (.feset f) :=
  Laws.statement_of_bits _ _ _ _ rfl (congrArg (fun g => some (Instr.feset g)) (SM.ofBits_toBits f))

theorem Laws.Encoding.feclr (f : SM) : Laws.Encoding.Statement (.feclr f) :=
  Laws.statement_of_bits _ _ _ _ rfl (congrArg (fun g => some (Instr.feclr g)) (SM.ofBits_toBits f))

theorem Laws.Encoding.feq (f : SM) : Laws.Encoding.Statement (.feq f) :=
  Laws.statement_of_bits _ _ _ _ rfl (congrArg (fun g => some (Instr.feq g)) (SM.ofBits_toBits f))

theorem Laws.Encoding.pooladd (f : SR) : Laws.Encoding.Statement (.pooladd f) :=
  Laws.statement_of_bits _ _ _ _ rfl (congrArg (fun g => some (Instr.pooladd g)) (SR.ofBits_toBits f))

theorem Laws.Encoding.poolmax (f : SR) : Laws.Encoding.Statement (.poolmax f) :=
  Laws.statement_of_bits _ _ _ _ rfl (congrArg (fun g => some (Instr.poolmax g)) (SR.ofBits_toBits f))

theorem Laws.Encoding.poolred (f : SR) : Laws.Encoding.Statement (.poolred f) :=
  Laws.statement_of_bits _ _ _ _ rfl (congrArg (fun g => some (Instr.poolred g)) (SR.ofBits_toBits f))

theorem Laws.Encoding.poolfill (f : SR) : Laws.Encoding.Statement (.poolfill f) :=
  Laws.statement_of_bits _ _ _ _ rfl (congrArg (fun g => some (Instr.poolfill g)) (SR.ofBits_toBits f))

theorem Laws.Encoding.extq (f : SR) : Laws.Encoding.Statement (.extq f) :=
  Laws.statement_of_bits _ _ _ _ rfl (congrArg (fun g => some (Instr.extq g)) (SR.ofBits_toBits f))

theorem Laws.Encoding.vadd (f : VR) : Laws.Encoding.Statement (.vadd f) :=
  Laws.statement_of_bits _ _ _ _ rfl (congrArg (fun g => some (Instr.vadd g)) (VR.ofBits_toBits f))

theorem Laws.Encoding.vsub (f : VR) : Laws.Encoding.Statement (.vsub f) :=
  Laws.statement_of_bits _ _ _ _ rfl (congrArg (fun g => some (Instr.vsub g)) (VR.ofBits_toBits f))

theorem Laws.Encoding.vmul (f : VR) : Laws.Encoding.Statement (.vmul f) :=
  Laws.statement_of_bits _ _ _ _ rfl (congrArg (fun g => some (Instr.vmul g)) (VR.ofBits_toBits f))

theorem Laws.Encoding.vmin (f : VR) : Laws.Encoding.Statement (.vmin f) :=
  Laws.statement_of_bits _ _ _ _ rfl (congrArg (fun g => some (Instr.vmin g)) (VR.ofBits_toBits f))

theorem Laws.Encoding.vmax (f : VR) : Laws.Encoding.Statement (.vmax f) :=
  Laws.statement_of_bits _ _ _ _ rfl (congrArg (fun g => some (Instr.vmax g)) (VR.ofBits_toBits f))

theorem Laws.Encoding.vand (f : VR) : Laws.Encoding.Statement (.vand f) :=
  Laws.statement_of_bits _ _ _ _ rfl (congrArg (fun g => some (Instr.vand g)) (VR.ofBits_toBits f))

theorem Laws.Encoding.vor (f : VR) : Laws.Encoding.Statement (.vor f) :=
  Laws.statement_of_bits _ _ _ _ rfl (congrArg (fun g => some (Instr.vor g)) (VR.ofBits_toBits f))

theorem Laws.Encoding.vxor (f : VR) : Laws.Encoding.Statement (.vxor f) :=
  Laws.statement_of_bits _ _ _ _ rfl (congrArg (fun g => some (Instr.vxor g)) (VR.ofBits_toBits f))

theorem Laws.Encoding.vshl (f : VR) : Laws.Encoding.Statement (.vshl f) :=
  Laws.statement_of_bits _ _ _ _ rfl (congrArg (fun g => some (Instr.vshl g)) (VR.ofBits_toBits f))

theorem Laws.Encoding.vshr (f : VR) : Laws.Encoding.Statement (.vshr f) :=
  Laws.statement_of_bits _ _ _ _ rfl (congrArg (fun g => some (Instr.vshr g)) (VR.ofBits_toBits f))

theorem Laws.Encoding.vsar (f : VR) : Laws.Encoding.Statement (.vsar f) :=
  Laws.statement_of_bits _ _ _ _ rfl (congrArg (fun g => some (Instr.vsar g)) (VR.ofBits_toBits f))

theorem Laws.Encoding.vfma (f : VR) : Laws.Encoding.Statement (.vfma f) :=
  Laws.statement_of_bits _ _ _ _ rfl (congrArg (fun g => some (Instr.vfma g)) (VR.ofBits_toBits f))

theorem Laws.Encoding.vcmp (f : VR) : Laws.Encoding.Statement (.vcmp f) :=
  Laws.statement_of_bits _ _ _ _ rfl (congrArg (fun g => some (Instr.vcmp g)) (VR.ofBits_toBits f))

theorem Laws.Encoding.vcmpqAny (f : VR) : Laws.Encoding.Statement (.vcmpqAny f) :=
  Laws.statement_of_bits _ _ _ _ rfl (congrArg (fun g => some (Instr.vcmpqAny g)) (VR.ofBits_toBits f))

theorem Laws.Encoding.vcmpqAll (f : VR) : Laws.Encoding.Statement (.vcmpqAll f) :=
  Laws.statement_of_bits _ _ _ _ rfl (congrArg (fun g => some (Instr.vcmpqAll g)) (VR.ofBits_toBits f))

theorem Laws.Encoding.vsel (f : VR) : Laws.Encoding.Statement (.vsel f) :=
  Laws.statement_of_bits _ _ _ _ rfl (congrArg (fun g => some (Instr.vsel g)) (VR.ofBits_toBits f))

theorem Laws.Encoding.vcvt (f : VR) : Laws.Encoding.Statement (.vcvt f) :=
  Laws.statement_of_bits _ _ _ _ rfl (congrArg (fun g => some (Instr.vcvt g)) (VR.ofBits_toBits f))

theorem Laws.Encoding.vmov (f : VR) : Laws.Encoding.Statement (.vmov f) :=
  Laws.statement_of_bits _ _ _ _ rfl (congrArg (fun g => some (Instr.vmov g)) (VR.ofBits_toBits f))

theorem Laws.Encoding.vmovs (f : VR) : Laws.Encoding.Statement (.vmovs f) :=
  Laws.statement_of_bits _ _ _ _ rfl (congrArg (fun g => some (Instr.vmovs g)) (VR.ofBits_toBits f))

theorem Laws.Encoding.vmovx (f : VR) : Laws.Encoding.Statement (.vmovx f) :=
  Laws.statement_of_bits _ _ _ _ rfl (congrArg (fun g => some (Instr.vmovx g)) (VR.ofBits_toBits f))

theorem Laws.Encoding.viota (f : VR) : Laws.Encoding.Statement (.viota f) :=
  Laws.statement_of_bits _ _ _ _ rfl (congrArg (fun g => some (Instr.viota g)) (VR.ofBits_toBits f))

theorem Laws.Encoding.mand (f : VR) : Laws.Encoding.Statement (.mand f) :=
  Laws.statement_of_bits _ _ _ _ rfl (congrArg (fun g => some (Instr.mand g)) (VR.ofBits_toBits f))

theorem Laws.Encoding.mor (f : VR) : Laws.Encoding.Statement (.mor f) :=
  Laws.statement_of_bits _ _ _ _ rfl (congrArg (fun g => some (Instr.mor g)) (VR.ofBits_toBits f))

theorem Laws.Encoding.mxor (f : VR) : Laws.Encoding.Statement (.mxor f) :=
  Laws.statement_of_bits _ _ _ _ rfl (congrArg (fun g => some (Instr.mxor g)) (VR.ofBits_toBits f))

theorem Laws.Encoding.mnot (f : VR) : Laws.Encoding.Statement (.mnot f) :=
  Laws.statement_of_bits _ _ _ _ rfl (congrArg (fun g => some (Instr.mnot g)) (VR.ofBits_toBits f))

theorem Laws.Encoding.mpop (f : VR) : Laws.Encoding.Statement (.mpop f) :=
  Laws.statement_of_bits _ _ _ _ rfl (congrArg (fun g => some (Instr.mpop g)) (VR.ofBits_toBits f))

theorem Laws.Encoding.vquant (f : VR) : Laws.Encoding.Statement (.vquant f) :=
  Laws.statement_of_bits _ _ _ _ rfl (congrArg (fun g => some (Instr.vquant g)) (VR.ofBits_toBits f))

theorem Laws.Encoding.vdeq (f : VR) : Laws.Encoding.Statement (.vdeq f) :=
  Laws.statement_of_bits _ _ _ _ rfl (congrArg (fun g => some (Instr.vdeq g)) (VR.ofBits_toBits f))

theorem Laws.Encoding.vrotR (f : VR) : Laws.Encoding.Statement (.vrotR f) :=
  Laws.statement_of_bits _ _ _ _ rfl (congrArg (fun g => some (Instr.vrotR g)) (VR.ofBits_toBits f))

theorem Laws.Encoding.vrotC (f : VR) : Laws.Encoding.Statement (.vrotC f) :=
  Laws.statement_of_bits _ _ _ _ rfl (congrArg (fun g => some (Instr.vrotC g)) (VR.ofBits_toBits f))

theorem Laws.Encoding.vbcR (f : VR) : Laws.Encoding.Statement (.vbcR f) :=
  Laws.statement_of_bits _ _ _ _ rfl (congrArg (fun g => some (Instr.vbcR g)) (VR.ofBits_toBits f))

theorem Laws.Encoding.vbcC (f : VR) : Laws.Encoding.Statement (.vbcC f) :=
  Laws.statement_of_bits _ _ _ _ rfl (congrArg (fun g => some (Instr.vbcC g)) (VR.ofBits_toBits f))

theorem Laws.Encoding.vredR (f : VR) : Laws.Encoding.Statement (.vredR f) :=
  Laws.statement_of_bits _ _ _ _ rfl (congrArg (fun g => some (Instr.vredR g)) (VR.ofBits_toBits f))

theorem Laws.Encoding.vredC (f : VR) : Laws.Encoding.Statement (.vredC f) :=
  Laws.statement_of_bits _ _ _ _ rfl (congrArg (fun g => some (Instr.vredC g)) (VR.ofBits_toBits f))

theorem Laws.Encoding.vshuf (f : VR) : Laws.Encoding.Statement (.vshuf f) :=
  Laws.statement_of_bits _ _ _ _ rfl (congrArg (fun g => some (Instr.vshuf g)) (VR.ofBits_toBits f))

theorem Laws.Encoding.vsfu (f : VR) : Laws.Encoding.Statement (.vsfu f) :=
  Laws.statement_of_bits _ _ _ _ rfl (congrArg (fun g => some (Instr.vsfu g)) (VR.ofBits_toBits f))

theorem Laws.Encoding.vsftab (f : VR) : Laws.Encoding.Statement (.vsftab f) :=
  Laws.statement_of_bits _ _ _ _ rfl (congrArg (fun g => some (Instr.vsftab g)) (VR.ofBits_toBits f))

theorem Laws.Encoding.vld (f : VM) : Laws.Encoding.Statement (.vld f) :=
  Laws.statement_of_bits _ _ _ _ rfl (congrArg (fun g => some (Instr.vld g)) (VM.ofBits_toBits f))

theorem Laws.Encoding.vst (f : VM) : Laws.Encoding.Statement (.vst f) :=
  Laws.statement_of_bits _ _ _ _ rfl (congrArg (fun g => some (Instr.vst g)) (VM.ofBits_toBits f))

theorem Laws.Encoding.vldx (f : VM) : Laws.Encoding.Statement (.vldx f) :=
  Laws.statement_of_bits _ _ _ _ rfl (congrArg (fun g => some (Instr.vldx g)) (VM.ofBits_toBits f))

theorem Laws.Encoding.vstx (f : VM) : Laws.Encoding.Statement (.vstx f) :=
  Laws.statement_of_bits _ _ _ _ rfl (congrArg (fun g => some (Instr.vstx g)) (VM.ofBits_toBits f))

theorem Laws.Encoding.vlda (f : VM) : Laws.Encoding.Statement (.vlda f) :=
  Laws.statement_of_bits _ _ _ _ rfl (congrArg (fun g => some (Instr.vlda g)) (VM.ofBits_toBits f))

theorem Laws.Encoding.vsta (f : VM) : Laws.Encoding.Statement (.vsta f) :=
  Laws.statement_of_bits _ _ _ _ rfl (congrArg (fun g => some (Instr.vsta g)) (VM.ofBits_toBits f))

theorem Laws.Encoding.vstr (f : VM) : Laws.Encoding.Statement (.vstr f) :=
  Laws.statement_of_bits _ _ _ _ rfl (congrArg (fun g => some (Instr.vstr g)) (VM.ofBits_toBits f))

theorem Laws.Encoding.vstrRel (f : VM) : Laws.Encoding.Statement (.vstrRel f) :=
  Laws.statement_of_bits _ _ _ _ rfl (congrArg (fun g => some (Instr.vstrRel g)) (VM.ofBits_toBits f))

theorem Laws.Encoding.bfxp (f : VM) : Laws.Encoding.Statement (.bfxp f) :=
  Laws.statement_of_bits _ _ _ _ rfl (congrArg (fun g => some (Instr.bfxp g)) (VM.ofBits_toBits f))

theorem Laws.Encoding.mxloop (f : MC) : Laws.Encoding.Statement (.mxloop f) :=
  Laws.statement_of_bits _ _ _ _ rfl (congrArg (fun g => some (Instr.mxloop g)) (MC.ofBits_toBits f))

theorem Laws.Encoding.mxaddr (f : MC) : Laws.Encoding.Statement (.mxaddr f) :=
  Laws.statement_of_bits _ _ _ _ rfl (congrArg (fun g => some (Instr.mxaddr g)) (MC.ofBits_toBits f))

theorem Laws.Encoding.mxfmt (f : MC) : Laws.Encoding.Statement (.mxfmt f) :=
  Laws.statement_of_bits _ _ _ _ rfl (congrArg (fun g => some (Instr.mxfmt g)) (MC.ofBits_toBits f))

theorem Laws.Encoding.mxidx (f : MC) : Laws.Encoding.Statement (.mxidx f) :=
  Laws.statement_of_bits _ _ _ _ rfl (congrArg (fun g => some (Instr.mxidx g)) (MC.ofBits_toBits f))

theorem Laws.Encoding.mxwld (f : MC) : Laws.Encoding.Statement (.mxwld f) :=
  Laws.statement_of_bits _ _ _ _ rfl (congrArg (fun g => some (Instr.mxwld g)) (MC.ofBits_toBits f))

theorem Laws.Encoding.mxwstrm (f : MC) : Laws.Encoding.Statement (.mxwstrm f) :=
  Laws.statement_of_bits _ _ _ _ rfl (congrArg (fun g => some (Instr.mxwstrm g)) (MC.ofBits_toBits f))

theorem Laws.Encoding.mxgo (f : MC) : Laws.Encoding.Statement (.mxgo f) :=
  Laws.statement_of_bits _ _ _ _ rfl (congrArg (fun g => some (Instr.mxgo g)) (MC.ofBits_toBits f))

theorem Laws.Encoding.mxzero (f : MC) : Laws.Encoding.Statement (.mxzero f) :=
  Laws.statement_of_bits _ _ _ _ rfl (congrArg (fun g => some (Instr.mxzero g)) (MC.ofBits_toBits f))

theorem Laws.Encoding.mxdrain (f : MC) : Laws.Encoding.Statement (.mxdrain f) :=
  Laws.statement_of_bits _ _ _ _ rfl (congrArg (fun g => some (Instr.mxdrain g)) (MC.ofBits_toBits f))

theorem Laws.Encoding.mxnorm (f : MC) : Laws.Encoding.Statement (.mxnorm f) :=
  Laws.statement_of_bits _ _ _ _ rfl (congrArg (fun g => some (Instr.mxnorm g)) (MC.ofBits_toBits f))

theorem Laws.Encoding.msbuild (f : MC) : Laws.Encoding.Statement (.msbuild f) :=
  Laws.statement_of_bits _ _ _ _ rfl (congrArg (fun g => some (Instr.msbuild g)) (MC.ofBits_toBits f))

theorem Laws.Encoding.mxsmp (f : MC) : Laws.Encoding.Statement (.mxsmp f) :=
  Laws.statement_of_bits _ _ _ _ rfl (congrArg (fun g => some (Instr.mxsmp g)) (MC.ofBits_toBits f))

theorem Laws.Encoding.mxstat (f : MC) : Laws.Encoding.Statement (.mxstat f) :=
  Laws.statement_of_bits _ _ _ _ rfl (congrArg (fun g => some (Instr.mxstat g)) (MC.ofBits_toBits f))

theorem Laws.Encoding.cpin (f : CC) : Laws.Encoding.Statement (.cpin f) :=
  Laws.statement_of_bits _ _ _ _ rfl (congrArg (fun g => some (Instr.cpin g)) (CC.ofBits_toBits f))

theorem Laws.Encoding.cpout (f : CC) : Laws.Encoding.Statement (.cpout f) :=
  Laws.statement_of_bits _ _ _ _ rfl (congrArg (fun g => some (Instr.cpout g)) (CC.ofBits_toBits f))

theorem Laws.Encoding.cp2d (f : CC) : Laws.Encoding.Statement (.cp2d f) :=
  Laws.statement_of_bits _ _ _ _ rfl (congrArg (fun g => some (Instr.cp2d g)) (CC.ofBits_toBits f))

theorem Laws.Encoding.cpmc (f : CC) : Laws.Encoding.Statement (.cpmc f) :=
  Laws.statement_of_bits _ _ _ _ rfl (congrArg (fun g => some (Instr.cpmc g)) (CC.ofBits_toBits f))

theorem Laws.Encoding.cprs (f : CC) : Laws.Encoding.Statement (.cprs f) :=
  Laws.statement_of_bits _ _ _ _ rfl (congrArg (fun g => some (Instr.cprs g)) (CC.ofBits_toBits f))

theorem Laws.Encoding.barinit (f : CC) : Laws.Encoding.Statement (.barinit f) :=
  Laws.statement_of_bits _ _ _ _ rfl (congrArg (fun g => some (Instr.barinit g)) (CC.ofBits_toBits f))

theorem Laws.Encoding.barexp (f : CC) : Laws.Encoding.Statement (.barexp f) :=
  Laws.statement_of_bits _ _ _ _ rfl (congrArg (fun g => some (Instr.barexp g)) (CC.ofBits_toBits f))

theorem Laws.Encoding.barwait (f : CC) : Laws.Encoding.Statement (.barwait f) :=
  Laws.statement_of_bits _ _ _ _ rfl (congrArg (fun g => some (Instr.barwait g)) (CC.ofBits_toBits f))

theorem Laws.Encoding.barwaitT (f : CC) : Laws.Encoding.Statement (.barwaitT f) :=
  Laws.statement_of_bits _ _ _ _ rfl (congrArg (fun g => some (Instr.barwaitT g)) (CC.ofBits_toBits f))

theorem Laws.Encoding.barq (f : CC) : Laws.Encoding.Statement (.barq f) :=
  Laws.statement_of_bits _ _ _ _ rfl (congrArg (fun g => some (Instr.barq g)) (CC.ofBits_toBits f))

theorem Laws.Encoding.tokwait (f : CC) : Laws.Encoding.Statement (.tokwait f) :=
  Laws.statement_of_bits _ _ _ _ rfl (congrArg (fun g => some (Instr.tokwait g)) (CC.ofBits_toBits f))

theorem Laws.Encoding.toktest (f : CC) : Laws.Encoding.Statement (.toktest f) :=
  Laws.statement_of_bits _ _ _ _ rfl (congrArg (fun g => some (Instr.toktest g)) (CC.ofBits_toBits f))

theorem Laws.Encoding.cpcan (f : CC) : Laws.Encoding.Statement (.cpcan f) :=
  Laws.statement_of_bits _ _ _ _ rfl (congrArg (fun g => some (Instr.cpcan g)) (CC.ofBits_toBits f))

theorem Laws.Encoding.spawn (f : TS) : Laws.Encoding.Statement (.spawn f) :=
  Laws.statement_of_bits _ _ _ _ rfl (congrArg (fun g => some (Instr.spawn g)) (TS.ofBits_toBits f))

theorem Laws.Encoding.spawnD (f : TS) : Laws.Encoding.Statement (.spawnD f) :=
  Laws.statement_of_bits _ _ _ _ rfl (congrArg (fun g => some (Instr.spawnD g)) (TS.ofBits_toBits f))

theorem Laws.Encoding.spawnop (f : TS) : Laws.Encoding.Statement (.spawnop f) :=
  Laws.statement_of_bits _ _ _ _ rfl (congrArg (fun g => some (Instr.spawnop g)) (TS.ofBits_toBits f))

theorem Laws.Encoding.tend (f : TS) : Laws.Encoding.Statement (.tend f) :=
  Laws.statement_of_bits _ _ _ _ rfl (congrArg (fun g => some (Instr.tend g)) (TS.ofBits_toBits f))

theorem Laws.Encoding.tcont (f : TS) : Laws.Encoding.Statement (.tcont f) :=
  Laws.statement_of_bits _ _ _ _ rfl (congrArg (fun g => some (Instr.tcont g)) (TS.ofBits_toBits f))

theorem Laws.Encoding.tyield (f : TS) : Laws.Encoding.Statement (.tyield f) :=
  Laws.statement_of_bits _ _ _ _ rfl (congrArg (fun g => some (Instr.tyield g)) (TS.ofBits_toBits f))

theorem Laws.Encoding.tstat (f : TS) : Laws.Encoding.Statement (.tstat f) :=
  Laws.statement_of_bits _ _ _ _ rfl (congrArg (fun g => some (Instr.tstat g)) (TS.ofBits_toBits f))

theorem Laws.Encoding.jcnew (f : TS) : Laws.Encoding.Statement (.jcnew f) :=
  Laws.statement_of_bits _ _ _ _ rfl (congrArg (fun g => some (Instr.jcnew g)) (TS.ofBits_toBits f))

theorem Laws.Encoding.jcadd (f : TS) : Laws.Encoding.Statement (.jcadd f) :=
  Laws.statement_of_bits _ _ _ _ rfl (congrArg (fun g => some (Instr.jcadd g)) (TS.ofBits_toBits f))

theorem Laws.Encoding.mbrecv (f : TS) : Laws.Encoding.Statement (.mbrecv f) :=
  Laws.statement_of_bits _ _ _ _ rfl (congrArg (fun g => some (Instr.mbrecv g)) (TS.ofBits_toBits f))

theorem Laws.Encoding.mbsend (f : TS) : Laws.Encoding.Statement (.mbsend f) :=
  Laws.statement_of_bits _ _ _ _ rfl (congrArg (fun g => some (Instr.mbsend g)) (TS.ofBits_toBits f))

theorem Laws.Encoding.mbstat (f : TS) : Laws.Encoding.Statement (.mbstat f) :=
  Laws.statement_of_bits _ _ _ _ rfl (congrArg (fun g => some (Instr.mbstat g)) (TS.ofBits_toBits f))

theorem Laws.Encoding.mbPost (rd rs1 rs2 : BitVec 5) : Laws.Encoding.Statement (.mbPost rd rs1 rs2) :=
  Laws.statement_of_none _ rfl

theorem Laws.Encoding.mbTake (rd rs1 : BitVec 5) : Laws.Encoding.Statement (.mbTake rd rs1) :=
  Laws.statement_of_none _ rfl

theorem Laws.Encoding.mbPeek (rd : BitVec 5) : Laws.Encoding.Statement (.mbPeek rd) :=
  Laws.statement_of_none _ rfl

theorem Laws.Encoding.epSwitch (rd rs1 rs2 : BitVec 5) : Laws.Encoding.Statement (.epSwitch rd rs1 rs2) :=
  Laws.statement_of_none _ rfl

theorem Laws.Encoding.epWdset (rd rs1 : BitVec 5) : Laws.Encoding.Statement (.epWdset rd rs1) :=
  Laws.statement_of_none _ rfl

theorem Laws.Encoding.epEnd (rd : BitVec 5) : Laws.Encoding.Statement (.epEnd rd) :=
  Laws.statement_of_none _ rfl

theorem Laws.Encoding.claim (master : BitVec 8) (nonce : BitVec 64) : Laws.Encoding.Statement (.claim master nonce) :=
  Laws.statement_of_none _ rfl

theorem Laws.Encoding.claimpri (master : BitVec 8) (pri : BitVec 64) : Laws.Encoding.Statement (.claimpri master pri) :=
  Laws.statement_of_none _ rfl

theorem Laws.Encoding.ownerRelease (master : BitVec 8) (successor : BitVec 8) : Laws.Encoding.Statement (.ownerRelease master successor) :=
  Laws.statement_of_none _ rfl

theorem Laws.Encoding.controlBlockWrite (master : BitVec 8) (offset : Nat) (value : BitVec 64) : Laws.Encoding.Statement (.controlBlockWrite master offset value) :=
  Laws.statement_of_none _ rfl

theorem Laws.Encoding.loadImage (host : Nat) (size : Nat) : Laws.Encoding.Statement (.loadImage host size) :=
  Laws.statement_of_none _ rfl

theorem Laws.Encoding.config (host : Nat) : Laws.Encoding.Statement (.config host) :=
  Laws.statement_of_none _ rfl

theorem Laws.Encoding.setPolver (die : Nat) (version : BitVec 16) : Laws.Encoding.Statement (.setPolver die version) :=
  Laws.statement_of_none _ rfl

theorem Laws.Encoding.resume (core : Nat) (x : Nat) : Laws.Encoding.Statement (.resume core x) :=
  Laws.statement_of_none _ rfl

theorem Laws.Encoding.kill (target : KillTarget) (reason : BitVec 64) : Laws.Encoding.Statement (.kill target reason) :=
  Laws.statement_of_none _ rfl

theorem Laws.Encoding.preempt (core : Nat) (x : Nat) : Laws.Encoding.Statement (.preempt core x) :=
  Laws.statement_of_none _ rfl

theorem Laws.Encoding.loadCamp (die : Nat) (camp : Nat) (host : Nat) : Laws.Encoding.Statement (.loadCamp die camp host) :=
  Laws.statement_of_none _ rfl

theorem Laws.Encoding.migrate (page : Nat) (device : Nat) : Laws.Encoding.Statement (.migrate page device) :=
  Laws.statement_of_none _ rfl

theorem Laws.Encoding.migrationComplete (page : Nat) : Laws.Encoding.Statement (.migrationComplete page) :=
  Laws.statement_of_none _ rfl

theorem Laws.Encoding.settleExpiry (page : Nat) : Laws.Encoding.Statement (.settleExpiry page) :=
  Laws.statement_of_none _ rfl

theorem Laws.Encoding.attest (nonce : BitVec 256) (host : Nat) : Laws.Encoding.Statement (.attest nonce host) :=
  Laws.statement_of_none _ rfl

theorem Laws.Encoding.faultReply (tag : BitVec 64) (refused : Bool) : Laws.Encoding.Statement (.faultReply tag refused) :=
  Laws.statement_of_none _ rfl

theorem Laws.Encoding.releaseSave (addr : Nat) : Laws.Encoding.Statement (.releaseSave addr) :=
  Laws.statement_of_none _ rfl

theorem Laws.Encoding.coldReset (strap : BitVec 1) : Laws.Encoding.Statement (.coldReset strap) :=
  Laws.statement_of_none _ rfl

theorem Laws.Encoding.hostBar2Access (pa : Nat) (write : Option (List (BitVec 8))) (len : Nat) : Laws.Encoding.Statement (.hostBar2Access pa write len) :=
  Laws.statement_of_none _ rfl

theorem Laws.Encoding.skornLinkFailure (port : Nat) : Laws.Encoding.Statement (.skornLinkFailure port) :=
  Laws.statement_of_none _ rfl

theorem Laws.Encoding.pseudoChannelRetire (stack : Nat) (pc : Nat) : Laws.Encoding.Statement (.pseudoChannelRetire stack pc) :=
  Laws.statement_of_none _ rfl

theorem Laws.Encoding.retirementSwitch (stack : Nat) (pc : Nat) : Laws.Encoding.Statement (.retirementSwitch stack pc) :=
  Laws.statement_of_none _ rfl

theorem Laws.Encoding.mxcadWrite (core : Nat) (value : Nat) : Laws.Encoding.Statement (.mxcadWrite core value) :=
  Laws.statement_of_none _ rfl

theorem Laws.Encoding.powerMonitorReport (milliwatts : Nat) : Laws.Encoding.Statement (.powerMonitorReport milliwatts) :=
  Laws.statement_of_none _ rfl

theorem Laws.Encoding.backstopHoldEnd (core : Nat) : Laws.Encoding.Statement (.backstopHoldEnd core) :=
  Laws.statement_of_none _ rfl

theorem Laws.Encoding.thermalAlert (die : Nat) (sensor : Nat) (threshold : Nat) (upward : Bool) : Laws.Encoding.Statement (.thermalAlert die sensor threshold upward) :=
  Laws.statement_of_none _ rfl

theorem Laws.Encoding.supplyDroop (core : Nat) (domain : Nat) : Laws.Encoding.Statement (.supplyDroop core domain) :=
  Laws.statement_of_none _ rfl

theorem Laws.Encoding.retentionEntry (cluster : Nat) : Laws.Encoding.Statement (.retentionEntry cluster) :=
  Laws.statement_of_none _ rfl

theorem Laws.Encoding.retentionExit (cluster : Nat) (parity : List (Nat × Nat × BitVec 6)) : Laws.Encoding.Statement (.retentionExit cluster parity) :=
  Laws.statement_of_none _ rfl

theorem Laws.Encoding.clusterGate (cluster : Nat) : Laws.Encoding.Statement (.clusterGate cluster) :=
  Laws.statement_of_none _ rfl

theorem Laws.Encoding.clusterWake (cluster : Nat) : Laws.Encoding.Statement (.clusterWake cluster) :=
  Laws.statement_of_none _ rfl

theorem Laws.Encoding.campCoreInstruction (w : BitVec 32) : Laws.Encoding.Statement (.campCoreInstruction w) :=
  Laws.statement_of_none _ rfl

theorem Laws.Encoding.unassignedEncoding (w : BitVec 64) : Laws.Encoding.Statement (.unassignedEncoding w) :=
  Laws.statement_of_none _ rfl

theorem Laws.Encoding.hostPortUncorrectableError (core : Nat) (cmd : Nat) : Laws.Encoding.Statement (.hostPortUncorrectableError core cmd) :=
  Laws.statement_of_none _ rfl

theorem Laws.Encoding.repRepeatIssue : Laws.Encoding.Statement (.repRepeatIssue) :=
  Laws.statement_of_none _ rfl

theorem Laws.Encoding.tretResume : Laws.Encoding.Statement (.tretResume) :=
  Laws.statement_of_none _ rfl

theorem Laws.Encoding.clkdivApply : Laws.Encoding.Statement (.clkdivApply) :=
  Laws.statement_of_none _ rfl

theorem Laws.Encoding.clockModeSwitchDone : Laws.Encoding.Statement (.clockModeSwitchDone) :=
  Laws.statement_of_none _ rfl

theorem Laws.Encoding.sfuTableReady : Laws.Encoding.Statement (.sfuTableReady) :=
  Laws.statement_of_none _ rfl

theorem Laws.Encoding.barwaitTimeout : Laws.Encoding.Statement (.barwaitTimeout) :=
  Laws.statement_of_none _ rfl

theorem Laws.Encoding.blockAccept : Laws.Encoding.Statement (.blockAccept) :=
  Laws.statement_of_none _ rfl

theorem Laws.Encoding.taskEnd : Laws.Encoding.Statement (.taskEnd) :=
  Laws.statement_of_none _ rfl

theorem Laws.Encoding.watchdogExpiry : Laws.Encoding.Statement (.watchdogExpiry) :=
  Laws.statement_of_none _ rfl

theorem Laws.Encoding.writebackLand : Laws.Encoding.Statement (.writebackLand) :=
  Laws.statement_of_none _ rfl

theorem Laws.Encoding.variableResultLand : Laws.Encoding.Statement (.variableResultLand) :=
  Laws.statement_of_none _ rfl

theorem Laws.Encoding.destinationAccept : Laws.Encoding.Statement (.destinationAccept) :=
  Laws.statement_of_none _ rfl

theorem Laws.Encoding.completionWaitEnd : Laws.Encoding.Statement (.completionWaitEnd) :=
  Laws.statement_of_none _ rfl

theorem Laws.Encoding.crossingDrainEnd : Laws.Encoding.Statement (.crossingDrainEnd) :=
  Laws.statement_of_none _ rfl

theorem Laws.Encoding.secondaryStarvationRelief : Laws.Encoding.Statement (.secondaryStarvationRelief) :=
  Laws.statement_of_none _ rfl

theorem Laws.Encoding.engineCommandStart : Laws.Encoding.Statement (.engineCommandStart) :=
  Laws.statement_of_none _ rfl

theorem Laws.Encoding.matrixReloadDone : Laws.Encoding.Statement (.matrixReloadDone) :=
  Laws.statement_of_none _ rfl

theorem Laws.Encoding.matrixPassInject : Laws.Encoding.Statement (.matrixPassInject) :=
  Laws.statement_of_none _ rfl

theorem Laws.Encoding.matrixPassLand : Laws.Encoding.Statement (.matrixPassLand) :=
  Laws.statement_of_none _ rfl

theorem Laws.Encoding.matrixRowStep : Laws.Encoding.Statement (.matrixRowStep) :=
  Laws.statement_of_none _ rfl

theorem Laws.Encoding.matrixCommandComplete : Laws.Encoding.Statement (.matrixCommandComplete) :=
  Laws.statement_of_none _ rfl

theorem Laws.Encoding.weightLoadComplete : Laws.Encoding.Statement (.weightLoadComplete) :=
  Laws.statement_of_none _ rfl

theorem Laws.Encoding.mxsmpSample : Laws.Encoding.Statement (.mxsmpSample) :=
  Laws.statement_of_none _ rfl

theorem Laws.Encoding.mxsmpCheck : Laws.Encoding.Statement (.mxsmpCheck) :=
  Laws.statement_of_none _ rfl

theorem Laws.Encoding.copyBlockArrival : Laws.Encoding.Statement (.copyBlockArrival) :=
  Laws.statement_of_none _ rfl

theorem Laws.Encoding.copyPageFault : Laws.Encoding.Statement (.copyPageFault) :=
  Laws.statement_of_none _ rfl

theorem Laws.Encoding.copyCommandComplete : Laws.Encoding.Statement (.copyCommandComplete) :=
  Laws.statement_of_none _ rfl

theorem Laws.Encoding.networkPortAccess : Laws.Encoding.Statement (.networkPortAccess) :=
  Laws.statement_of_none _ rfl

theorem Laws.Encoding.poolBankAccess : Laws.Encoding.Statement (.poolBankAccess) :=
  Laws.statement_of_none _ rfl

theorem Laws.Encoding.deviceMemoryAccess : Laws.Encoding.Statement (.deviceMemoryAccess) :=
  Laws.statement_of_none _ rfl

theorem Laws.Encoding.postedFaultTaken : Laws.Encoding.Statement (.postedFaultTaken) :=
  Laws.statement_of_none _ rfl

theorem Laws.Encoding.dispatch : Laws.Encoding.Statement (.dispatch) :=
  Laws.statement_of_none _ rfl

theorem Laws.Encoding.schedulerPreempt : Laws.Encoding.Statement (.schedulerPreempt) :=
  Laws.statement_of_none _ rfl

theorem Laws.Encoding.contextSave : Laws.Encoding.Statement (.contextSave) :=
  Laws.statement_of_none _ rfl

theorem Laws.Encoding.contextRestore : Laws.Encoding.Statement (.contextRestore) :=
  Laws.statement_of_none _ rfl

theorem Laws.Encoding.faultRecordWrite : Laws.Encoding.Statement (.faultRecordWrite) :=
  Laws.statement_of_none _ rfl

theorem Laws.Encoding.joinCounterDecrement : Laws.Encoding.Statement (.joinCounterDecrement) :=
  Laws.statement_of_none _ rfl

theorem Laws.Encoding.walkerStepPush : Laws.Encoding.Statement (.walkerStepPush) :=
  Laws.statement_of_none _ rfl

theorem Laws.Encoding.spillReturn : Laws.Encoding.Statement (.spillReturn) :=
  Laws.statement_of_none _ rfl

theorem Laws.Encoding.neighbourAveraging : Laws.Encoding.Statement (.neighbourAveraging) :=
  Laws.statement_of_none _ rfl

theorem Laws.Encoding.workUnitArrival : Laws.Encoding.Statement (.workUnitArrival) :=
  Laws.statement_of_none _ rfl

theorem Laws.Encoding.electionWindowEnd : Laws.Encoding.Statement (.electionWindowEnd) :=
  Laws.statement_of_none _ rfl

theorem Laws.Encoding.start : Laws.Encoding.Statement (.start) :=
  Laws.statement_of_none _ rfl

theorem Laws.Encoding.warmReset : Laws.Encoding.Statement (.warmReset) :=
  Laws.statement_of_none _ rfl

theorem Laws.Encoding.memready : Laws.Encoding.Statement (.memready) :=
  Laws.statement_of_none _ rfl

theorem Laws.Encoding.powerBackstop : Laws.Encoding.Statement (.powerBackstop) :=
  Laws.statement_of_none _ rfl

end Sys2Proof
end

