-- ==== Sys2Proof/Tests/Slice0.lean ====
section
/-!
SUPPORT. Tests of one operation or one step on small states, and a witness for the hypotheses of every statement.
-/

open Sys2Proof Sys2Proof.Machine

namespace Sys2Proof.Tests

set_option maxRecDepth 8000

/-! ### Small states -/

/-- Core 0's primary context given, all else as after reset. -/
def on (k : Ctx) : State := { State.reset with ctxs := [(0, k)] }

/-- A context as after reset but for some scalar registers, and the whole of its core's scratchpad and accumulator. -/
def regs (l : List (Nat × W64)) : Ctx :=
  { Ctx.reset with
    sregs := l.foldl (fun v e => v.setIfInBounds e.1 e.2) Ctx.reset.sregs
    scrlim := 2097152
    acclim := 3145728 }

/-- The same state, the operation's bundle exposed. -/
def exposed (s : State) : State := { s with cur := { s.cur with exposed := true } }

/-- The same state with core 0's copy of its core replaced. -/
def core0 (c : Core) (s : State) : State := { s with cores := [(0, c)] }

/-- The same state with a core whose banks are all held. -/
def banked (s : State) : State :=
  core0 { Core.reset with queues := Core.reset.queues.setIfInBounds 1 [{ s.newCmd (.msbuild (.ofBits 0)) [] none (BitVec.allOnes 32) 0 0 0 0 0 0
    with state := .running, banksHeld := true }] } s

/-- The same state with bytes in a store, there since before the cycle. -/
def placed (r : Region) (a : Nat) (bs : List Byte) (s : State) : State :=
  { s with mem := s.mem.putRun (cellKey r a) bs, memStart := s.mem.putRun (cellKey r a) bs }

/-- A context with two strands, of slots 0 to 3 and 4 to 7. -/
def forked (k : Ctx) : Ctx :=
  { k with strands := [{ Strand.lockstep 0 0 (some false) with slots := 0x0F }, { Strand.lockstep 1 8 (some false) with slots := 0xF0 }] }

/-- A context with an extent entry of 64 KiB, readable and writable, and the window of a peer (R143, R145). -/
def mapped (k : Ctx) : Ctx :=
  { k with
    extents := k.extents.setIfInBounds 3 ⟨0x10000, 0x10000, 0x400000, true, true⟩
    peers := k.peers.setIfInBounds 0 (BitVec.ofNat 64 (2 ^ 63 + 2 ^ 21 * 2 ^ 29 + 7)) }

/-! ### Witnesses: sequencer and scalar operations -/

/-- A queue with two entries, a register that is a multiple of 8 and one that is not. -/
def seqState : State := on { regs [(5, 0x1000), (6, 0x1001)] with cqs := Ctx.reset.cqs.setIfInBounds 1 [true, false] }

theorem witness_SequencerOperationsAskFor :
    seqState.cur.mode = .whole ∧ Issues seqState [] [] 0 ∧ Issues seqState [] [sreg 5#6] 1 ∧ Issues seqState [sreg 5#6] [] 0
      ∧ Issues seqState [sreg 6#6] [] 0 ∧ (seqState.rs 5#6).toNat % 8 = 0
      ∧ (seqState.rs 5#6 + 8 * (BitVec.allOnes 32).signExtend 64).toNat % 8 = 0 ∧ (seqState.rs 6#6).toNat % 8 ≠ 0
      ∧ seqState.me.cq 1 = true :: [false] ∧ seqState.countEarlier (fun i => decide (popOf i = some 1)) < 2
      ∧ (seqState.me.cq 0).length ≤ seqState.countEarlier (fun i => decide (popOf i = some 0)) := by
  unfold Issues; decide

/-- An active loop whose body ends after the bundle at address 0. -/
def loopState (k : Ctx) : State :=
  on { k with strands := [{ Strand.lockstep 0 0 (some false) with loops := (Vector.replicate 4 Loop.reset).setIfInBounds 0 ⟨true, 0, 8, 2, 0, false, 0⟩ }] }

theorem witness_SequencerOperationsAskFor_loops :
    Issues seqState [sreg 0#6] [] 0 ∧ Issues seqState [sreg 5#6] [] 0 ∧ Issues seqState [] [] 0
      ∧ (8 * (1#32).signExtend 64 : W64).toNat ≤ 8 ∧ ¬(8 * (2#32).signExtend 64 : W64).toNat ≤ 8
      ∧ (seqState.rs 0#6).setWidth 32 = 0#32 ∧ (seqState.rs 5#6).setWidth 32 ≠ 0#32
      ∧ Issues (loopState Ctx.reset) [] [] 0
      ∧ (∃ l ∈ (loopState Ctx.reset).myStrand.loops.toList, l.active = true ∧ l.ex = 0 + BitVec.ofNat 64 (8 * (loopState Ctx.reset).cur.nw))
      ∧ ∀ l ∈ seqState.myStrand.loops.toList, ¬(l.active = true ∧ l.ex = 8) := by
  unfold Issues; decide

theorem witness_ScalarAluResults :
    Issues seqState [sreg 5#6, sreg 6#6] [sreg 63#6] 1 ∧ Issues seqState [sreg 5#6] [sreg 0#6] 1 ∧ Issues seqState [] [sreg 1#6] 1 := by
  unfold Issues; decide

theorem witness_DivisionAndBitResults :
    Issues seqState [sreg 5#6, sreg 0#6] [sreg 7#6] 1 ∧ seqState.rs 0#6 = 0 ∧ Issues seqState [sreg 5#6, sreg 6#6] [sreg 7#6] 1
      ∧ seqState.rs 6#6 ≠ 0 ∧ Issues seqState [sreg 5#6] [sreg 7#6] 1 ∧ Issues seqState [sreg 5#6, sreg 6#6, sreg 0#6] [sreg 7#6] 1 := by
  unfold Issues; decide

/-- A condition queue with no place left. -/
def fullQueue : State := on { Ctx.reset with cqs := Ctx.reset.cqs.setIfInBounds 2 (List.replicate 16 true) }

theorem witness_ScalarFloatsAndQueueCompares :
    Issues seqState [sreg 5#6, sreg 6#6] [sreg 7#6] 1 ∧ Issues seqState [sreg 5#6, sreg 6#6, sreg 1#6] [sreg 7#6] 1
      ∧ Issues seqState [sreg 5#6] [sreg 7#6] 1 ∧ Issues seqState [sreg 5#6, sreg 6#6] [] 1
      ∧ seqState.me.cqLoad 1 + seqState.countEarlier (fun i => decide (pushOf i = some 1)) - seqState.popsNow 1 < 16
      ∧ Issues fullQueue [sreg 5#6, sreg 6#6] [] 1 ∧ fullQueue.cur.exposed = false
      ∧ ¬fullQueue.me.cqLoad 2 + fullQueue.countEarlier (fun i => decide (pushOf i = some 2)) - fullQueue.popsNow 2 < 16
      ∧ Issues (exposed fullQueue) [sreg 5#6, sreg 6#6] [] 1 ∧ (exposed fullQueue).cur.exposed = true
      ∧ ¬(exposed fullQueue).me.cqLoad 2 + (exposed fullQueue).countEarlier (fun i => decide (pushOf i = some 2))
        - (exposed fullQueue).popsNow 2 < 16 := by
  unfold Issues; decide

/-! ### Witnesses: strands, condition bits, waits, control registers -/

/-- A descriptor for two groups of four slots (R26) at 64, and registers that name it and addresses that FORK turns away. -/
def forkState : State := placed (.scratch 0) 64 [0x0F, 0xF0, 0, 0, 1, 0, 0, 0, 8] (on (regs [(1, 64), (2, 65), (3, 2097152)]))

theorem witness_ForkAndJoinIssue :
    Issues forkState [sreg 1#6] [] 0 ∧ Issues forkState [sreg 2#6] [] 0 ∧ Issues forkState [sreg 3#6] [] 0 ∧ Issues forkState [] [] 0
      ∧ (on { regs [] with inhdl := true }).me.inhdl = true ∧ Issues (on { regs [] with inhdl := true }) [sreg 1#6] [] 0
      ∧ forkState.me.inhdl = false ∧ (forkState.rs 2#6).toNat % 64 ≠ 0 ∧ (forkState.rs 3#6).toNat % 64 = 0
      ∧ forkState.me.inWindow (forkState.rs 3#6).toNat 64 = false ∧ forkState.me.inWindow (forkState.rs 0#6).toNat 64 = true
      ∧ forkOk (wordsOf (forkState.imageAtIssue 0 64)) forkState.myStrand forkState.me.strands.length = false
      ∧ forkState.me.inWindow (forkState.rs 1#6).toNat 64 = true
      ∧ forkOk (wordsOf (forkState.imageAtIssue 64 64)) forkState.myStrand forkState.me.strands.length = true
      ∧ forkState.myCore.heldBanks &&& banksOfRun 64 64 = 0 ∧ (banked forkState).myCore.heldBanks &&& banksOfRun 64 64 ≠ 0
      ∧ Issues (banked forkState) [sreg 1#6] [] 0
      ∧ joinMismatch forkState 0x0F = true ∧ joinMismatch forkState 0xFF = false ∧ (0xFF : BitVec 8) = forkState.myStrand.slots
      ∧ Issues (on (forked Ctx.reset)) [] [] 0 ∧ joinMismatch (on (forked Ctx.reset)) 0xFF = false
      ∧ (0xFF : BitVec 8) ≠ (on (forked Ctx.reset)).myStrand.slots := by
  unfold Issues; decide

theorem witness_ConditionsAndWaitsIssue :
    Issues seqState [] [] 0 ∧ Issues seqState [sreg 5#6] [] 0 ∧ Issues seqState [sreg 5#6] [] 1 ∧ Issues seqState [] [sreg 7#6] 1
      ∧ seqState.me.cq 1 = true :: [false] ∧ seqState.countEarlier (fun i => decide (popOf i = some 1)) < [true, false].length
      ∧ (seqState.me.cq 3).length ≤ seqState.countEarlier (fun i => decide (popOf i = some 3))
      ∧ seqState.me.cqLoad 3 + seqState.countEarlier (fun i => decide (pushOf i = some 3)) - seqState.popsNow 3 < 16 := by
  unfold Issues; decide

theorem witness_ConditionsAndWaitsIssue_waits :
    Issues seqState [] [] 0 ∧ Issues seqState [sreg 5#6] [] 0 ∧ Issues seqState [] [sreg 7#6] 0 ∧ Issues seqState [sreg 5#6] [sreg 7#6] 0
      ∧ (1#30).setWidth 16 ≠ 0#16 ∧ (0x10000#30).setWidth 16 = 0#16 := by
  unfold Issues; decide

/-- Registers at and above the largest count of an expectation, and a barrier that is as low as it goes. -/
def barState : State :=
  on { regs [(1, 549755813887), (2, 549755813888), (3, 1)] with bars := Ctx.reset.bars.setIfInBounds 5 ⟨true, false, false, false, 0, -549755813888⟩ }

theorem witness_BarrierOperations :
    Issues barState [] [] 0 ∧ Issues barState [sreg 1#6] [] 0 ∧ Issues barState [sreg 2#6] [] 0 ∧ Issues barState [] [sreg 7#6] 0
      ∧ Issues barState [sreg 3#6] [sreg 7#6] 0
      ∧ ((barState.rs 1#6).toNat < 2 ^ 39 ∧ -2 ^ 39 ≤ (barState.me.bar 0).bal - (barState.rs 1#6).toNat)
      ∧ ¬(barState.rs 2#6).toNat < 2 ^ 39 ∧ ¬-2 ^ 39 ≤ (barState.me.bar 5).bal - (barState.rs 3#6).toNat := by
  unfold Issues; decide

theorem witness_CsrReadsAndOperations : Issues seqState [] [sreg 7#6] 1 ∧ Issues seqState [sreg 5#6] [sreg 0#6] 1
      ∧ Issues seqState [sreg 5#6] [] 0 ∧ (1 : Nat) ≠ 0 ∧ (0x050 : Nat) ≠ 0x008 := by
  unfold Issues; decide

/-- A handler's bundle of one word, the context pinned, and ranges for DISCARD and ACCLIVE. -/
def trapState : State := on { regs [(1, 64), (2, 128), (3, 65), (4, 2097152), (5, 6144)] with inhdl := true, clkReq := true }

/-- The same context as the second one of its core. -/
def secondary (s : State) : State := { s with ctxs := s.ctxs.map (fun p => (p.1 + 1, p.2)), cur := { s.cur with x := 1 } }

theorem witness_TrapsHaltsAndDeclarations :
    Issues trapState [] [] 0 ∧ trapState.me.inhdl = true ∧ trapState.cur.nw = 1 ∧ trapState.guardFault (some trapState.cur.strand) = none
      ∧ seqState.me.inhdl = false ∧ trapState.me.strands.length = 1
      ∧ (on (forked Ctx.reset)).me.strands.length ≠ 1 ∧ Issues (on (forked Ctx.reset)) [] [] 0
      ∧ trapState.cur.x = 0 ∧ trapState.guardFault none = none
      ∧ ((8#12).toNat / 8 % 8 + 1) % ((8#12).toNat % 8 + 1) = 0 ∧ ¬((1#12).toNat / 8 % 8 + 1) % ((1#12).toNat % 8 + 1) = 0
      ∧ (secondary trapState).cur.x ≠ 0 ∧ Issues (secondary trapState) [] [] 0
      ∧ Issues (exposed trapState) [] [] 0 ∧ (exposed trapState).cur.exposed = true ∧ (1#30).getLsbD 0 = true ∧ (0#30).getLsbD 0 = false
      ∧ trapState.myCore.switchEnd = none ∧ (core0 { Core.reset with switchEnd := some 5 } trapState).myCore.switchEnd ≠ none
      ∧ trapState.cur.x < 2 ∧ ((0#30).getLsbD 0 || (trapState.ctx 0 1).clkReq) = trapState.myCore.pinned
      ∧ ((1#30).getLsbD 0 || (trapState.ctx 0 1).clkReq) ≠ trapState.myCore.pinned
      ∧ Issues trapState [sreg 1#6, sreg 2#6] [] 0 ∧ Issues trapState [sreg 3#6, sreg 2#6] [] 0 ∧ Issues trapState [sreg 1#6, sreg 3#6] [] 0
      ∧ Issues trapState [sreg 4#6, sreg 2#6] [] 0 ∧ Issues trapState [sreg 5#6, sreg 1#6] [] 0
      ∧ (trapState.rs 1#6).toNat % 64 = 0 ∧ (trapState.rs 3#6).toNat % 64 ≠ 0 ∧ trapState.me.inWindow 64 128 = true
      ∧ trapState.me.inWindow 2097152 128 = false
      ∧ trapState.me.inAcc (trapState.me.accbase.toNat + 512 * 64) (512 * 128) = true
      ∧ trapState.me.inAcc (trapState.me.accbase.toNat + 512 * 6144) (512 * 64) = false := by
  unfold Issues; and_intros <;> decide

/-! ### Witnesses: addresses and scalar memory operations -/

theorem witness_AddressSpacesReachTheirStores :
    (mapped (regs [])).place 0 4 0x1FFF8 8 true true = some (.dev, 0x40FFF8) ∧ (mapped (regs [])).place 0 4 0x1FFF9 8 true true = none
      ∧ (mapped (regs [])).place 0 2 (7 * 2 ^ 21 + 2 ^ 21 - 8) 8 true true = some (.scratch 7, 2 ^ 21 - 8)
      ∧ (mapped (regs [])).place 0 3 (2 ^ 28 - 8) 8 true true = some (.pool 3, 2 ^ 26 - 8) ∧ (regs []).place 0 0 2097145 8 true true = none
      ∧ (regs []).place 0 1 3145720 8 true true = some (.acc 0, 3145720)
      ∧ (mapped (regs [])).extentHit 0x1FFF8 8 = some (3, ⟨0x10000, 0x10000, 0x400000, true, true⟩)
      ∧ (mapped (regs [])).extentHit 0x1FFF9 8 = none := by decide

/-- A load or store of 8 bytes at s1 in a space, with register 2. -/
def sm (space size fe ord : Nat) (base : BitVec 6) : SM := ⟨2, base, 0, BitVec.ofNat 3 space, BitVec.ofNat 2 size, 0, BitVec.ofNat 3 ord, 0, BitVec.ofNat 2 fe, 0⟩

/-- Addresses for every case: in LOCAL and ACC, misaligned, past the window, in POOL. A granule is full, the next one is not, and one was filled by
an arrival. -/
def memState : State :=
  placed (.fe 0) 4 [1, 0, 2] (placed (.scratch 0) 64 [1, 2, 3, 4, 5, 6, 7, 8] (on (mapped (regs [(1, 64), (2, 0x1122334455667788), (3, 65), (4, 2097152), (5, 80), (6, 0x10000)]))))

theorem witness_LoadResults :
    Issues memState [sreg 1#6] [sreg 2#6] 1 ∧ Issues memState [sreg 3#6] [sreg 2#6] 1 ∧ Issues memState [sreg 4#6] [sreg 2#6] 1
      ∧ Issues memState [sreg 5#6] [sreg 2#6] 1 ∧ Issues (banked memState) [sreg 1#6] [sreg 2#6] 1
      ∧ (Instr.ld (sm 0 3 0 0 1)).wf = true ∧ (Instr.ld (sm 0 3 0 1 1)).wf = true ∧ (Instr.ld (sm 0 3 1 0 1)).wf = true
      ∧ (Instr.ld (sm 0 3 2 0 1)).wf = true ∧ (Instr.ld (sm 1 3 0 0 1)).wf = true ∧ (Instr.ld (sm 4 3 0 0 6)).wf = true
      ∧ (memState.rs 3#6).toNat % 8 ≠ 0 ∧ (memState.rs 4#6).toNat % 8 = 0 ∧ memState.me.place 0 0 2097152 8 true false = none
      ∧ memState.me.place 0 0 64 8 true false = some (.scratch 0, 64) ∧ memState.me.place 0 1 64 8 true false = some (.acc 0, 64)
      ∧ memState.me.place 0 4 0x10000 8 true false = some (.dev, 0x400000)
      ∧ memState.fullAtStart 0 64 = true ∧ memState.fullAtStart 0 80 = false ∧ memState.fullAtStart 0 96 = true
      ∧ memState.memStart.get (cellKey (.fe 0) 6) = 2 ∧ memState.memStart.get (cellKey (.fe 0) 4) ≠ 2
      ∧ memState.myCore.heldBanks &&& banksOfRun 64 8 = 0 ∧ (banked memState).myCore.heldBanks &&& banksOfRun 64 8 ≠ 0 := by
  unfold Issues; and_intros <;> decide

/-- A fence on its way, which acquires or releases: SPAWNOP waits for the one, a release and what follows a release for the other. -/
def fencing (acq rel : Bool) (s : State) : State :=
  { s with accs := [s.access (.fence acq rel) [] 0 0 0 false false], seqN := 1 }

theorem witness_StoreResults :
    Issues memState [sreg 1#6, sreg 2#6] [] 0 ∧ Issues memState [sreg 3#6, sreg 2#6] [] 0 ∧ Issues memState [sreg 4#6, sreg 2#6] [] 0
      ∧ Issues (banked memState) [sreg 1#6, sreg 2#6] [] 0 ∧ Issues memState [sreg 6#6, sreg 2#6] [] 0
      ∧ (Instr.st (sm 0 3 0 0 1)).wf = true ∧ (Instr.st (sm 0 3 0 2 1)).wf = true ∧ (Instr.st (sm 0 3 1 0 1)).wf = true
      ∧ (Instr.st (sm 1 2 0 0 1)).wf = true ∧ (Instr.st (sm 4 3 0 0 6)).wf = true ∧ (Instr.st (sm 0 3 0 3 1)).wf = true
      ∧ memState.allPerformed 0 0 memState.seqN = true ∧ (fencing false true memState).allPerformed 0 0 1 = false
      ∧ memState.accs = [] ∧ ((fencing false true memState).accs.any fun e => e.pendingRelease) = true
      ∧ Issues (fencing false true memState) [sreg 1#6, sreg 2#6] [] 0
      ∧ memState.me.place 0 0 64 8 false true = some (.scratch 0, 64) ∧ memState.me.place 0 1 64 4 false true = some (.acc 0, 64)
      ∧ memState.me.place 0 0 2097152 8 false true = none ∧ memState.me.place 0 4 0x10000 8 false true = some (.dev, 0x400000)
      ∧ memState.myCore.heldBanks &&& banksOfRun 64 8 = 0 ∧ (banked memState).myCore.heldBanks &&& banksOfRun 64 8 ≠ 0 := by
  unfold Issues; and_intros <;> decide

theorem witness_AtomicsAndFullEmptyBits :
    Issues memState [sreg 1#6, sreg 2#6] [sreg 2#6] 1 ∧ Issues memState [sreg 1#6, sreg 2#6, (0, 3)] [sreg 2#6] 1
      ∧ Issues memState [sreg 6#6, sreg 2#6] [sreg 2#6] 1 ∧ Issues memState [sreg 1#6, sreg 0#6] [] 0 ∧ Issues memState [sreg 3#6, sreg 0#6] [] 0
      ∧ memState.me.place 0 0 64 8 true true = some (.scratch 0, 64) ∧ memState.me.place 0 4 0x10000 8 true true = some (.dev, 0x400000)
      ∧ memState.myCore.heldBanks &&& banksOfRun 64 8 = 0 ∧ memState.me.inWindow 64 (16 * 80) = true
      ∧ (memState.rs 5#6).toNat % 16 = 0 ∧ Issues memState [sreg 1#6, sreg 5#6] [] 0 ∧ Issues memState [sreg 1#6, sreg 2#6] [] 0
      ∧ ¬((memState.rs 2#6).toNat = 0 ∨ memState.me.inWindow 64 (16 * (memState.rs 2#6).toNat) = true)
      ∧ Issues memState [sreg 1#6] [sreg 2#6] 1 ∧ memState.me.inWindow 64 16 = true := by
  unfold Issues; and_intros <;> decide

/-- A pool address, a window, a length, and what the checks turn away. -/
def poolState : State := on (mapped (regs [(1, 64), (2, 128), (3, 32), (4, 66), (5, 0x10000000), (6, 0x10008), (7, 0x8000000000000000)]))

theorem witness_PoolInstructionsAndExtentQuery :
    Issues poolState [sreg 1#6, sreg 3#6, sreg 2#6] [sreg 8#6] 0 ∧ Issues poolState [sreg 4#6, sreg 3#6, sreg 2#6] [sreg 8#6] 0
      ∧ Issues poolState [sreg 1#6, sreg 3#6, sreg 4#6] [sreg 8#6] 0 ∧ Issues poolState [sreg 5#6, sreg 3#6, sreg 2#6] [sreg 8#6] 0
      ∧ Issues poolState [sreg 1#6, sreg 3#6] [sreg 8#6] 0
      ∧ ((poolState.rs 1#6).toNat % 4 = 0 ∧ (poolState.rs 3#6).toNat % 4 = 0) ∧ (poolState.rs 2#6).toNat % 4 = 0
      ∧ ((poolState.rs 1#6).toNat < 2 ^ 28 ∧ (poolState.rs 1#6).toNat % 2 ^ 26 + (poolState.rs 3#6).toNat ≤ 2 ^ 26)
      ∧ poolState.me.inWindow 128 32 = true ∧ (poolState.rs 4#6).toNat % 4 ≠ 0 ∧ ¬(poolState.rs 5#6).toNat < 2 ^ 28
      ∧ Issues poolState [sreg 6#6, sreg 3#6] [sreg 8#6] 1 ∧ canonical (poolState.rs 7#6).toNat = false ∧ canonical 0x10008 = true
      ∧ poolState.me.extentHit 0x10008 32 = some (3, ⟨0x10000, 0x10000, 0x400000, true, true⟩) ∧ poolState.me.extentHit 64 32 = none := by
  unfold Issues; and_intros <;> decide

/-! ### Witnesses: vector operations -/

/-- Lane results for every number format, in v1 and v2, some lanes inactive in m1. -/
def vecState : State :=
  on { regs [(1, 64), (2, 256), (3, 65), (4, 2097152), (5, 0x10000)] with
    vregs := (Ctx.reset.vregs.setIfInBounds 1 (Vector.ofFn fun i => BitVec.ofNat 32 (0x3F800000 + 0x10000 * i.val))).setIfInBounds 2
      (Vector.ofFn fun i => BitVec.ofNat 32 (1023 - i.val))
    masks := Ctx.reset.masks.setIfInBounds 1 0x0F }

/-- VR fields: destination, sources, type, mask, rounding and AUX. -/
def vr (vd va vb vc : BitVec 5) (type : BitVec 3) (mask : BitVec 3) (aux : BitVec 6) : VR :=
  ⟨vd, va, vb, vc, type, 0, 0, 0, 0, 0, 0, 0, 0, 0, 0, mask, 0, aux⟩

/-- A slot that still runs an operation of interval above 1. -/
def busySlot (s : State) : State := core0 { Core.reset with busy := Core.reset.busy.setIfInBounds 0 16 } s

/-- The same operation as a later repeat. -/
def repeated (s : State) : State := { s with cur := { s.cur with isRepeat := true } }

theorem witness_VectorArithmeticResults :
    Issues vecState [mreg 1#3, vreg 1#5, vreg 2#5] [vreg 3#5] 1 ∧ Issues vecState [mreg 1#3, vreg 1#5, vreg 2#5, vreg 4#5] [vreg 3#5] 1
      ∧ Issues vecState [mreg 1#3, mreg 2#3, vreg 1#5, vreg 2#5] [vreg 3#5] 1 ∧ vecState.myCore.busy.getD vecState.cur.slot 0 = 0
      ∧ (vr 3 1 2 4 2 1 0).isFloat = false ∧ (vr 3 1 2 4 0 1 0).isFloat = true
      ∧ Issues (busySlot vecState) [mreg 1#3, vreg 1#5, vreg 2#5] [vreg 3#5] 1
      ∧ (busySlot vecState).myCore.busy.getD (busySlot vecState).cur.slot 0 ≠ 0 ∧ (busySlot vecState).cur.exposed = false
      ∧ Issues (exposed (busySlot vecState)) [mreg 1#3, vreg 1#5, vreg 2#5] [vreg 3#5] 1
      ∧ (exposed (busySlot vecState)).cur.exposed = true ∧ (exposed (busySlot vecState)).cur.isRepeat = false
      ∧ (exposed (busySlot vecState)).myCore.busy.getD (exposed (busySlot vecState)).cur.slot 0 ≠ 0
      ∧ (repeated (exposed (busySlot vecState))).cur.isRepeat = true := by
  unfold Issues; and_intros <;> decide

theorem witness_VectorMasksAndMoves :
    Issues vecState [mreg 1#3, vreg 1#5, vreg 2#5] [(2, 3)] 1 ∧ Issues vecState [mreg 1#3, vreg 1#5, vreg 2#5] [] 1
      ∧ vecState.me.cqLoad 3 + vecState.countEarlier (fun i => decide (pushOf i = some 3)) - vecState.popsNow 3 < 16
      ∧ Issues vecState [mreg 1#3, mreg 2#3] [(2, 3)] 1 ∧ Issues vecState [mreg 1#3] [(2, 3)] 1 ∧ Issues vecState [mreg 1#3] [sreg 7#6] 1
      ∧ Issues vecState [mreg 1#3, vreg 1#5] [vreg 3#5] 1 ∧ Issues vecState [mreg 1#3, vreg 1#5, vreg 2#5] [vreg 3#5] 1
      ∧ Issues vecState [mreg 1#3] [vreg 3#5] 1 ∧ Issues vecState [mreg 1#3, sreg 7#6] [vreg 3#5] 1
      ∧ Issues vecState [vreg 1#5] [sreg 7#6] 1 := by
  unfold Issues; and_intros <;> decide

/-- A load of special-function table 5 on its way. -/
def tableState : State := on { regs [] with tableLoads := [⟨5, Ctx.reset.tables.getD 0 (Vector.replicate 260 0), 3⟩] }

theorem witness_VectorConversionResults :
    Issues vecState [mreg 1#3, vreg 1#5] [vreg 3#5] 1 ∧ vecState.myCore.busy.getD vecState.cur.slot 0 = 0
      ∧ (∀ l ∈ vecState.me.tableLoads, l.tab ≠ 5) ∧ Issues tableState [mreg 1#3, vreg 1#5] [vreg 3#5] 1
      ∧ tableState.myCore.busy.getD tableState.cur.slot 0 = 0 ∧ (∃ l ∈ tableState.me.tableLoads, l.tab = 5)
      ∧ Issues vecState [mreg 1#3, vreg 1#5, vreg 2#5] [vreg 3#5] 1 ∧ Issues vecState [vreg 1#5] [] 0 := by
  unfold Issues; and_intros <;> decide

theorem witness_VectorConversionResults_reductions :
    Issues vecState [mreg 1#3, vreg 1#5] [vreg 3#5] 1 ∧ 2 ≤ (vr 3 1 0 0 2 1 0).type.toNat ∧ (vr 3 1 0 0 1 1 0).type.toNat ≤ 1 := by
  unfold Issues; and_intros <;> decide


/-! ### Witnesses: vector memory operations -/

/-- VM fields: register, base, space, memory type, pattern, FE and layout. -/
def vm (vd : BitVec 5) (base : BitVec 6) (space mtype pat : BitVec 3) (fe layout : BitVec 2) : VM := ⟨vd, base, 0, space, mtype, pat, fe, 0, layout, 0⟩

/-- A legal pattern image, of six fields of five bits in four bytes, as p2, and at 256; p3 is empty. 16 granules are full from 64 on, the last of them by
an arrival. Rows from s9 at the pitch of s10 lie in two pools; the rows from s12 are the last ones of the accumulator. -/
def vmState : State :=
  placed (.fe 0) 4 (List.replicate 15 1 ++ [2]) (placed (.scratch 0) 256 [4, 5, 5, 6, 0, 1] (on { mapped (regs
    [(1, 64), (2, 256), (3, 65), (4, 2097152), (5, 0x10000), (6, 64), (7, 64), (8, 3145728), (9, 0x2000000), (10, 0x400000), (12, 3137536),
      (13, 3138048)]) with
      pats := Ctx.reset.pats.setIfInBounds 2 0x010006050504
      vregs := Ctx.reset.vregs.setIfInBounds 1 (Vector.ofFn fun i => BitVec.ofNat 32 (0x3F800000 + 0x10000 * i.val)) }))

/-- The runs of VLD and VST for the fields, the base address and the pitch of vmState's registers. -/
def vmRuns (f : VM) : List (Nat × Nat) :=
  f.runs (vmState.me.s f.base.toNat) (if f.layout = 1 then vmState.me.s (f.base.toNat + 1) else 0) (if f.pat = 0 then 0 else vmState.me.p f.pat.toNat)

/-- Whether those runs lie on multiples of 16, and whether each reaches its space. -/
def lined (f : VM) : Bool := (vmRuns f).all fun r => decide (r.1 % 16 = 0)

/-- Whether a run reaches its space, to read or to write. -/
def reaches (f : VM) (rd : Bool) (r : Nat × Nat) : Bool := (vmState.me.place 0 f.space.toNat r.1 r.2 rd !rd).isSome

/-- Whether the runs lie in one pool. -/
def together (f : VM) : Bool := (vmRuns f).all fun p => (vmRuns f).all fun q => decide (p.1 / 2 ^ 26 = q.1 / 2 ^ 26)

/-- The granules that the runs touch. -/
def granules (f : VM) : List Nat := (vmRuns f).flatMap fun r => List.range' (r.1 / 16) ((r.1 + r.2 - 1) / 16 + 1 - r.1 / 16)

theorem witness_VectorLoadResults :
    let sized := vm 9 1 0 2 2 0 0
    let whole := vm 9 1 0 6 0 2 0
    let rows := vm 9 9 3 2 0 0 1
    Issues vmState [sreg 1#6, preg 3#3] [vreg 9#5] 1 ∧ patternIllegal (vm 9 1 0 2 3 0 0) vmState.me = true
      ∧ Issues vmState [sreg 6#6, (0, 7), preg 2#3] [vreg 9#5] 1 ∧ patternIllegal (vm 9 6 0 2 2 0 1) vmState.me = true
      ∧ patternIllegal sized vmState.me = false ∧ lined sized = true ∧ (∀ r ∈ vmRuns sized, reaches sized true r = true)
      ∧ Issues vmState [sreg 3#6] [vreg 9#5] 1 ∧ patternIllegal (vm 9 3 0 6 0 0 0) vmState.me = false
      ∧ (∃ r ∈ vmRuns (vm 9 3 0 6 0 0 0), r.1 % 16 ≠ 0 ∧ ∀ q ∈ vmRuns (vm 9 3 0 6 0 0 0), q.1 % 16 ≠ 0 → r.1 ≤ q.1)
      ∧ Issues vmState [sreg 4#6] [vreg 9#5] 1 ∧ lined (vm 9 4 0 6 0 0 0) = true
      ∧ (∃ r ∈ vmRuns (vm 9 4 0 6 0 0 0), reaches (vm 9 4 0 6 0 0 0) true r = false ∧ ∀ q ∈ vmRuns (vm 9 4 0 6 0 0 0), r.1 ≤ q.1)
      ∧ Issues vmState [sreg 9#6, (0, 10)] [vreg 9#5] 1 ∧ lined rows = true ∧ (∀ r ∈ vmRuns rows, reaches rows true r = true) ∧ together rows = false
      ∧ (∃ r ∈ vmRuns rows, ∀ q ∈ vmRuns rows, r.1 ≤ q.1)
      ∧ Issues vmState [sreg 1#6] [vreg 9#5] 1 ∧ vmState.myCore.heldBanks &&& banksOfRuns (vmRuns whole) = 0
      ∧ lined whole = true ∧ (∀ r ∈ vmRuns whole, reaches whole true r = true)
      ∧ (∀ g ∈ granules whole, vmState.memStart.get (cellKey (.fe 0) g) ≠ 0) ∧ 19 ∈ granules whole
      ∧ vmState.memStart.get (cellKey (.fe 0) 19) = 2 ∧ Issues vmState [sreg 2#6] [vreg 9#5] 1
      ∧ (∃ g ∈ granules (vm 9 2 0 6 0 1 0), vmState.memStart.get (cellKey (.fe 0) g) = 0)
      ∧ Issues vmState [sreg 5#6] [vreg 9#5] 1 ∧ (∀ r ∈ vmRuns (vm 9 5 4 0 0 0 0), reaches (vm 9 5 4 0 0 0 0) true r = true)
      ∧ lined (vm 9 5 4 0 0 0 0) = true := by
  unfold Issues; and_intros <;> decide

theorem witness_VectorStoreResults :
    let near := vm 1 1 0 2 0 0 0
    let rows := vm 1 6 0 2 0 1 1
    let two := vm 1 9 3 2 0 0 1
    Issues vmState [vreg 1#5, sreg 3#6] [] 0
      ∧ (∃ r ∈ vmRuns (vm 1 3 0 2 0 0 0), r.1 % 16 ≠ 0 ∧ ∀ q ∈ vmRuns (vm 1 3 0 2 0 0 0), q.1 % 16 ≠ 0 → r.1 ≤ q.1)
      ∧ Issues vmState [vreg 1#5, sreg 4#6] [] 0 ∧ lined (vm 1 4 0 2 0 0 0) = true
      ∧ (∃ r ∈ vmRuns (vm 1 4 0 2 0 0 0), reaches (vm 1 4 0 2 0 0 0) false r = false ∧ ∀ q ∈ vmRuns (vm 1 4 0 2 0 0 0), r.1 ≤ q.1)
      ∧ Issues vmState [vreg 1#5, sreg 9#6, (0, 10)] [] 0 ∧ lined two = true ∧ (∀ r ∈ vmRuns two, reaches two false r = true)
      ∧ together two = false ∧ (∃ r ∈ vmRuns two, ∀ q ∈ vmRuns two, r.1 ≤ q.1)
      ∧ Issues vmState [vreg 1#5, sreg 1#6] [] 0 ∧ lined near = true ∧ (∀ r ∈ vmRuns near, reaches near false r = true)
      ∧ vmState.myCore.heldBanks &&& banksOfRuns (vmRuns near) = 0 ∧ (banked vmState).myCore.heldBanks &&& banksOfRuns (vmRuns near) ≠ 0
      ∧ Issues (banked vmState) [vreg 1#5, sreg 1#6] [] 0
      ∧ Issues vmState [vreg 1#5, sreg 6#6, (0, 7)] [] 0 ∧ lined rows = true ∧ (∀ r ∈ vmRuns rows, reaches rows false r = true)
      ∧ Issues vmState [vreg 1#5, sreg 5#6] [] 0 ∧ lined (vm 1 5 4 2 0 0 0) = true
      ∧ ∀ r ∈ vmRuns (vm 1 5 4 2 0 0 0), reaches (vm 1 5 4 2 0 0 0) false r = true := by
  unfold Issues; and_intros <;> decide

/-- Where every index is 0, each element's address is the base address. -/
theorem elemAddr_zero (f : VM) (ea : W64) (e : Nat) (h : e < 1024) : f.elemAddr ea (vmState.me.v 11) e = ea := by
  have : (vmState.me.v 11).getD e 0 = 0 := by
    show (Vector.replicate 1024 (0 : W32)).getD e 0 = 0
    simp [Vector.getD, h]
  rw [VM.elemAddr, this]
  simp

theorem witness_GatherAndScatter :
    Issues vmState [sreg 1#6, (1, 11)] [vreg 10#5] 1 ∧ Issues vmState [sreg 1#6, vreg 10#5, (1, 11)] [] 0
      ∧ vmState.myCore.heldBanks = 0 ∧ vmState.myCore.busy.getD vmState.cur.slot 0 = 0 ∧ Issues vmState [sreg 5#6, (1, 11)] [vreg 10#5] 1
      ∧ Issues vmState [sreg 3#6, (1, 11)] [vreg 10#5] 1 ∧ Issues vmState [sreg 3#6, vreg 10#5, (1, 11)] [] 0
      ∧ Issues vmState [sreg 4#6, (1, 11)] [vreg 10#5] 1 ∧ Issues vmState [sreg 4#6, vreg 10#5, (1, 11)] [] 0 := by
  unfold Issues; and_intros <;> decide

/-- Aligned and in reach at s1 and s5; off a multiple of 4 at s3; past the window at s4, each from lane 0 on. -/
theorem witness_GatherAndScatter_addresses :
    let at' (base : BitVec 6) (e : Nat) : W64 := (vm 10 base 0 2 0 0 0).elemAddr (vmState.me.s base.toNat) (vmState.me.v 11) e
    (∀ e < 1024, (at' 1 e).toNat % 4 = 0 ∧ ∀ rd wr, (vmState.me.place 0 0 (at' 1 e).toNat 4 rd wr).isSome = true)
      ∧ (∀ e < 1024, (at' 5 e).toNat % 4 = 0 ∧ ∀ rd wr, (vmState.me.place 0 4 (at' 5 e).toNat 4 rd wr).isSome = true)
      ∧ (at' 3 0).toNat % 4 ≠ 0
      ∧ (∀ e < 1024, (at' 4 e).toNat % 4 = 0) ∧ ∀ rd wr, (vmState.me.place 0 0 (at' 4 0).toNat 4 rd wr).isSome = false := by
  refine ⟨fun e h => ?_, fun e h => ?_, ?_, fun e h => ?_, ?_⟩
  all_goals first | simp only [elemAddr_zero _ _ e h] | simp only [elemAddr_zero _ _ 0 (show 0 < 1024 by decide)]
  all_goals decide

theorem witness_AccumulatorRemoteAndPatternAccess :
    let fits (f : VM) (i : Nat) : Prop := (vmState.me.s f.base.toNat).toNat % 512 / 4 ≤ (if f.layout = 0 then 64 else 112)
      ∧ vmState.me.accbase.toNat ≤ ((vmState.me.s f.base.toNat).toNat / 512 + i) * 512
      ∧ ((vmState.me.s f.base.toNat).toNat / 512 + i + 1) * 512 ≤ vmState.me.acclim.toNat
    let far := (vm 1 0 2 2 0 0 0).runs (7 * 2097152) 0 0
    Issues vmState [sreg 1#6] [vreg 9#5] 1 ∧ (64 : Nat) % 4 = 0 ∧ (∀ i < 16, fits (vm 9 1 0 0 0 0 0) i) ∧ (∀ i < 64, fits (vm 9 1 0 0 0 0 1) i)
      ∧ (∀ i < 16, fits (vm 9 12 0 0 0 0 0) i) ∧ (∀ i < 15, fits (vm 9 13 0 0 0 0 0) i) ∧ ¬fits (vm 9 13 0 0 0 0 0) 15
      ∧ Issues vmState [sreg 13#6] [vreg 9#5] 1
      ∧ Issues vmState [sreg 1#6, vreg 1#5] [] 0 ∧ Issues vmState [vreg 1#5, sreg 5#6] [] 0
      ∧ (∀ r ∈ far, r.1 % 16 = 0) ∧ (∀ r ∈ far, (vmState.me.place 0 2 r.1 r.2 false true).isSome = true)
      ∧ Issues vmState [sreg 2#6] [(4, 5)] 1 ∧ vmState.me.inWindow 256 16 = true
      ∧ patLegal (BitVec.ofNat 128 (ofBytes (vmState.imageAtIssue 256 16))) = true
      ∧ vmState.myCore.heldBanks &&& banksOfRun 256 16 = 0
      ∧ Issues vmState [sreg 1#6] [(4, 5)] 1 ∧ patLegal (BitVec.ofNat 128 (ofBytes (vmState.imageAtIssue 64 16))) = false := by
  unfold Issues; and_intros <;> decide
/-! ### Witnesses: matrix and copy commands -/

/-- Registers for every matrix and copy command, and a nest whose first level counts two gathered runs. -/
def mxState : State :=
  on { mapped (regs [(1, 64), (2, 256), (3, 65), (4, 6145), (5, 0x10000), (6, 0x0000000300000000), (7, 0x0000008000400400), (8, 1),
      (9, 0x0010000100000000), (10, 0x0400000000000000), (11, 0x03FFFFFFFFFFFFFF), (12, 1025), (13, 0x0000180100000000), (14, 6144),
      (15, 0x4000001), (17, 0x0100000000000000), (18, 256), (19, 0x0001000001000002),
      (21, 0x1FFF10), (22, 0x00FFFFFFFFFFFF10), (23, 0x3FFFF10), (24, 0x0300000000000000), (25, 0x01000000001FFF10)]) with
    shadow := { Shadow.reset with gather := true, levels := Shadow.reset.levels.setIfInBounds 0 ⟨0, 2, 0, 0, 0⟩, idx := [0, 16] } }

/-- The same context with one index too few. -/
def shortIdx : State := on { mxState.me with shadow := { mxState.me.shadow with idx := [0] } }

/-- MC fields: the three registers and AUX. -/
def mc (a b c : BitVec 6) (aux : BitVec 23) : MC := ⟨0, 0, 0, 0, 0, a, b, c, aux⟩

/-- The same state with an engine queue of 32 commands. -/
def fullEngine (q : Nat) (s : State) : State :=
  core0 { Core.reset with queues := Core.reset.queues.setIfInBounds q (List.replicate 32 (s.newCmd (.msbuild (.ofBits 0)) [] none 0 0 0 0 0 0 0)) } s

theorem witness_MatrixCommandsIssue_shadow :
    Issues mxState [sreg 1#6, sreg 11#6] [] 0 ∧ (mxState.rs 11#6).toNat < 2 ^ 58 ∧ Issues mxState [sreg 1#6, sreg 10#6] [] 0
      ∧ 2 ^ 58 ≤ (mxState.rs 10#6).toNat ∧ Issues mxState [sreg 1#6, sreg 12#6] [] 0 ∧ 1024 < (mxState.rs 12#6).toNat
      ∧ Issues mxState [sreg 3#6, sreg 2#6] [] 0 ∧ (mxState.rs 2#6).toNat ≤ 1024 ∧ (mxState.rs 3#6).toNat % 16 ≠ 0
      ∧ Issues mxState [sreg 1#6, sreg 2#6] [] 0 ∧ (mxState.rs 1#6).toNat % 16 = 0 ∧ mxState.me.inWindow 64 (4 * 256) = true
      ∧ mxState.myCore.heldBanks &&& banksOfRun 64 (4 * 256) = 0 ∧ Issues mxState [sreg 1#6, sreg 2#6, sreg 3#6] [] 0 := by
  unfold Issues; and_intros <;> decide

theorem witness_MatrixCommandsIssue :
    Issues mxState [] [] 0 ∧ mxState.myCore.queueFull 1 0 0 0 = false ∧ (fullEngine 1 mxState).myCore.queueFull 1 0 0 0 = true
      ∧ Issues (fullEngine 1 mxState) [] [] 0 ∧ (on (regs [])).me.shadow.isEmpty = false
      ∧ mxState.me.shadow.gather = true ∧ (mxState.me.shadow.level 0).count.toNat ≤ mxState.me.shadow.idx.length
      ∧ alignAll mxState.me.shadow.alignValues = none ∧ mxState.me.shadow.extents mxState.me = none
      ∧ Issues mxState [sreg 1#6, sreg 5#6] [] 0 ∧ (mxState.rs 5#6).toNat % 64 = 0 ∧ (mxState.me.place 0 4 0x10000 (tileBytes 0) true false).isSome = true
      ∧ (mxState.rs 14#6).toNat ≤ 6144 ∧ (mxState.rs 0#6).toNat % 512 = 0 ∧ mxState.me.inAcc 0 (512 * 6144) = true
      ∧ Issues mxState [sreg 0#6, sreg 14#6] [] 0 ∧ Issues mxState [sreg 1#6, sreg 1#6, sreg 8#6] [] 0
      ∧ (mxState.rs 1#6).toNat % 64 = 0 ∧ mxState.me.inWindow 64 (tileBytes 0) = true
      ∧ Issues mxState [sreg 0#6, sreg 1#6, sreg 6#6] [] 0 ∧ (mxState.rs 6#6).toNat / 2 ^ 32 % 2 ^ 13 = 3
      ∧ mxState.me.inAcc 0 (512 * 3) = true ∧ drainExtent (mc 0 1 6 0) mxState.me (mxState.rs 1#6) (mxState.rs 6#6) = none
      ∧ Issues mxState [sreg 1#6, sreg 2#6, sreg 7#6] [] 0 ∧ dimsOk (mxState.rs 7#6) = true ∧ (mxState.rs 2#6).toNat % 16 = 0
      ∧ mxState.me.inWindow 64 (128 * 1024) = true ∧ mxState.me.inWindow 256 (256 * 1024) = true
      ∧ Issues mxState [sreg 0#6, sreg 8#6, sreg 9#6] [] 0 ∧ (mxState.rs 8#6).setWidth 32 ≠ 0#32 ∧ 0 < (mxState.rs 9#6).toNat / 2 ^ 48
      ∧ (mxState.rs 9#6).toNat / 2 ^ 32 % 2 ^ 16 ≤ (mxState.rs 9#6).toNat / 2 ^ 48 ∧ badTau ((mxState.rs 9#6).setWidth 32) = false := by
  unfold Issues; and_intros <;> decide

theorem witness_MatrixCommandsIssue_refused :
    Issues shortIdx [] [] 0 ∧ shortIdx.me.shadow.isEmpty = false ∧ shortIdx.me.shadow.gather = true
      ∧ shortIdx.me.shadow.idx.length < (shortIdx.me.shadow.level 0).count.toNat
      ∧ Issues mxState [sreg 0#6, sreg 4#6] [] 0 ∧ 6144 < (mxState.rs 4#6).toNat ∧ Issues mxState [sreg 1#6, sreg 14#6] [] 0
      ∧ (mxState.rs 1#6).toNat % 512 ≠ 0 ∧ Issues mxState [sreg 1#6, sreg 3#6] [] 0 ∧ (mxState.rs 3#6).toNat % 64 ≠ 0
      ∧ Issues mxState [sreg 1#6, sreg 3#6, sreg 8#6] [] 0 ∧ dimsOk (mxState.rs 8#6) = false ∧ (mxState.rs 6#6).setWidth 32 = 0#32
      ∧ (mxState.rs 8#6).toNat / 2 ^ 48 = 0 ∧ Issues mxState [sreg 1#6, sreg 6#6, sreg 8#6] [] 0
      ∧ 6144 < (mxState.rs 13#6).toNat / 2 ^ 32 % 2 ^ 13 ∧ Issues mxState [sreg 1#6, sreg 1#6, sreg 13#6] [] 0
      ∧ Issues mxState [] [sreg 1#6, sreg 2#6] 0 := by
  unfold Issues; and_intros <;> decide

/-- CC fields: destination, source, length and flags. -/
def cc (dst src len flags : BitVec 6) : CC := ⟨0, 0, 0, 0, 0, dst, src, len, 3, 20, 0, 0, flags⟩

/-- A copy of token 256 in Q0, in a state of its own. -/
def copyState (c : CmdState) : State :=
  core0 { Core.reset with queues := Core.reset.queues.setIfInBounds 0 [{ mxState.newCmd (.cpin (cc 1 5 2 0)) [64, 0x10000, 256, 0] none 0 0 0 0 0 0 0 with
    tok := 256, state := c }] } mxState

/-- A span of the near side, of the far side in a pool or in device memory, and of peer i, as R254 to R258 check them in mxState. -/
def nearOk (a n : Nat) : Bool := decide (n = 0 ∨ (mxState.me.scrbase.toNat ≤ a ∧ a + n ≤ mxState.me.scrlim.toNat))
def canon (a : Nat) : Bool := decide (((BitVec.ofNat 57 a).signExtend 64).toNat = a)
def farOk (pool : Bool) (a n : Nat) : Bool := if pool then decide (a < 2 ^ 28 ∧ a % 2 ^ 26 + n ≤ 2 ^ 26) else canon a && canon (a + (n - 1))
def peerOk (v : W64) (bytes i : Nat) : Bool :=
  let e := (mxState.me.peers.getD i 0).toNat
  !v.getLsbD (56 + i) || (decide (2 ^ 63 ≤ e) && decide (bytes = 0 ∨ e / 2 ^ 8 % 2 ^ 21 + v.toNat % 2 ^ 21 + bytes ≤ e / 2 ^ 29 % 2 ^ 22))
def noPeers (v : W64) : Bool := decide (v.toNat / 2 ^ 56 = 0 ∨ v.toNat / 2 ^ 21 % 2 ^ 35 ≠ 0)

theorem witness_CopyInstructionsIssue :
    Issues mxState [sreg 1#6, sreg 5#6, sreg 2#6] [sreg 20#6] 1 ∧ (mxState.rs 2#6).toNat = 256 ∧ (64 : Nat) % 16 = 0 ∧ 0x10000 % 16 = 0
      ∧ nearOk 64 256 = true ∧ farOk false 0x10000 256 = true ∧ farOk true 0x10000 256 = true
      ∧ Issues mxState [sreg 5#6, sreg 1#6, sreg 2#6] [sreg 20#6] 1
      ∧ mxState.myCore.queueFull 0 0 0 0 = false ∧ mxState.myCore.queueFull 2 0 0 0 = false ∧ (fullEngine 2 mxState).myCore.queueFull 2 0 0 0 = true
      ∧ (fullEngine 0 mxState).myCore.queueFull 0 0 0 0 = true ∧ Issues (fullEngine 0 mxState) [sreg 1#6, sreg 5#6, sreg 2#6] [sreg 20#6] 1
      ∧ Issues (fullEngine 2 mxState) [sreg 5#6, sreg 1#6, sreg 2#6] [sreg 20#6] 1
      ∧ Issues mxState [sreg 17#6, sreg 5#6, sreg 2#6] [sreg 20#6] 1 ∧ noPeers (mxState.rs 17#6) = false
      ∧ (∀ i < 8, peerOk (mxState.rs 17#6) 256 i = true)
      ∧ Issues mxState [sreg 1#6, sreg 17#6, sreg 2#6] [sreg 20#6] 1 := by
  unfold Issues; and_intros <;> decide

theorem witness_CopyInstructionsIssue_rows :
    let geo := (mxState.me.s 19).toNat
    Issues mxState [sreg 1#6, sreg 5#6, sreg 18#6, (0, 19)] [sreg 20#6] 1 ∧ Issues mxState [sreg 5#6, sreg 1#6, sreg 18#6, (0, 19)] [sreg 20#6] 1
      ∧ (mxState.me.s 18).toNat = 256 ∧ geo % 2 ^ 16 = 2 ∧ geo / 2 ^ 16 % 2 ^ 24 % 16 = 0 ∧ geo / 2 ^ 40 % 16 = 0 ∧ 2 * 256 ≤ 2 ^ 26
      ∧ nearOk 64 (geo / 2 ^ 40 + 256) = true ∧ farOk false 0x10000 (geo / 2 ^ 16 % 2 ^ 24 + 256) = true := by
  unfold Issues; and_intros <;> decide

/-- A length above 64 MiB, no peers, a misaligned address, and spans that leave the window, the addresses, a pool and a peer by 16 bytes. -/
theorem witness_CopyInstructionsIssue_refused :
    Issues mxState [sreg 1#6, sreg 5#6, sreg 15#6] [sreg 20#6] 1 ∧ 2 ^ 26 < (mxState.rs 15#6).toNat % 2 ^ 32
      ∧ noPeers (mxState.rs 1#6) = true ∧ Issues mxState [sreg 1#6, sreg 5#6, sreg 2#6] [sreg 20#6] 1
      ∧ Issues mxState [sreg 3#6, sreg 5#6, sreg 2#6] [sreg 20#6] 1 ∧ (mxState.rs 3#6).toNat % 16 ≠ 0
      ∧ Issues mxState [sreg 21#6, sreg 5#6, sreg 2#6] [sreg 20#6] 1 ∧ nearOk (mxState.rs 21#6).toNat 256 = false ∧ nearOk (mxState.rs 21#6).toNat 240 = true
      ∧ Issues mxState [sreg 1#6, sreg 22#6, sreg 2#6] [sreg 20#6] 1 ∧ farOk false (mxState.rs 22#6).toNat 256 = false
      ∧ farOk false (mxState.rs 22#6).toNat 240 = true
      ∧ Issues mxState [sreg 1#6, sreg 23#6, sreg 2#6] [sreg 20#6] 1 ∧ farOk true (mxState.rs 23#6).toNat 256 = false ∧ farOk true (mxState.rs 23#6).toNat 240 = true
      ∧ Issues mxState [sreg 24#6, sreg 5#6, sreg 2#6] [sreg 20#6] 1 ∧ peerOk (mxState.rs 24#6) 256 0 = true ∧ peerOk (mxState.rs 24#6) 256 1 = false
      ∧ Issues mxState [sreg 25#6, sreg 5#6, sreg 2#6] [sreg 20#6] 1 ∧ peerOk (mxState.rs 25#6) 256 0 = false ∧ peerOk (mxState.rs 25#6) 240 0 = true
      ∧ noPeers (mxState.rs 25#6) = false ∧ (mxState.rs 21#6).toNat % 16 = 0 ∧ (mxState.rs 22#6).toNat % 16 = 0 ∧ (mxState.rs 23#6).toNat % 16 = 0 := by
  unfold Issues; and_intros <;> decide

theorem witness_CopyInstructionsIssue_cancel :
    Issues (copyState .waiting) [sreg 2#6] [] 0 ∧ Issues (copyState .stopped) [sreg 2#6] [] 0 ∧ Issues (copyState .running) [sreg 2#6] [] 0
      ∧ Issues (copyState .parked) [sreg 2#6] [] 0 ∧ Issues (copyState .finishing) [sreg 2#6] [] 0
      ∧ (mxState.myCore.cmds.any fun c => decide (c.x = 0 ∧ c.tok = 256) && c.isCopy) = false
      ∧ (∀ st ∈ [CmdState.waiting, .stopped, .running, .parked, .finishing],
        ((copyState st).myCore.cmds.find? fun c => decide (c.x = 0 ∧ c.tok = ((copyState st).rs 2#6).setWidth 16) && c.isCopy).map Cmd.state = some st)
      ∧ ∀ d ∈ (copyState .parked).myCore.cmds, d.state = .parked := by
  unfold Issues; and_intros <;> decide
/-! ### Witnesses: task and mailbox instructions -/

/-- A launch configuration: address-space root, rings, a save region on die 0, one half of core 0's stores for each context. -/
def config0 : Launch where
  asroot := 0x1000
  fqbase := 0x8000
  frbase := 0x20000
  frcap := 4
  dies := [⟨0, 0, 0, 0, 0, 0x1000000, 0x1000000⟩]
  peers := []
  windows := [(0, 0x100000, 0, 0x180000), (0x100000, 0x200000, 0x180000, 0x300000)]

/-- The same state after CONFIG. -/
def launched (s : State) : State := { s with launch := some config0 }

/-- A record of zeros at 0; its code no multiple of 8 at 128; an act message with the longest payload at 256, too long at 512, no act at 768. -/
def taskState : State :=
  placed (.scratch 0) 128 [1] (placed (.scratch 0) 256 [0, 0, 0, 2, 0, 0, 0, 0, 0, 0, 0, 0, 224] (placed (.scratch 0) 512 [0, 0, 0, 2, 0, 0, 0, 0, 0, 0, 0, 0, 225]
    (on (mapped (regs [(1, 64), (2, 128), (3, 65), (4, 2097152), (5, 0x10000), (6, 256), (7, 512), (8, 0x10000000), (9, 16383),
      (10, 0x4000), (11, 0xFFFFFF), (12, 0x100000000), (13, 0x10000), (14, 768), (15, 0x13FFF), (16, 0x23FFF)])))))

/-- TS fields. -/
def ts (a b d : BitVec 6) (imm : BitVec 30) : TS := ⟨a, b, d, imm⟩

/-- The same state with core 0's ready queue full. -/
def fullReady (s : State) : State :=
  core0 { Core.reset with ready := List.replicate 64 (unitOfRecord []) } s

theorem witness_SpawnSendsARecord :
    Issues taskState [sreg 1#6] [] 0 ∧ (taskState.rs 1#6).toNat % 64 = 0 ∧ taskState.me.inWindow 64 64 = true
      ∧ recordOk (taskState.imageAtIssue 64 64) = true ∧ taskState.myCore.heldBanks &&& banksOfRun 64 64 = 0
      ∧ taskState.pushRoom 0 = true ∧ taskState.allPerformed 0 0 taskState.seqN = true
      ∧ (fencing true false taskState).allPerformed 0 0 1 = false ∧ Issues (fencing true false taskState) [sreg 1#6] [] 0
      ∧ (taskState.rs 6#6).toNat % 256 = 0 ∧ (taskState.rs 9#6).toNat % 256 ≠ 0 ∧ taskState.pushRoom 255 = true ∧ Issues (fullReady taskState) [sreg 1#6] [] 0
      ∧ (fullReady taskState).pushRoom 0 = false ∧ recordOk ((fullReady taskState).imageAtIssue 64 64) = true
      ∧ (taskState.rs 3#6).toNat % 64 ≠ 0 ∧ Issues taskState [sreg 3#6] [] 0 ∧ taskState.me.inWindow 2097152 64 = false
      ∧ Issues taskState [sreg 4#6] [] 0 ∧ recordOk (taskState.imageAtIssue 128 64) = false ∧ Issues taskState [sreg 2#6] [] 0
      ∧ Issues taskState [sreg 1#6, sreg 6#6] [] 0 ∧ Issues taskState [sreg 1#6, sreg 9#6] [] 0 ∧ dieOf taskState.cur.core < 4 := by
  unfold Issues; and_intros <;> decide

/-- The same state, its contexts' copies of memory brought up to date. -/
def seen (s : State) : State := { s with ctxs := s.ctxs.map fun p => (p.1, { p.2 with snap := s.mem }) }

/-- A block whose code address is no multiple of 8. -/
def badBlock : State := seen (placed .dev 0x400060 [1] taskState)

/-- A unit that is a step of a block. -/
def stepUnit : WorkUnit := { unitOfRecord [] with isStep := true }

theorem witness_UnitsEndAndBlocksAreRead :
    Issues taskState [] [] 0 ∧ taskState.me.strands.length = 1 ∧ ¬(on (forked Ctx.reset)).me.strands.length = 1
      ∧ Issues (on (forked Ctx.reset)) [] [] 0 ∧ taskState.saveRoom 0 0 = false ∧ Issues taskState [sreg 1#6] [] 0
      ∧ Issues (on { regs [(1, 64)] with unit := some stepUnit }) [sreg 1#6] [] 0
      ∧ ((on { regs [(1, 64)] with unit := some stepUnit }).me.unit.map WorkUnit.isStep).getD false = true
      ∧ (taskState.me.unit.map WorkUnit.isStep).getD false = false ∧ recordOk (taskState.imageAtIssue 64 64) = true
      ∧ Issues taskState [sreg 3#6] [] 0 ∧ (taskState.rs 3#6).toNat % 64 ≠ 0
      ∧ taskState.me.place 0 4 64 256 true false = none ∧ Issues taskState [sreg 5#6] [] 0
      ∧ taskState.me.place 0 4 0x10000 256 true false = some (.dev, 0x400000)
      ∧ blockWaits taskState (blockLoad taskState (.dev, 0x400000)) = false
      ∧ blockOk (blockBytes taskState (blockLoad taskState (.dev, 0x400000)) (.dev, 0x400000)) = true
      ∧ blockOk (blockBytes badBlock (blockLoad badBlock (.dev, 0x400000)) (.dev, 0x400000)) = false ∧ Issues badBlock [sreg 5#6] [] 0
      ∧ blockWaits badBlock (blockLoad badBlock (.dev, 0x400000)) = false ∧ badBlock.me.place 0 4 0x10000 256 true false = some (.dev, 0x400000) := by
  unfold Issues; and_intros <;> decide

theorem witness_UnitsEndAndBlocksAreRead_room : (launched taskState).saveRoom 0 0 = true ∧ (launched taskState).me.strands.length = 1 := by
  and_intros <;> decide +kernel

theorem witness_UnitsEndAndBlocksAreRead_waits :
    Issues (fencing true false taskState) [sreg 5#6] [] 0
      ∧ blockWaits (fencing true false taskState) (blockLoad (fencing true false taskState) (.dev, 0x400000)) = true
      ∧ (fencing true false taskState).me.place 0 4 0x10000 256 true false = some (.dev, 0x400000) := by
  unfold Issues; and_intros <;> decide

theorem witness_JoinWordsAndMailboxesIssue :
    Issues taskState [sreg 0#6] [sreg 20#6] 0 ∧ Issues taskState [sreg 1#6] [sreg 20#6] 0 ∧ (1#6) ≠ 0
      ∧ ((taskState.rs 1#6).toNat % 8 = 0 ∧ (taskState.rs 1#6).toNat < 2 ^ 28) ∧ Issues taskState [sreg 3#6] [sreg 20#6] 0
      ∧ (taskState.rs 3#6).toNat % 8 ≠ 0 ∧ Issues taskState [sreg 8#6] [sreg 20#6] 0 ∧ (taskState.rs 8#6).toNat % 8 = 0
      ∧ 2 ^ 28 ≤ (taskState.rs 8#6).toNat ∧ Issues taskState [sreg 1#6, sreg 1#6] [sreg 20#6] 0
      ∧ taskState.me.inWindow 64 64 = true ∧ recordOk (taskState.imageAtIssue 64 64) = true
      ∧ taskState.myCore.heldBanks &&& banksOfRun 64 64 = 0 ∧ Issues taskState [sreg 3#6, sreg 1#6] [sreg 20#6] 0 := by
  unfold Issues; and_intros <;> decide

theorem witness_JoinWordsAndMailboxesIssue_mailboxes :
    Issues taskState [sreg 6#6, sreg 9#6] [sreg 20#6] 0 ∧ (taskState.rs 6#6).toNat % 256 = 0 ∧ Issues taskState [sreg 3#6, sreg 9#6] [sreg 20#6] 0
      ∧ (taskState.rs 3#6).toNat % 256 ≠ 0 ∧ Issues taskState [sreg 4#6, sreg 9#6] [sreg 20#6] 0 ∧ taskState.me.inWindow 2097152 (256 * 64) = false
      ∧ taskState.me.inWindow 256 (256 * 64) = true ∧ Issues taskState [sreg 6#6, sreg 12#6] [sreg 20#6] 0 ∧ 2 ^ 32 ≤ (taskState.rs 12#6).toNat
      ∧ (taskState.rs 9#6).toNat < 2 ^ 32 ∧ ¬1 ≤ (taskState.rs 9#6).toNat / 2 ^ 16 % 2 ^ 16
      ∧ Issues taskState [sreg 6#6, sreg 15#6] [sreg 20#6] 0 ∧ (taskState.rs 15#6).toNat % 2 ^ 14 + (taskState.rs 15#6).toNat / 2 ^ 16 % 2 ^ 16 = 16384
      ∧ (taskState.rs 16#6).toNat % 2 ^ 14 + (taskState.rs 16#6).toNat / 2 ^ 16 % 2 ^ 16 = 16385 ∧ Issues taskState [sreg 6#6, sreg 16#6] [sreg 20#6] 0
      ∧ 2 ^ 16 ≤ (taskState.rs 13#6).toNat ∧ Issues taskState [sreg 6#6, sreg 13#6] [sreg 20#6] 0
      ∧ (taskState.rs 9#6).toNat < 2 ^ 16 ∧ entryKind (taskState.imageAtIssue 768 256) ≠ 2 ∧ Issues taskState [sreg 14#6, sreg 9#6] [sreg 20#6] 0
      ∧ entryKind (taskState.imageAtIssue 512 256) = 2 ∧ 224 < entryField (taskState.imageAtIssue 512 256) 12 2
      ∧ Issues taskState [sreg 7#6, sreg 9#6] [sreg 20#6] 0 ∧ entryKind (taskState.imageAtIssue 256 256) = 2
      ∧ entryField (taskState.imageAtIssue 256 256) 12 2 = 224 ∧ Issues taskState [sreg 13#6] [sreg 20#6] 0
      ∧ Issues taskState [sreg 9#6] [sreg 20#6] 0 := by
  unfold Issues; and_intros <;> decide

/-! ### Witnesses: steps, faults, results, accesses and waits -/

theorem witness_EncodedOperationsDecode : (opBits (.add ⟨3, 1, 2, 0, 0, 0⟩)).isSome = true := by decide

/-- A unit whose faults are taken by a handler (R284). -/
def handledUnit : WorkUnit := { unitOfRecord [] with ctl := 0x800000000 }

/-- A context that runs at 0x1000, its handler at 0x2000. -/
def runCtx : Ctx :=
  { regs [(1, 40), (2, 2)] with
    state := .running
    unit := some handledUnit
    tvec := 0x2000
    strands := [Strand.lockstep 0 0x1000 (some false)] }

/-- Core 0 about to issue the bundle of one word at 0x1000. -/
def runState (w : W64) : State :=
  { placed .code 0x1000 (toBytes 8 w.toNat) (on runCtx) with codes := [(0x1000, 0x100)], agenda := [.issue 0 0] }

/-- ADD s3, s1, s2 alone in S1 (spec/05). -/
def addWord : W64 := 0x92000C1080000000

/-- What a step reads before it issues a bundle of core 0's primary context: no pending operation holds a slot, its region or the machine back. -/
def mayIssue (s : State) (o : Offer) : Bool :=
  let k := s.ctx 0 0
  decide (s.agenda = [.issue 0 0]) && State.controlTick { s with agenda := [] } 0 && k.running && decide (k.drain = .none) && !k.leaving
    && !(s.core 0).withheld && decide (sortStrands k.strands = [o.strand] ∧ o.strand.waits = [] ∧ o.strand.bubbles = 0)
    && (upTo 8).all (fun j => !k.runningSlot o.strand j) && !State.refuses { s with agenda := [] } 0 0 o

theorem witness_StepRunsTheDecodedOperation :
    let s := runState addWord
    let t := Strand.lockstep 0 0x1000 (some false)
    let o : Offer := { strand := t, ba := t.pc, nw := 1, x := false, ops := [(1, .add ⟨3, 1, 2, 0, 0, 0⟩, addWord)], rep := false, bad := none, disarm := none }
    mayIssue s o = true ∧ s.codeWord t.pc = some addWord ∧ bitAt addWord 63 = true ∧ bitAt addWord 59 = false
      ∧ slotBad t 1 (decodeOp addWord).op = false ∧ (decodeOp addWord).op.wf = true ∧ runCtx.armed t 1 = none ∧ t.kind = some (bitAt addWord 59)
      ∧ isUnassigned (decodeOp 0xE6F0000000000000).op = true ∧ (runState 0xE6F0000000000000).codeWord t.pc = some 0xE6F0000000000000
      ∧ bitAt (0xE6F0000000000000 : W64) 63 = true := by
  intro s t o; and_intros <;> decide +kernel

/-- A camp core that runs, with a word of the base ISA at its pc (R337). -/
def campState (k : Camp) : State :=
  { placed (.camp 0) 0 [0x93, 0x00, 0x50, 0x00] State.reset with camps := [(0, k)], agenda := [.camp 0], memready := true }

theorem witness_StepRunsTheDecodedOperation_turns :
    (campState { Camp.reset with running := true }).agenda = .camp 0 :: [] ∧ ((campState { Camp.reset with running := true }).camp 0).running = true
      ∧ ((campState { Camp.reset with running := true }).camp 0).waiting = false ∧ ((campState { Camp.reset with running := true }).camp 0).interrupted = false
      ∧ (match (campState { Camp.reset with running := true }).campFetch 0 with
        | .ok p => decide (p = (0x00500093, 4))
        | .error _ => false) = true ∧ State.reset.agenda = [] := by
  and_intros <;> decide

/-- The bundle at 0, whose end is level 2's end or not, with what its operations asked for. -/
def bundleEnd (acts : List SeqAct) (lc : W32) (ex : W64) : State :=
  let s := on { Ctx.reset with strands := [{ Strand.lockstep 0 0 (some false) with
    loops := (Vector.replicate 4 Loop.reset).setIfInBounds 2 ⟨true, 0, ex, lc, 0, false, 1⟩ }] }
  { s with cur := { s.cur with acts := acts } }

/-- The offer of that bundle. -/
def bundleOffer (s : State) (ops : List (Nat × Instr × W64)) : Offer :=
  { strand := s.myStrand, ba := 0, nw := 1, x := false, ops := ops, rep := false, bad := none, disarm := none }

/-- Whether a level of the strand is active and ends at an address. -/
def levelEnds (s : State) (ex : W64) (i : Nat) : Bool :=
  let q := s.myStrand.loops.getD i Loop.reset
  q.active && decide (q.ex = ex)

theorem witness_BundleEnds :
    let s := bundleEnd [] 2 8
    let away := bundleEnd [] 2 16
    s.me.strand? (bundleOffer s []).strand.id = some s.myStrand ∧ (bundleOffer s []).rep = false ∧ s.cur.fork = none ∧ s.cur.acts = [] ∧ s.cur.arms = []
      ∧ (let q := s.myStrand.loops.getD 2 Loop.reset
         levelEnds s 8 2 = true ∧ 1 < (if q.pend then q.pval else q.lc).toNat)
      ∧ (∀ j < 4, j ≠ 2 → levelEnds s 8 j = false) ∧ ((bundleEnd [] 1 8).myStrand.loops.getD 2 Loop.reset).lc.toNat ≤ 1
      ∧ (∀ j < 4, levelEnds away 8 j = false) ∧ (64 : W64) ≠ 128 ∧ (64 : W64) ≠ 8
      ∧ (∀ l ∈ [[SeqAct.jump 0 64], [.jump 0 64, .jump 1 128], [.call 0 64 5 8], [.loop 0 2 5 8 64], [.loopSkip 0 3 64], [.lcwr 0 0 7],
          [.lcwr 0 2 2], [.lcwr 0 2 7, .lcwr 1 2 8]], (bundleEnd l 2 8).cur.acts = l ∧ (bundleEnd l 2 16).cur.fork = none)
      ∧ 1 < (2 : W32).toNat ∧ ({ s with cur := { s.cur with arms := [(7, 3, 1)] } } : State).cur.arms = [(7, 3, 1)] ∧ (7 : Nat) < 8 := by
  and_intros <;> decide

/-- A repeat armed for S1, whose target is the bundle's operation. -/
theorem witness_BundleEnds_armed :
    let r : Repeat := ⟨0, 2, 0, 0, none⟩
    let k : Ctx := { runCtx with repeats := runCtx.repeats.setIfInBounds 1 (some r) }
    let o := bundleOffer (on k) [(1, .add ⟨3, 1, 2, 0, 0, 0⟩, addWord)]
    o.ops = [(1, .add ⟨3, 1, 2, 0, 0, 0⟩, addWord)] ∧ k.repeatOf 1 = some r ∧ r.strand = (on k).myStrand.id ∧ r.target = none ∧ (on k).cur.arms = [] := by
  and_intros <;> decide

/-- The bundle at 0 of the descriptor's FORK, and two strands at their JOIN. -/
theorem witness_BundleEnds_strands :
    let d := wordsOf (forkState.imageAtIssue 64 64)
    let gs := (upTo (forkGroups d)).map (forkGroup d forkState.myStrand)
    let s := { forkState with cur := { forkState.cur with fork := some gs } }
    let k : Ctx := { forked Ctx.reset with strands := (forked Ctx.reset).strands.map fun t => { t with waits := [.join 0xFF] } }
    s.me.strand? (bundleOffer s []).strand.id = some s.myStrand ∧ s.cur.fork = some gs ∧ gs.length = 2 ∧ s.cur.acts = []
      ∧ (∀ j < 4, (s.myStrand.loops.getD j Loop.reset).active = false)
      ∧ (∀ t ∈ k.strands, t.slots ≠ 0) ∧ k.strands.map (fun t => t.slots) = [0x0F, 0xF0] ∧ (0x0F : BitVec 8) &&& 0xF0 = 0
      ∧ (∀ t ∈ k.strands, t.slots &&& 0xFF ≠ 0 ∧ t.waits = [.join 0xFF]) ∧ (∃ t ∈ k.strands, ∀ u ∈ k.strands, t.low ≤ u.low) := by
  and_intros <;> decide

/-- The running context's bundle at its end, and a command whose guard no GSET has resolved. -/
theorem witness_BundleEnds_ends :
    let s := on runCtx
    let o := { bundleOffer s [(0, .trap ⟨0, 0, 0, 5⟩, 0)] with ba := 0x1000 }
    let t := Strand.lockstep 0 0x1000 (some false)
    let c := { s.cur with trap := some 5 }
    let g := core0 { Core.reset with queues := Core.reset.queues.setIfInBounds 1 [{ s.newCmd (.msbuild (.ofBits 0)) [] none 0 0 0 0 0 2 0 with guard := 2 }] } s
    (s.ctx c.core c.x).strands = [t] ∧ t.id = o.strand.id ∧ t.waits = [] ∧ o.rep = false ∧ c.acts = [] ∧ c.waits = [] ∧ c.arms = [] ∧ c.fork = none
      ∧ (∀ j < 4, (t.loops.getD j Loop.reset).active = false) ∧ (∀ j < 8, runCtx.repeatOf j = none)
      ∧ c.trap = some 5 ∧ c.tend = none ∧ c.halt = none ∧ runCtx.handles true causeTRAP 5 = true ∧ ({ s.cur with halt := some 7 } : Cursor).halt = some 7
      ∧ s.unresolvedGuard 0 0 0 = false ∧ g.unresolvedGuard 0 0 0 = true ∧ runCtx.inhdl = false ∧ runCtx.running = true := by
  and_intros <;> decide

/-- ADDI s5, s5, −64 in S1 and LD s4, 64(s1) in S2, one bundle (spec/05). -/
def pairWords : List W64 := [0x1210145FFFFFFFC0, 0xA380101000401800]

/-- Core 0 about to issue those two words, its context k. -/
def pairState (k : Ctx) : State :=
  { placed .code 0x1000 (pairWords.flatMap fun w => toBytes 8 w.toNat) (on k) with codes := [(0x1000, 0x100)], agenda := [.issue 0 0] }

/-- Their offer. -/
def pairOffer : Offer :=
  { strand := Strand.lockstep 0 0x1000 (some false)
    ba := 0x1000
    nw := 2
    x := false
    ops := [(1, .addi ⟨5, 5, 0xFFFFFFFC0⟩, 0x1210145FFFFFFFC0), (2, .ld ⟨4, 1, 0x40, 0, 3, 0, 0, 0, 0, 0⟩, 0xA380101000401800)]
    rep := false
    bad := none
    disarm := none }

/-- The verdicts of the two operations, each checked alone. -/
def verdicts (s : State) : List Verdict :=
  pairOffer.ops.filterMap fun p =>
    match exec p.2.1 { s with agenda := [], cur := { Cursor.reset with
      core := 0, x := 0, strand := 0, ba := 0x1000, nw := 2, exposed := false, bundle := pairOffer.ops.map fun q => (q.1, q.2.1),
      mode := .probe, seq0 := s.seqN, slot := p.1, word := p.2.2 } } with
    | .next u => some u.cur.verdict
    | _ => none

theorem witness_BundlesRunTheirOperations :
    decodeOp 0x1210145FFFFFFFC0 = ⟨0, 1, 0, .addi ⟨5, 5, 0xFFFFFFFC0⟩⟩
      ∧ decodeOp 0xA380101000401800 = ⟨1, 2, 0, .ld ⟨4, 1, 0x40, 0, 3, 0, 0, 0, 0, 0⟩⟩
      ∧ runCtx.strands = [pairOffer.strand] ∧ pairOffer.strand.low < 8
      ∧ (pairState runCtx).codeWord 0x1000 = some 0x1210145FFFFFFFC0 ∧ (pairState runCtx).codeWord 0x1008 = some 0xA380101000401800 ∧ bitAt (0x1210145FFFFFFFC0 : W64) 63 = false
      ∧ bitAt (0xA380101000401800 : W64) 63 = true ∧ bitAt (0x1210145FFFFFFFC0 : W64) 59 = false
      ∧ bitAt (0xA380101000401800 : W64) 59 = false ∧ pairOffer.ops.map (fun p => p.1) = [1, 2]
      ∧ (∀ p ∈ pairOffer.ops, isUnassigned p.2.1 = false ∧ slotBad pairOffer.strand p.1 p.2.1 = false ∧ p.2.1.wf = true ∧ runCtx.armed pairOffer.strand p.1 = none) := by
  and_intros <;> decide +kernel

theorem witness_BundlesRunTheirOperations_issue : mayIssue (pairState runCtx) pairOffer = true := by decide +kernel

theorem witness_BundlesRunTheirOperations_verdicts :
    verdicts (pairState runCtx) = [.ok, .ok] ∧ verdicts (banked (pairState runCtx)) = [.ok, .held true]
      ∧ verdicts (pairState { runCtx with sregs := runCtx.sregs.setIfInBounds 1 41 }) = [.ok, .faulted ⟨causeALIGN, 105, 2⟩]
      ∧ verdicts (pairState { runCtx with pend := [{ res := .scalar 1 0, left := 3, flags := 0, slot := 1, strand := 0, ba := 0, exposed := false, inter := false, isLoad := false, frozen := false, seq := 0 }] }) = [.ok, .held false] := by
  and_intros <;> decide +kernel

/-- Both operations take effect in turn. -/
theorem witness_BundlesRunTheirOperations_effects : ∃ v, State.takesAll pairOffer.ops { pairState runCtx with agenda := [], cur := { Cursor.reset with
    core := 0, x := 0, strand := 0, ba := 0x1000, nw := 2, bundle := pairOffer.ops.map fun q => (q.1, q.2.1), mode := .commit } } v :=
  ⟨_, _, rfl, _, rfl, rfl⟩

/-- A posted fault for slot 6. -/
def posted6 : Posted := ⟨causeENGINE, 3, 6, 0⟩

/-- A handler that drains for TRET, its strand stopped before. -/
def handlerCtx : Ctx :=
  { runCtx with
    inhdl := true
    drain := .tret
    stopped := [Strand.lockstep 0 0x1008 (some false)]
    strands := [Strand.lockstep 1 0x2008 (some false)]
    tepc := 0x1000 }

/-- A repeat under way in S1, its target fetched. -/
def repeat1 : Repeat := ⟨0, 2, 0, 1, some (addWord, 0x1000, 1)⟩

/-- The running context with that repeat. -/
def repeating : Ctx := { runCtx with repeats := runCtx.repeats.setIfInBounds 1 (some repeat1) }

theorem witness_FaultsEnterTheHandler :
    (on runCtx).cur.mode = .whole ∧ runCtx.strand? (on runCtx).cur.strand = some (Strand.lockstep 0 0x1000 (some false))
      ∧ runCtx.handles true causeILLEGAL 5 = true ∧ runCtx.inhdl = false
      ∧ { runCtx with posted := [posted6] }.posted = [posted6] ∧ runCtx.holder 6 = some (Strand.lockstep 0 0x1000 (some false))
      ∧ runCtx.handles false causeENGINE 3 = true ∧ ¬(causeENGINE = causeRETENTION ∧ runCtx.unit.map WorkUnit.isStep = some true)
      ∧ (on { runCtx with posted := [posted6] }).controlTick 0 = true ∧ runCtx.running = true
      ∧ (Strand.lockstep 0 0x1000 (some false)).waits = [] ∧ (∀ j < 8, runCtx.runningSlot (Strand.lockstep 0 0x1000 (some false)) j = false)
      ∧ { Strand.lockstep 0 0x1008 (some false) with waits := [.tok 3] }.waits ≠ []
      ∧ repeating.runningSlot (Strand.lockstep 0 0x1008 (some false)) 1 = true ∧ (Strand.lockstep 0 0x1008 (some false)).slots.getLsbD 1 = true
      ∧ repeating.runningSlot (Strand.lockstep 0 0x1008 (some false)) 0 = false ∧ repeating.repeatOf 1 = some repeat1
      ∧ (on handlerCtx).controlTick 0 = true ∧ handlerCtx.running = true ∧ handlerCtx.drain = .tret ∧ (on handlerCtx).handlerQuiet 0 0 = true
      ∧ handlerCtx.tepc ≠ handlerCtx.faultPc ∧ { handlerCtx with faultPc := 0x1000 }.tepc = 0x1000 := by
  and_intros <;> decide

theorem witness_IssueEventsTakeEffect :
    repeating.repeatOf 1 = some repeat1 ∧ repeat1.target = some (addWord, 0x1000, 1)
      ∧ (on { runCtx with drain := .crossing }).controlTick 0 = true ∧ (on { runCtx with drain := .crossing }).drained 0 0 = true
      ∧ (on { runCtx with drain := .clkdiv 8 }).drained 0 0 = true ∧ (core0 { Core.reset with switchEnd := some 0 } (on runCtx)).myCore.switchEnd = some 0
      ∧ (on runCtx).wantsPinned 0 = (on runCtx).myCore.pinned ∧ (on { runCtx with clkReq := true }).wantsPinned 0 = !(on runCtx).myCore.pinned
      ∧ (∃ e ∈ (core0 { Core.reset with starved := [(3, Config.starveAfter)] } (on runCtx)).myCore.starved, Config.starveAfter ≤ e.2)
      ∧ (¬∃ t, (t ∈ runCtx.strands ∨ t ∈ runCtx.stopped) ∧ t.kind = some true)
      ∧ { runCtx with tableLoads := [⟨5, Vector.replicate 260 1, 1⟩] }.tableLoads = [⟨5, Vector.replicate 260 1, 1⟩]
      ∧ (on { runCtx with counts := true }).pendCounts 0 0 = true := by
  and_intros
  all_goals first | decide | skip
  rintro ⟨t, h, ht⟩
  have : t = Strand.lockstep 0 0x1000 (some false) := by
    cases h with
    | inl h => exact List.mem_singleton.1 h
    | inr h => cases h
  subst this
  exact absurd ht (by decide)

/-- Results that land in this cycle: two of s5, one later, one with flags, one of a queue; and one that a stretched vector cycle would hold. -/
def landState : State :=
  let p (r : Result) (left : Nat) (fl : BitVec 7) (seq : Nat) : Pending :=
    { res := r, left := left, flags := fl, slot := 1, strand := 0, ba := 0x1000, exposed := false, inter := false, isLoad := false, frozen := false, seq := seq }
  on { runCtx with
    counts := true
    pend := [p (.scalar 5 7) 1 0 0, p (.scalar 5 8) 1 flagDZ 1, p (.scalar 6 9) 2 0 2, p (.queue 2 true) 1 0 3] }

theorem witness_WritebacksLand : landState.pendCounts landState.cur.core landState.cur.x = true ∧ ∀ p ∈ landState.me.pend, p.slot < 8 := by decide

/-- One access of the running unit on its way, and the event that performs it. -/
def accessOf (kind : AccessKind) (runs : List (Region × Nat × Nat)) (ord : Nat) (done : Bool) (rs : List Result) : State :=
  let s := on runCtx
  { s with
    memready := true
    accs := [{ s.access kind runs ord 0 0 true false with id := 7, due := 0, done := done, results := rs }]
    cur := { s.cur with id := 7 } }

/-- The same at one place. -/
def accessState (kind : AccessKind) (r : Region) (a ord : Nat) (done : Bool) (rs : List Result) : State :=
  accessOf kind [(r, a, kind.size)] ord done rs

/-- The access may be performed now. -/
def ready (s : State) : Bool := match s.access? s.cur.id with
  | some a => s.canPerform a && s.roomFor a && s.alive a && decide (a.id = 7)
  | none => false

theorem witness_AccessesArePerformed :
    ready (accessState (.load 8 5) (.scratch 7) 64 0 false []) = true
      ∧ ready (accessState (.store [1, 2]) (.scratch 7) (2 ^ 21 - 2) 0 false []) = true
      ∧ ready (accessState (.amo 0 8 5 0 6) (.pool 1) 64 3 false []) = true ∧ amoValue 0 8 0 5 0 = (some 5, 0)
      ∧ ready (accessState (.load 8 5) .dev (deviceLimit - 8) 1 false []) = true
      ∧ ready (accessState (.load 8 5) .dev (deviceLimit - 7) 1 false []) = true
      ∧ ready (accessState (.store [1, 2]) (.pool 1) 64 0 false []) = true
      ∧ (let s := accessState (.load 8 5) (.pool 1) 64 0 true [.scalar 5 3]
         (s.access? 7).map (fun a => (a.done, s.alive a, decide (a.due ≤ s.now), a.results)) = some (true, true, true, [.scalar 5 3])
           ∧ s.frozen 0 = false ∧ s.clusterOn 0 = true) := by
  and_intros <;> decide

/-- MXSTAT behind command 3, which is in its queue or not; vector accesses in a pool, in device memory and in two scratchpads; a fence of each kind. -/
theorem witness_AccessesArePerformed_vectors :
    let m := accessOf (.mxstat 5 6 [3]) [] 0 false []
    let gone := core0 { Core.reset with queues := Core.reset.queues.setIfInBounds 1 [{ m.newCmd (.msbuild (.ofBits 0)) [] none 0 0 0 0 0 0 0 with id := 3 }] } m
    (m.access? 7).map (fun a => (a.done, m.alive a, decide (a.due ≤ m.now), a.results)) = some (false, true, true, [])
      ∧ (m.core 0).queue 1 = [] ∧ ((gone.core 0).queue 1).map Cmd.id = [3]
      ∧ ready (accessOf (.vload (vm 9 5 4 0 0 0 0) false 0 9) [(.dev, deviceLimit - 4096, 4096)] 0 false []) = true
      ∧ ready (accessOf (.vload (vm 9 5 3 0 0 0 0) false 0 9) [(.pool 1, 64, 4096)] 0 false []) = true
      ∧ ready (accessOf (.vload (vm 9 5 2 0 0 0 0) true 0 9) [(.scratch 7, 64, 4), (.scratch 8, 64, 4)] 0 false []) = true
      ∧ ready (accessOf (.vstore [(cellKey (.scratch 7) 64, 1), (cellKey (.scratch 8) 64, 2)] false) [(.scratch 7, 64, 1), (.scratch 8, 64, 1)] 0 false []) = true
      ∧ ready (accessOf (.vstore [(cellKey (.pool 1) 64, 1)] false) [(.pool 1, 64, 1)] 0 false []) = true
      ∧ ready (accessOf (.fence true false) [] 0 false []) = true ∧ ready (accessOf (.fence false true) [] 0 false []) = true := by
  and_intros <;> decide

/-- The running strand waits. -/
def waitState (w : List Wait) : State := on { runCtx with strands := [{ Strand.lockstep 0 0x1008 (some false) with waits := w }], cb := 3 }

theorem witness_WaitsEnd :
    let s := waitState [.cb 4 true, .cb 3 true]
    s.me.strand? s.cur.strand = some { Strand.lockstep 0 0x1008 (some false) with waits := [.cb 4 true, .cb 3 true] }
      ∧ s.awake 0 = true ∧ s.me.running = true ∧ s.me.cb &&& 3 = 3 ∧ ¬s.me.cb &&& 4 = 4
      ∧ (let o := (waitState [.count 0 0 0 0]).outstanding 0 0
         o.1 ≤ 0 ∧ o.2.1 ≤ 0 ∧ o.2.2.1 ≤ 0 ∧ o.2.2.2 ≤ 0)
      ∧ (waitState [.all 0]).allDone 0 0 0 0 = true ∧ ((waitState [.bar 5 true 6 none]).me.bar 5).ph ≠ true
      ∧ ((waitState [.bar 5 false 6 (some 0)]).me.bar 5).ph = false ∧ (waitState [.tok 3]).tokenDone 0 0 3 = true := by
  and_intros <;> decide

/-- One event of each kind at barrier 63, an arrival that reaches the limit, and two queries at the end of a cycle. -/
theorem witness_TransferBarriersAct :
    let k (l : List BarEvent) : Ctx := { runCtx with barEvents := l }
    let ends (e : BarEvent) : Bool := (k [e]).barEvents == [e]
    ends (.error 63 15) = true ∧ ends (.expect 63 5) = true ∧ ends (.arrive 63 5) = true ∧ ends (.init 63) = true
      ∧ (2 : Int) ^ 39 ≤ 0 + (2 ^ 39 : Nat) ∧ (-2 ^ 39 : Int) ≤ (-549755813888 : Int)
      ∧ (let q := accessOf (.barq 63 5 true) [] 0 false []
         ∃ a, q.accs = [] ++ a :: [] ∧ q.alive a = true ∧ a.kind = .barq 63 5 true)
      ∧ (let q := accessOf (.toktest 3 5) [] 0 false []
         ∃ a, q.accs = [] ++ a :: [] ∧ q.alive a = true ∧ a.kind = .toktest 3 5 ∧ a.done = false) := by
  refine ⟨by decide, by decide, by decide, by decide, by decide, by decide, ⟨_, rfl, ?_, rfl⟩, ⟨_, rfl, ?_, rfl, rfl⟩⟩ <;> decide

/-! ### Witnesses: the memory, the engines -/

theorem witness_StepsKeepMemory :
    MemoryOk (runState addWord)
      ∧ (match Sys2Proof.Machine.step (runState addWord) with
        | .next t => decide (t.agenda = [])
        | _ => false) = true := by
  and_intros <;> decide +kernel

/-- A command that core 0's primary context has issued. -/
def running (op : Instr) (vals : List W64) : Cmd := { (on runCtx).newCmd op vals none 0 0 0 0 0 0 0 with state := .running, turn := true }

/-- Core 0's primary context runs as k, with the first of some commands in each queue the one that the cursor names. -/
def engine (k : Ctx) (l : List (Nat × Cmd)) : State :=
  let s := core0 { Core.reset with queues := l.foldl (fun v e => v.setIfInBounds e.1 [e.2]) Core.reset.queues } (on k)
  { s with cur := { s.cur with id := (l.head?.map fun e => e.2.id).getD 0 }, memready := true }

/-- MXWLD of slot 3 waiting with a guard. -/
def loadCmd (guard : Nat) : Cmd := { running (.mxwld (mc 1 2 0 0)) [3, 64, 0] with state := .waiting, guard := guard, banks := 6 }

/-- An MXGO of one pass, in a state. -/
def goCmd (state : CmdState) (reload pos : Nat) : Cmd :=
  { running (.mxgo (mc 0 0 0 0)) [] with state := state, shadow := some Shadow.reset, reload := reload, pos := pos }

/-- CPIN of 64 bytes to LOCAL address 64, at byte p with some bytes arrived; bit 1 of its flags is POOL. -/
def inCmd (flags : BitVec 6) (arrived : Nat) : Cmd :=
  { running (.cpin { cc 1 2 3 4 with flags := flags }) [64, 0x40000, 64, 0] with tok := 1, arrived := arrived }

/-- The same before it has started, its page known or not. -/
def inWaiting (flags : BitVec 6) (page : Option PageMap) (n : W64) : Cmd :=
  { running (.cpin { cc 1 2 3 4 with flags := flags }) [64, 0x40000, n, 0] with tok := 1, state := .waiting, page := page }

/-- A page of some bytes, of host memory or of a peer. -/
def pageAt (size home peer : Nat) : PageMap := ⟨0x40000, size, home, 0x80000, peer, true, true, false⟩

theorem witness_EngineCommandsStart :
    let s := engine runCtx [(3, loadCmd 2)]
    let d := engine { runCtx with guards := runCtx.guards.setIfInBounds 2 .discard } [(3, loadCmd 2)]
    let b := engine runCtx [(3, loadCmd 0), (1, { running (.mxgo (mc 0 0 0 0)) [] with id := 9, banks := 2, banksHeld := true })]
    s.myCore.cmd? s.cur.id = some (loadCmd 2) ∧ s.frozen 0 = false ∧ s.clusterOn 0 = true ∧ s.engineOn 0 0 = true
      ∧ s.myCore.queueOf s.cur.id = 3 ∧ s.myCore.atHead 3 (loadCmd 2) = true ∧ (loadCmd 2).state = .waiting ∧ (loadCmd 2).cancelled = false
      ∧ (loadCmd 2).sampled = none ∧ (loadCmd 2).guard ≠ 0 ∧ runCtx.guard 2 = .unresolved ∧ (loadCmd 2).tokensReady runCtx 3 = true
      ∧ d.me.guard 2 = .discard ∧ d.myCore.atHead 3 (loadCmd 2) = true ∧ (loadCmd 2).sn = false ∧ (loadCmd 2).sp = false ∧ (loadCmd 2).err = 0
      ∧ b.engineTick 0 2 = true ∧ runCtx.wslots.getD (loadCmd 0).slotNumber .empty = .empty ∧ (engine runCtx [(3, loadCmd 0)]).myCore.heldBanks &&& 6 = 0
      ∧ (loadCmd 0).banksHeld = false ∧ b.myCore.heldBanks &&& 6 ≠ 0 ∧ b.myCore.atHead 3 (loadCmd 0) = true := by
  and_intros <;> decide

/-- An MXGO, and copies that move nothing, move bytes from a pool, or from a page that holds their span or is 16 bytes too small. -/
theorem witness_EngineCommandsStart_products :
    let g := engine runCtx [(1, goCmd .waiting 0 0)]
    let c (flags : BitVec 6) (page : Option PageMap) (n : W64) := engine runCtx [(0, inWaiting flags page n)]
    g.myCore.queueOf g.cur.id = 1 ∧ g.myCore.atHead 1 (goCmd .waiting 0 0) = true ∧ 0 < Shadow.reset.total ∧ (goCmd .waiting 0 0).cad = 0
      ∧ g.mayRun 0 0 = true ∧ g.engineTick 0 2 = true ∧ (goCmd .waiting 0 0).sampled = none ∧ g.myCore.heldBanks = 0
      ∧ (c 2 none 64).myCore.queueOf (c 2 none 64).cur.id = 0 ∧ (c 2 none 64).myCore.atHead 0 (inWaiting 2 none 64) = true
      ∧ (∀ d ∈ (c 2 none 64).myCore.queue 0, d.state ≠ .running) ∧ (c 2 none 64).engineTick 0 3 = true ∧ (inWaiting 2 none 64).isCopy = true
      ∧ (inWaiting 2 none 0).totalBytes = 0 ∧ (inWaiting 2 none 64).totalBytes = 64 ∧ (inWaiting 2 none 64).translated = false
      ∧ (inWaiting 0 (some (pageAt 64 1 0)) 64).translated = true ∧ (inWaiting 0 none 64).spanTested = false ∧ (inWaiting 0 none 64).farSpan = 64
      ∧ (c 0 (some (pageAt 64 1 0)) 64).copyPage (inWaiting 0 (some (pageAt 64 1 0)) 64) = (some (pageAt 64 1 0), none)
      ∧ (c 0 (some (pageAt 48 1 0)) 64).copyPage (inWaiting 0 (some (pageAt 48 1 0)) 64) = (some (pageAt 48 1 0), none) := by
  and_intros <;> decide

/-- A tile of zeros for weight address 0. -/
def tile0 : Tile := ⟨0, 0, List.replicate 16384 0⟩

/-- Core 0 with one running command of Q1, its context's tile and slot 0. -/
def passState (c : Cmd) (t : Option Tile) (w : WSlot) : State :=
  engine { runCtx with tile := t, wslots := runCtx.wslots.setIfInBounds 0 w } [(1, c)]

/-- The same with passes under way, in a matrix domain of some divisor. -/
def landing (l : List Flight) (div : BitVec 12) : State :=
  let s := passState (goCmd .running 0 1) none .empty
  core0 { s.myCore with flights := l, clkdiv := div } s

/-- A pass of two sums for row 5, some matrix cycles from its landing, its row read or not, or a drained row at LOCAL address 64. -/
def flight (left : Nat) (base : Option (List Byte)) (store : Option (Nat × List Byte)) : Flight :=
  { x := 0, cmd := 0, ba := 0x1000, left := left, row := 5, float := false, sums := [3, -4], flags := 0, base := base, store := store }

/-- A running MXZERO of two rows from row 1, and an MXDRAIN of them to LOCAL address 64. -/
def zeroCmd : Cmd := running (.mxzero (mc 1 2 0 0)) [512, 2, 0]
def drainCmd : Cmd := running (.mxdrain (mc 1 2 3 1)) [512, 64, 0x0000000200000000]

theorem witness_MatrixPassesRun :
    let s := passState (goCmd .running 0 0) none .empty
    s.myCore.cmd? s.cur.id = some (goCmd .running 0 0) ∧ (goCmd .running 0 0).shadow = some Shadow.reset ∧ s.engineTick 0 2 = true
      ∧ s.engineOn 0 0 = true ∧ s.ready1 0 (s.myCore.queueOf s.cur.id) (goCmd .running 0 0) = true ∧ Shadow.reset.weight 0 = 0
      ∧ s.me.tile.map Tile.tag ≠ some 0 ∧ s.me.wslots.getD 0 .empty = .empty ∧ (goCmd .running 1 0).reload = 1
      ∧ (passState (goCmd .running 1 0) none (.full tile0)).ready1 0 1 (goCmd .running 1 0) = true
      ∧ (passState (goCmd .running 1 0) none (.full tile0)).me.wslots.getD 0 .empty = .full tile0 ∧ tile0.tag = 0 ∧ Shadow.reset.pairs tile0.fmt = true
      ∧ (passState (goCmd .running 0 0) (some tile0) .empty).me.tile = some tile0
      ∧ (passState zeroCmd none .empty).ready1 0 1 zeroCmd = true ∧ (passState zeroCmd none .empty).myCore.cmd? 0 = some zeroCmd
      ∧ (passState drainCmd none .empty).ready1 0 1 drainCmd = true ∧ (passState drainCmd none .empty).myCore.cmd? 0 = some drainCmd := by
  and_intros <;> decide +kernel

/-- Landing cycles of one reference cycle and of two, and a pass that does not land yet. -/
theorem witness_MatrixPassesRun_landing :
    let now := landing [flight 0 none none] 0
    let slow := landing [flight 0 none none] 0x40
    (flight 0 none none).left = 0 ∧ (flight 0 none none).store = none ∧ now.engineLast 0 2 = true ∧ now.engineTick 0 2 = true
      ∧ (flight 0 (some (List.replicate 512 1)) none).base = some (List.replicate 512 1) ∧ (flight 0 none (some (64, [1, 2]))).store = some (64, [1, 2])
      ∧ ((landing [flight 0 none (some (64, [1, 2]))] 0).myCore.cmd? 0).isSome = true ∧ (goCmd .running 0 1).old = (landing [] 0).mem
      ∧ slow.engineLast 0 2 = false ∧ slow.engineTick 0 2 = true ∧ (flight 1 none none).left ≠ 0 := by
  and_intros <;> decide +kernel

/-- A running MXSMP of context 0, two by two, and an MXNORM. -/
def smpCmd (pos : Nat) (checking : Bool) : Cmd := { running (.mxsmp (mc 1 2 3 0)) [0, 5, 0x0010000100000000] with pos := pos, checking := checking }
def normCmd : Cmd := running (.mxnorm (mc 1 2 3 0)) [64, 256, 0]

/-- Its context, the alias table built over one term. -/
def smpCtx : Ctx :=
  { runCtx with sampler := { Sampler.reset with sk := 1, sm := 2, sn := 2, built := true, na := [0], nb := [0], g := [0], q := [0], other := [0], t := 1 } }

theorem witness_MatrixCommandsComplete :
    let s := passState (goCmd .running 0 1) none .empty
    let e := passState { goCmd .running 0 1 with err := 2, errTag := 7 } none .empty
    let m (pos : Nat) (b : Bool) := engine smpCtx [(1, smpCmd pos b)]
    let w (pos : Nat) := engine runCtx [(3, { loadCmd 0 with state := .running, pos := pos })]
    s.myCore.cmd? s.cur.id = some (goCmd .running 0 1) ∧ s.engineTick 0 2 = true ∧ s.engineOn 0 0 = true ∧ s.myCore.queueOf s.cur.id = 1
      ∧ s.myCore.noFlights 0 = true ∧ (goCmd .running 0 1).sn = false ∧ (goCmd .running 0 1).sp = false ∧ (goCmd .running 0 1).isCopy = false
      ∧ (goCmd .running 0 1).err = 0 ∧ (goCmd .running 0 1).wait = 0 ∧ s.stage ≠ 4 ∧ s.workDone 0 (goCmd .running 0 1) = true
      ∧ e.myCore.cmd? e.cur.id = some { goCmd .running 0 1 with err := 2, errTag := 7 } ∧ e.myCore.noFlights 0 = true
      ∧ (m 3 false).workDone 0 (smpCmd 3 false) = true ∧ (m 3 false).myCore.cmd? 0 = some (smpCmd 3 false)
      ∧ (m 0 false).ready1 0 1 (smpCmd 0 false) = true ∧ (m 0 true).ready1 0 1 (smpCmd 0 true) = true
      ∧ (m 2 false).ready1 0 1 (smpCmd 2 false) = true ∧ 2 ≤ smpCtx.sampler.sm.toNat ∧ (m 2 false).engineLast 0 2 = true ∧ (m 0 true).engineOn 0 0 = true
      ∧ (w 64).myCore.queueOf 0 = 3 ∧ (w 64).workDone 0 { loadCmd 0 with state := .running, pos := 64 } = true
      ∧ (w 63).workDone 0 { loadCmd 0 with state := .running, pos := 63 } = false ∧ (w 63).engineTick 0 2 = true ∧ (loadCmd 0).old = (w 63).mem
      ∧ (engine smpCtx [(1, normCmd)]).ready1 0 1 normCmd = true ∧ normCmd.pos % 2 = 0 ∧ normCmd.old = (engine smpCtx [(1, normCmd)]).mem := by
  and_intros <;> decide +kernel

/-- CPOUT of 64 bytes into a pool, and CPIN, each with a block of it that has its bytes or not, and meets an error or does not. -/
def blockState (q : Nat) (c : Cmd) (dst : Region × Nat) (data : Option (List Byte)) (err : Nat) : State :=
  let s := engine runCtx [(q, c)]
  let b : CopyBlock := { id := 9, cmd := 0, x := 0, src := (.scratch 3, 64), dsts := [dst], len := 64, due := 0, data := data, err := err }
  let t := placed (.scratch 3) 64 [1, 2, 3] (core0 { s.myCore with blocks := [b] } s)
  { t with cur := { t.cur with id := 9 } }

/-- The block that arrives may be served. -/
def arrives (s : State) : Bool :=
  match s.myCore.blocks.find? (fun d => decide (d.id = 9)) with
  | some b => decide (b.cmd = 0 ∧ b.due ≤ s.now) && s.blockServed 0 b && decide (b.outOfDevice = none)
  | none => false

theorem witness_CopiesArriveAndEnd :
    let s := engine runCtx [(0, inCmd 0 64)]
    let f := engine runCtx [(0, inCmd 0 0)]
    let h := { inCmd 0 0 with page := some (pageAt 64 1 0) }
    let p := { inCmd 0 0 with faultTag := some 5, state := CmdState.waiting }
    let x := { inCmd 0 0 with cancelled := true }
    s.myCore.cmd? s.cur.id = some (inCmd 0 64) ∧ (inCmd 0 64).isCopy = true ∧ s.engineOn 0 0 = true ∧ s.frozen 0 = false
      ∧ (inCmd 0 64).totalBytes ≤ (inCmd 0 64).arrived ∧ s.myCore.blocks = [] ∧ (inCmd 0 64).err = 0 ∧ (inCmd 0 64).sn = false ∧ (inCmd 0 64).sp = false
      ∧ s.myCore.queueOf 0 = 0 ∧ (engine runCtx [(0, x)]).myCore.cmd? 0 = some x ∧ ({ inCmd 0 0 with err := 3 } : Cmd).err = 3
      ∧ f.engineTick 0 (queueDomain 0) = true ∧ (inCmd 0 0).faultTag = none ∧ f.faultRoom = true ∧ f.parked 0 < 64
      ∧ f.pageFaultAt 0 0 (inCmd 0 0) = some false ∧ (engine runCtx [(0, inCmd 2 0)]).pageFaultAt 0 0 (inCmd 2 0) = none
      ∧ (engine runCtx [(0, p)]).myCore.cmd? 0 = some p ∧ p.faultTag.isSome = true
      ∧ (engine runCtx [(0, h)]).usesHost 0 h = true ∧ h.state = .running ∧ f.cores = [(0, f.myCore)] ∧ (∀ d ∈ f.myCore.cmds, d.id = 0 → d = inCmd 0 0) := by
  and_intros <;> decide

theorem witness_CopiesArriveAndEnd_blocks :
    let out : Cmd := { running (.cpout { cc 1 2 3 4 with flags := 2 }) [64, 64, 64, 0] with tok := 1, pos := 64 }
    let bytes : Option (List Byte) := some (List.replicate 64 7)
    arrives (blockState 2 out (.pool 1, 64) none 0) = true ∧ arrives (blockState 2 out (.pool 1, 64) bytes 3) = true
      ∧ arrives (blockState 2 out (.pool 1, 64) bytes 0) = true ∧ arrives (blockState 0 (inCmd 0 0) (.scratch 0, 2 ^ 21 - 64) bytes 0) = true
      ∧ (blockState 2 out (.pool 1, 64) bytes 0).held = [] ∧ (blockState 2 out (.pool 1, 64) bytes 0).accs = []
      ∧ (blockState 2 out (.pool 1, 64) bytes 0).myCore.cmd? 0 = some out ∧ out.isCopy = true ∧ out.err = 0 ∧ (List.replicate 64 (7 : Byte)).length = 64 := by
  and_intros <;> decide

/-- A copy whose page lies on peer 5 uses the port that peer 5 is routed to (R369). -/
theorem witness_CopiesArriveAndEnd_port :
    let c := { inCmd 0 0 with page := some (pageAt 64 3 5) }
    let s := { engine runCtx [(0, c)] with routes := [(5, 15)] }
    s.usesPort s.myCore c 15 = true ∧ (15 : Nat) < 16 ∧ s.myCore.cmd? 0 = some c := by
  and_intros <;> decide

/-! ### Witnesses: the schedulers -/

/-- A launch configuration: page tables at 0x1000, a fault ring of four records, save regions of 16 MiB, one window for core 0. -/
def launch0 : Launch :=
  { asroot := 0x1000
    fqbase := 0x8000
    frbase := 0x40000
    frcap := 4
    dies := List.replicate 4 ⟨0, 64, 1, 0, 0, 0x1000000, 0x1000000⟩
    peers := []
    windows := [(0, 2097152, 0, 3145728)] }

/-- The same state, atWork, at cycle 4,096, its contexts taking work. -/
def atWork (s : State) : State := { s with launch := some launch0, now := 4096, memready := true, resetting := false }

/-- A page of 64 MiB at virtual address 0, its device memory from 64 MiB on. -/
def paged (s : State) : State :=
  placed .dev 0x1000 (toBytes 8 (2 ^ 63 + 0x2000)) (placed .dev 0x2000 (toBytes 8 (2 ^ 63 + 0x3000)) (placed .dev 0x3000 (toBytes 8 (2 ^ 63 + 0x4000))
    (placed .dev 0x4000 ((List.replicate 32 (toBytes 8 (2 ^ 63 + 2 ^ 62 + 3 * 2 ^ 60 + 0x4000000 + 3))).flatten) s)))

/-- A record at code address 0x1000 with an operand range. -/
def unitFor (range : W64) : WorkUnit := { unitOfRecord [] with taskid := 7, code := 0x1000, frame := 5, arg := 6, rngs := [range] }

/-- A step of a block at virtual address 0. -/
def tileStep : WorkUnit := { unitFor 0 with isStep := true, levels := [1, 2, 3, 4, 5, 6], rngs := [], ctl := 0x400000000 }

/-- Core 0's context k, with units in its queue. -/
def queuing (k : Ctx) (l : List WorkUnit) : State := atWork (core0 { Core.reset with ready := l } (on k))

/-- A unit's context, of a low priority. -/
def lowCtx : Ctx := { runCtx with ranE := 3 }

theorem witness_SchedulersBindAndPreempt :
    (queuing Ctx.reset []).me.state = .free ∧ (queuing Ctx.reset []).choose 0 0 = none
      ∧ (queuing Ctx.reset [unitFor 0]).choose 0 0 = some (unitFor 0) ∧ (unitFor 0).saved = none ∧ (queuing Ctx.reset [unitFor 0]).takesWork 0 = true
      ∧ (queuing Ctx.reset [unitFor 0]).translateUnit (unitFor 0) = .ok [] ∧ (unitFor 0).first = false ∧ (unitFor 0).isStep = false
      ∧ (paged (queuing Ctx.reset [tileStep])).choose 0 0 = some tileStep
      ∧ (match (paged (queuing Ctx.reset [tileStep])).translateUnit tileStep with
        | .ok l => decide (l.length = 5)
        | _ => false) = true
      ∧ (queuing Ctx.reset [unitFor 0x0002800000000000]).translateUnit (unitFor 0x0002800000000000) = .missing 0 false false
      ∧ (queuing Ctx.reset [unitFor 0x0002800000000000]).choose 0 0 = some (unitFor 0x0002800000000000)
      ∧ (queuing Ctx.reset []).faultRoom = true
      ∧ (queuing lowCtx [unitFor 0]).outranked 0 0 = true ∧ (queuing lowCtx [unitFor 0]).outranked 0 1 = false ∧ (queuing lowCtx [unitFor 0]).frozen 0 = false
      ∧ (queuing lowCtx [unitFor 0]).takesWork 0 = true ∧ lowCtx.running = true ∧ (queuing lowCtx []).outranked 0 0 = false
      ∧ (queuing { lowCtx with state := .halted } [unitFor 0]).outranked 0 0 = true
      ∧ (queuing { lowCtx with state := .halted } [unitFor 0]).me.state = .halted := by
  and_intros <;> decide +kernel

/-- A context about to issue that is to leave, its strand waiting. -/
theorem witness_SchedulersBindAndPreempt_leaving :
    let k := { runCtx with leaving := true, strands := [{ Strand.lockstep 0 0x1008 (some false) with waits := [.tok 3] }] }
    let s := { on k with agenda := [.issue 0 0] }
    s.agenda = [.issue s.cur.core s.cur.x] ∧ s.controlTick 0 = true ∧ s.me.running = true ∧ s.me.leaving = true ∧ ∀ t ∈ s.me.strands, t.waits ≠ [] := by
  and_intros <;> decide

/-- A unit that was saved at 0x1000000. -/
def savedUnit0 : WorkUnit := { unitFor 0 with saved := some 0x1000000, hasRun := true }

/-- Its area, holding a register, a byte of its window, and a strand. -/
def area0 : Saved :=
  { addr := 0x1000000, size := 0x200000, core := 0, x := 0, final := false, stop := 5, ctx := { runCtx with unit := some (unitFor 0) },
    cmds := Vector.replicate 4 [], waiting := [], cells := [(cellKey (.scratch 0) 64, 9)] }

/-- Core 0's context reads its area. -/
def restoring : State := { atWork (on { Ctx.reset with state := .starting 4096, unit := some savedUnit0 }) with saves := [area0] }

/-- A record waits for the ring. -/
def recordingState (prod : W32) : State := { atWork (on { runCtx with state := .recording (List.replicate 64 5) false }) with frprod := prod }

theorem witness_SavesRestoresAndRecords :
    let s := atWork (on { runCtx with state := .stopping false false 4000 })
    s.me.state = .stopping false false 4000 ∧ s.me.unit = some handledUnit ∧ (s.accsOf 0 0).all Access.isMxstat = true
      ∧ s.myCore.enginesQuiet 0 = true ∧ s.clusterOn 0 = true ∧ s.saveRoom 0 0 = true ∧ s.pushRoom 0 = true
      ∧ restoring.me.state = .starting 4096 ∧ restoring.me.unit = some savedUnit0 ∧ savedUnit0.saved = some 0x1000000
      ∧ (∃ v, restoring.saves.find? (fun w => decide (w.addr = 0x1000000)) = some v ∧ Memory.wf v.cells = true) ∧ restoring.takesWork 0 = true
      ∧ (recordingState 0).me.state = .recording (List.replicate 64 5) false ∧ (recordingState 0).launch = some launch0
      ∧ (recordingState 0).recordRoom = true ∧ launch0.frbase + (0 : W32).toNat % launch0.frcap * 64 + 64 ≤ deviceLimit
      ∧ (recordingState 4).recordRoom = false := by
  and_intros
  all_goals first | with_reducible rfl | decide +kernel

/-- A unit at its end: JV with a counter, or none. -/
def endingUnit (jv : Bool) : WorkUnit := { handledUnit with ctl := if jv then 0x40000040 else 0 }

/-- Its strand waits. -/
def endState (jv : Bool) (w : Wait) (p : List Pending) : State :=
  on { runCtx with unit := some (endingUnit jv), pend := p, strands := [{ Strand.lockstep 0 0x1008 (some false) with waits := [w] }] }

/-- A decrement of the counter at pool address 64, whose word is w; continuation 0 of die 0 waits for it. -/
def decState (w : Nat) : State :=
  placed (.pool 0) 64 (toBytes 8 w) { atWork State.reset with decs := [⟨3, 64, true, false, 0⟩], conts := [⟨0, 0, unitFor 0, 17⟩] , cur := { Cursor.reset with id := 3 } }

theorem witness_TasksEndAndCount :
    let s := endState true (.tend none) []
    let b := endState true (.block 0x40 (List.replicate 256 0) 0 0) []
    s.controlTick 0 = true ∧ s.me.running = true ∧ s.myStrand.waits = [.tend none] ∧ s.me.unit = some (endingUnit true) ∧ s.workOver 0 0 = true
      ∧ (endingUnit true).isStep = false ∧ (endingUnit true).jv = true ∧ (endingUnit false).jv = false
      ∧ (endState false (.tend none) landState.me.pend).workOver 0 0 = false
      ∧ (let c := endState true (.tend (some (unitFor 0))) []
         c.myStrand.waits = [.tend (some (unitFor 0))] ∧ c.workOver 0 0 = true ∧ c.pushRoom 0 = true)
      ∧ b.me.strand? b.cur.strand = some b.myStrand ∧ b.myStrand.waits = [.block 0x40 (List.replicate 256 0) 0 0]
      ∧ (∀ d ∈ blockDies (List.replicate 256 0) 0, (b.freeSlot d).isSome = true) ∧ b.allPerformed 0 0 0 = true ∧ 0 < blockSteps (List.replicate 256 0)
      ∧ b.blocks = []
      ∧ (decState 1).decs.find? (fun e => decide (e.id = (decState 1).cur.id)) = some ⟨3, 64, true, false, 0⟩
      ∧ (decState 1).word (.pool 0) 64 8 = 1 ∧ (decState 2).word (.pool 0) 64 8 = 2 ∧ (decState (2 ^ 34)).word (.pool 0) 64 8 / 2 ^ 34 % 2 = 1
      ∧ (decState 1).conts.find? (fun c => decide (c.die = 64 / 2 ^ 26 ∧ c.index = 1 / 2 ^ 40)) = some ⟨0, 0, unitFor 0, 17⟩ := by
  and_intros <;> decide +kernel

/-- A block of one step on die 0. -/
def block0 : Block := { id := 4, dies := [(0, 0, 0)], va := 0, bytes := List.replicate 256 0, left := 1, faulted := false, killed := false }

theorem witness_UnitsReachTheirCores :
    let s := atWork { State.reset with blocks := [block0] }
    let p := { atWork (core0 Core.reset State.reset) with spills := [(0, 0, unitFor 0)] }
    let t := { atWork State.reset with transits := [⟨3, unitFor 0, 5, 4096⟩], cur := { Cursor.reset with id := 3 } }
    (s.blocks.findSome? fun b => (b.nextStep 0).map fun n => (b, n)).isSome = true ∧ s.now % 2 = 0 ∧ s.pushRoom 0 = true ∧ s.clusterOn 0 = true
      ∧ ({ s with now := 1 } : State).now % 2 = 1
      ∧ p.spills.find? (fun e => decide (e.2.1 = 0)) = some (0, 0, unitFor 0) ∧ p.myCore.ready.length < 64
      ∧ 64 ≤ (core0 { Core.reset with ready := List.replicate 64 (unitFor 0) } p).myCore.ready.length
      ∧ t.transits.find? (fun e => decide (e.id = 3)) = some ⟨3, unitFor 0, 5, 4096⟩ ∧ t.now = 4096 ∧ t.pushRoom 5 = true ∧ t.clusterOn 5 = true
      ∧ s.now % Config.averagePeriod = 0 ∧ 1 % Config.averagePeriod ≠ 0 := by
  and_intros <;> decide +kernel

/-! ### Witnesses: numbers, pool elements, mailboxes, join words -/

/-- A third, with the exponent at which F32 rounds its sum up to 2^128 or not, and a value below 2^−126. -/
theorem witness_RoundingsFollowTheirModes :
    let big (n : Nat) (e : Int) : Rat := (FVal.fin false n 1 e).rat
    (0 < 3 ∧ 0 < 1) ∧ staysBelow 24 .rne (FVal.fin true 1 3 0).rat 128 ∧ ¬staysBelow 24 .rne (FVal.fin true 1 3 0).rat (-126)
      ∧ staysBelow 24 .rne (big 0xFFFFFF 104) 128 ∧ ¬staysBelow 24 .rne (big 0x1FFFFFF 103) 128 ∧ staysBelow 24 .rtz (big 0x1FFFFFF 103) 128
      ∧ ¬staysBelow 24 .rup (big 0x1FFFFFF 103) 128 ∧ staysBelow 24 .rdn (big 0x1FFFFFF 103) 128
      ∧ (0x7F800000 / 2 ^ 23 % 256 = 255) ∧ (0x007FFFFF / 2 ^ 23 % 256 ≠ 255) ∧ (decodeF bf16 0x7F80).isFin = false
      ∧ ((roundFin f32 .rne false 1 3 0).1 % 2 ^ 31 ≥ 2 ^ 23 ∧ (roundFin f32 .rne false 1 1 (-140)).1 % 2 ^ 31 < 2 ^ 23
        ∧ (roundFin f32 .rne false 1 1 (-140)).1 % 2 ^ 31 ≠ 0) := by
  unfold staysBelow; and_intros <;> decide +kernel

/-- Finite values of either sign, zeros, infinities and NaNs. -/
theorem witness_ExactOperationsAndSpecialValues :
    let a := FVal.fin true 3 4 1
    let z := FVal.fin true 0 1 0
    let n := FVal.nan false 5
    (0 < 4 ∧ 0 < 1) ∧ a.isFin = true ∧ z.isFin = true ∧ a.rat ≠ 0 ∧ z.rat = 0 ∧ n.isNan = true ∧ (FVal.inf true).isNan = false ∧ (FVal.inf true).isFin = false
      ∧ a.below z = true ∧ z.below (.fin false 0 1 0) = false ∧ z.neg = true ∧ (FVal.fin false 0 1 0).neg = false ∧ (FVal.inf true).below a = true
      ∧ a.below n = false ∧ n.below a = false ∧ (5 : Nat) < 2 ^ 23
      ∧ (vF32 0x7F800001).isNan = true ∧ vF32 0x7F800000 = .inf false ∧ vF32 0xFF800000 = .inf true ∧ (vF32 0x80000000).rat = 0 ∧ (vF32 0xBF800000).rat < 0
      ∧ 0 < (vF32 0x40000000).rat ∧ (vF32 0x40000000).isFin = true := by
  and_intros <;> decide +kernel

/-- VCVT of each kind of source and destination; values that are NaN, zero by infinity, finite, and infinite by a nonzero one. -/
theorem witness_ConversionRows :
    let f (dst : BitVec 3) (aux : BitVec 6) : VR := vr 3 1 2 0 dst 1 aux
    (f 0 1).type ≠ 7 ∧ (f 0 1).aux.toNat % 8 ≤ 1 ∧ (f 6 0).type.toNat = 6 ∧ (f 5 0).type.toNat = 5 ∧ 2 ≤ (f 0 6).aux.toNat % 8 ∧ (f 0 6).aux.toNat % 8 ≠ 7
      ∧ (f 5 0x22).aux.getLsbD 5 = true ∧ (f 5 2).aux.getLsbD 5 = false ∧ (FVal.fin true 0 1 0).rat = 0 ∧ (FVal.inf true).isFin = false
      ∧ (vF32 0x3F800000).isFin = true ∧ (vF32 0x3F800000).rat ≠ 0 ∧ (vF32 0x7FC00000).isNan = true ∧ (vF32 0x7F800000).isNan = false
      ∧ (vF32 0x007FFFFF).isFin = true ∧ magnitude (vF32 0x007FFFFF).rat < (2 : Rat) ^ (-126 : Int) ∧ ¬magnitude (vF32 0x00800000).rat < (2 : Rat) ^ (-126 : Int) := by
  and_intros <;> decide +kernel

/-- A table of two segments over [1, 3): arguments below it, in its first and its last segment and past it; a tile and a pass of each kind. -/
theorem witness_TreesChainsAndSegments :
    let tab : SfuTable := (Ctx.reset.tables.getD 0 (Vector.replicate 260 0)).setIfInBounds 1 0x42000000
    let t (x : W32) : Rat := ((vF32 x).rat - (vF32 (tab.getD 0 0)).rat) * (vF32 (tab.getD 1 0)).rat
    (vF32 (tab.getD 0 0)).isFin = true ∧ (vF32 (tab.getD 1 0)).isFin = true ∧ (t 0).floor = 0 ∧ (t 0x3FFFFFFF).floor = 63 ∧ 63 < (t 0x40000000).floor
      ∧ (t 0xBF800000).floor < 0 ∧ (vF32 0x7FC00000).isNan = true ∧ vF32 0xFF800000 = .inf true ∧ (vF32 0x7F800000).isFin = false
      ∧ Shadow.reset.act = 0 ∧ ({ Shadow.reset with act := 1, tern := true } : Shadow).act ≠ 0 ∧ (64 : Nat) ≤ ({ Shadow.reset with nc := 64 } : Shadow).nc.toNat := by
  and_intros <;> decide +kernel

/-- One access of each kind that may be performed at its pool or its unit; pair 5 holds an entry, pair 0 does not. -/
theorem witness_PoolMailboxAndJoinWordsArePerformed :
    let mail (k : AccessKind) (p : Pair) : State := { accessOf k [] 3 false [] with pairs := [(5, p)] }
    let entry := entryBytes 2 0 0 0 0 0 5 0 0 []
    (∀ fn < 4, ∀ ty < 4, ready (accessOf (.pool fn ty 0 64 128 4 5 0 0) [(.pool 3, 64, 4)] 3 false []) = true)
      ∧ ready (accessOf (.pool 2 1 0 64 0 0 5 0 0) [(.pool 3, 64, 0)] 3 false []) = true
      ∧ ready (mail (.mbrecv 256 5 2 1 6) { Pair.reset with obs := [entry] }) = true ∧ entry.length = 256
      ∧ (∀ st ∈ [0, 2, 3, 4], ready (mail (.mbsend 5 entry 6) { Pair.reset with state := st }) = true)
      ∧ ready (mail (.mbstat 5 6) Pair.reset) = true
      ∧ ready (accessOf (.tstat 64 6) [(.pool 0, 64, 8)] 1 false []) = true ∧ ready (accessOf (.jcadd 64 1 6) [(.pool 0, 64, 8)] 4 false []) = true
      ∧ ready { accessOf (.jcnew 64 0 [] 6) [(.pool 0, 64, 8)] 2 false [] with launch := some launch0 } = true
      ∧ (accessOf (.tstat 64 6) [(.pool 0, 64, 8)] 1 false []).held = [] := by
  and_intros <;> decide

/-! ### Witnesses: camp cores -/

/-- Camp core 0 in an episode of pair 0, which is in a state; x1 is 64, x2 is 224, x3 is 1, x4 is 512. -/
def episode (pair machine : Nat) : State :=
  let k := { Camp.reset with running := true, machine := decide (machine = 1), episode := some 0, winA := (0, 1024)
                             x := (((Camp.reset.x.setIfInBounds 1 64).setIfInBounds 2 224).setIfInBounds 3 1).setIfInBounds 4 512 }
  { campState k with pairs := [(0, { Pair.reset with state := pair })] }

/-- A budget that the count has reached, or not. -/
def watched (count : W32) : State :=
  { campState { (episode 1 0).camp 0 with budget := 5, count := count } with pairs := [(0, { Pair.reset with state := 1 })] }

theorem witness_CampExtension :
    let m := (episode 1 1).camp 0
    let u := (episode 1 0).camp 0
    let d := (episode 0 1).bytes (.camp 0) 64 32
    (campState Camp.reset |>.camp 0).episode = none ∧ u.machine = false ∧ u.episode.isSome = true ∧ u.accessTrap false (u.r 1) 224 32 = none
      ∧ 2 ^ 9 ≤ (u.r 4).toNat ∧ (u.r 2).toNat < 2 ^ 9 ∧ (u.r 2).toNat % 256 ≤ 224
      ∧ ((episode pairENDED 0).pair ((episode pairENDED 0).campPair 0)).state = pairENDED
      ∧ ((episode pairACT 0).pair 0).state = pairACT ∧ pairACT ≠ pairENDED ∧ pairACT ≠ pairIDLE ∧ pairACT ≠ pairOBS ∧ pairACT ≠ pairTAKE
      ∧ ((episode pairOBS 0).pair 0).state = pairOBS ∧ ((episode pairTAKE 0).pair 0).state = pairTAKE ∧ u.accessTrap true (u.r 1) 256 32 = none
      ∧ m.machine = true ∧ m.episode = some 0 ∧ m.accessTrap false (m.r 1) 32 32 = none ∧ 2 ≤ (m.r 2).toNat ∧ m.r 3 = 1
      ∧ descriptorOk d = true ∧ entryField d 0 2 = 0 ∧ ((episode 1 1).pair 0).state ≠ pairIDLE ∧ ((episode 0 1).pair 0).state = pairIDLE
      ∧ ((watched 5).camp 0).episode.isSome = true ∧ ((watched 5).pair ((watched 5).campPair 0)).state = pairOBS ∧ ((watched 5).camp 0).budget ≠ 0
      ∧ ((watched 5).camp 0).budget.toNat ≤ ((watched 5).camp 0).count.toNat ∧ ((watched 4).camp 0).count.toNat < ((watched 4).camp 0).budget.toNat := by
  and_intros <;> decide +kernel

/-- A switch at 64 without START, from the descriptor at 0, at 64 and at 40; a camp core in user mode whose cycles count. -/
theorem witness_CampExtension_switch :
    let m (e : Option Nat) : Camp := { (episode 1 1).camp 0 with episode := e }
    ((m none).r 0 = 0 ∧ (m none).episode = none) ∧ (0 + 28 ≤ 64) ∧ (m (some 64)).r 1 = 64 ∧ (m (some 36)).episode = some 36 ∧ 36 + 28 ≤ 64
      ∧ (episode pairOBS 0).campCounts 0 = true ∧ (episode pairACT 0).campCounts 0 = false
      ∧ (∃ p ∈ [pairENDED, pairIDLE], ((episode p 1).pair ((episode p 1).campPair 0)).state = p)
      ∧ ((campState { (episode 1 0).camp 0 with budget := 0 }).camp 0).budget = 0 := by
  and_intros <;> decide

theorem witness_CampBaseInstructions :
    let k := (episode 1 1).camp 0
    k.allows k.dataUser 64 8 = true ∧ 64 % 8 = 0 ∧ (k.r 1 + (0 : BitVec 12).signExtend 64).toNat = 64
      ∧ k.allows k.dataUser (k.r 0 + (0xFF8 : BitVec 12).signExtend 64).toNat 8 = false ∧ (k.r 0 + (0xFF8 : BitVec 12).signExtend 64).toNat % 8 = 0
      ∧ (8 : BitVec 12).toNat % 32 = (8 : BitVec 5).toNat ∧ k.machine = true := by
  and_intros <;> decide

/-! ### Witnesses: the host, pages, power -/

/-- A device that master 3 owns, with a command in CMD, and one under way or not. -/
def owned (cmd : List Byte) (busy : Bool) : State :=
  { State.reset with owner := some 3, cmd := cmd ++ List.replicate (64 - cmd.length) 0, cmdRun := if busy then some (5, .start) else none }

theorem witness_OwnershipAndControlBlock :
    let e : State := { State.reset with election := some 5, claims := [(3, 1, 7), (2, 1, 8)], now := 5 }
    State.reset.owner = none ∧ (owned [] false).owner.isSome = true ∧ e.election = some 5 ∧ e.claims ≠ [] ∧ (5 : Nat) ≤ e.now
      ∧ ({ e with now := 4 } : State).now < 5 ∧ (owned [] false).owner = some 3 ∧ (owned [] false).cmd.length = 64
      ∧ ((5 : W64).setWidth 8 : BitVec 8) = 5 ∧ (owned [] true).cmdRun.isSome = true ∧ (owned [] false).cmdRun = none
      ∧ commandOf (owned (toBytes 8 3) false).cmd = some .start ∧ commandOf (owned [] false).cmd = none ∧ (owned [] false).owner ≠ some 2 := by
  and_intros <;> decide

/-- Bytes in host memory. -/
def hosted (bs : List Byte) (s : State) : State := placed .host 0x100 bs s

/-- The first 320 bytes of a launch configuration; the others are zeros. -/
def configBytes : List Byte :=
  let die (d : Nat) : List Byte := toBytes 8 (0x100000 + 0x10000 * d) ++ toBytes 4 64 ++ toBytes 4 1 ++ toBytes 8 (0x200000 + 64 * d)
    ++ toBytes 8 (0x210000 + 0x8000 * d) ++ List.replicate 32 0
  toBytes 4 0x47464E43 ++ toBytes 4 1 ++ toBytes 8 9472 ++ toBytes 8 0 ++ toBytes 8 0x40000 ++ toBytes 8 0x80000 ++ toBytes 4 4 ++ List.replicate 20 0
    ++ (upTo 4).flatMap die

/-- A kernel image of one word of code without buffers, with its CRC. -/
def imageBytes : List Byte :=
  toBytes 8 0x00800001_4B575A4F ++ toBytes 8 136 ++ toBytes 8 128 ++ toBytes 8 8 ++ toBytes 8 0 ++ toBytes 8 128 ++ toBytes 8 0 ++ toBytes 8 128
    ++ toBytes 8 0 ++ toBytes 8 128 ++ toBytes 8 0 ++ toBytes 8 0x1E76CC3E ++ List.replicate 32 0 ++ toBytes 8 0x92000C1080000000

/-- A launched device whose host memory holds bytes. -/
def loading (bs : List Byte) : State := hosted bs (atWork State.reset)

theorem bytes_hosted (k : Nat) : (hosted configBytes State.reset).bytes .host 0x100 (320 + k) = configBytes ++ List.replicate k 0 := by
  have hl : configBytes.length = 320 := by decide
  have hm : (hosted configBytes State.reset).mem = Memory.putRun [] (cellKey .host 0x100) configBytes := rfl
  rw [State.bytes, hm, Memory.run, upTo, List.range_add, List.map_append, List.map_map]
  have append {a b c d : List Byte} (h : a = c) (g : b = d) : a ++ b = c ++ d := by rw [h, g]
  refine append ?_ ?_
  · have := Memory.run_putRun [] (cellKey .host 0x100) configBytes
    rw [Memory.run, upTo, hl] at this
    exact this
  · apply List.ext_getElem
    · simp
    · intro i _ _
      simp only [List.getElem_map, List.getElem_range, Function.comp, List.getElem_replicate]
      exact Memory.get_putRun_of_not [] _ _ _ (by rw [hl]; right; exact Nat.add_le_add_left (Nat.le_add_right 320 i) _)

/-- The windows and the peer tables of that configuration are all zeros. -/
theorem launchOf_configBytes : (launchOf configBytes).windows = List.replicate 512 (0, 0, 0, 0)
    ∧ (launchOf configBytes).peers = List.replicate 15 (List.replicate 8 0) := by
  have hl : configBytes.length = 320 := by decide
  have past (o n : Nat) (h : 320 ≤ o) : entryField configBytes o n = 0 := entryField_past n (by rw [hl]; exact h)
  constructor
  · apply List.ext_getElem
    · simp [launchOf, upTo]
    · intro i _ _
      simp only [launchOf, upTo, List.getElem_map, List.getElem_range, List.getElem_replicate]
      rw [past _ _ (by omega), past _ _ (by omega), past _ _ (by omega), past _ _ (by omega)]
  · apply List.ext_getElem
    · simp [launchOf, upTo]
    · intro i _ _
      simp only [launchOf, upTo, List.getElem_map, List.getElem_range, List.getElem_replicate]
      apply List.ext_getElem
      · simp
      · intro j _ _
        simp only [List.getElem_map, List.getElem_range, List.getElem_replicate]
        rw [past _ _ (by omega)]
        rfl

theorem witness_LoaderAndLaunch_config :
    State.reset.noWork = true ∧ configOk ((hosted configBytes State.reset).bytes .host 0x100 9472) = true
      ∧ configOk (State.reset.bytes .host 0x100 16) = false ∧ (queuing runCtx []).noWork = false := by
  refine ⟨by decide, ?_, by decide +kernel, by decide⟩
  rw [bytes_hosted 9152, configOk_append_zeros]
  unfold configOk
  dsimp only
  rw [launchOf_configBytes.1, launchOf_configBytes.2]
  decide +kernel

theorem witness_LoaderAndLaunch :
    State.reset.launch = none ∧ (atWork State.reset).launch = some launch0 ∧ launch0.asroot ≠ 0
      ∧ imageRefusal ((loading []).bytes .host 0x100 136) ≠ 0 ∧ imageRefusal ((loading imageBytes).bytes .host 0x100 136) = 0
      ∧ State.reset.image = none ∧ (atWork { State.reset with image := some ⟨0, [], (0, 0)⟩ }).pushRoom 0 = true ∧ State.reset.clusterOn 0 = true
      ∧ ({ State.reset with powers := [(0, .gated)] } : State).clusterOn 0 = false ∧ (3 : Nat) < 4 ∧ (31 : Nat) < 32
      ∧ ({ State.reset with started := true } : State).started = true ∧ (∃ k ∈ (on runCtx).ctxs, k.2.unit = some handledUnit)
      ∧ (∃ c ∈ (queuing Ctx.reset [unitFor 0]).cores, unitFor 0 ∈ c.2.ready) := by
  and_intros
  all_goals first | exact ⟨_, List.mem_singleton.2 rfl, rfl⟩ | exact ⟨_, List.mem_singleton.2 rfl, List.mem_singleton.2 rfl⟩ | decide +kernel

theorem bytes_loading : (loading imageBytes).bytes .host 0x100 136 = imageBytes := Memory.run_putRun [] (cellKey .host 0x100) imageBytes

/-- Wherever the loader's places are, this image finds them. -/
theorem witness_LoaderAndLaunch_place :
    ∃ t, (loading imageBytes).placeImage launch0 ((loading imageBytes).bytes .host 0x100 136) = some t := by
  have hw : ∀ i < 512, (loading imageBytes).word .dev (0x1000 + 8 * i) 8 = 0 := by
    intro i hi
    have get (j : Nat) (hj : j < 8) : (loading imageBytes).mem.get (cellKey .dev (0x1000 + 8 * i) + j) = 0 :=
      Memory.get_putRun_of_not [] _ _ _ (.inl (by simp only [cellKey, Region.index]; omega))
    have : (loading imageBytes).bytes .dev (0x1000 + 8 * i) 8 = List.replicate 8 0 := by
      apply List.ext_getElem
      · simp [State.bytes, Memory.run, upTo]
      · intro j hj _
        simp only [State.bytes, Memory.run, upTo, List.getElem_map, List.getElem_range, List.getElem_replicate]
        exact get j (by simpa [State.bytes, Memory.run, upTo] using hj)
    rw [State.word, this]
    rfl
  have hm := (loading imageBytes).mappedFrom_empty 4 0x1000 0 hw
  have hl : (loading imageBytes).loader launch0 = ⟨loading imageBytes, launch0.regions ++ [] ++ [(0x1000, 4096)] ++ [], [] ++ []⟩ := by
    unfold State.loader
    rw [show launch0.asroot = 0x1000 from rfl, hm]
    rfl
  rw [bytes_loading]
  apply State.placeImage_some
  · decide +kernel
  · rw [hl]
    decide +kernel
  · rw [hl]
    decide
  · decide +kernel

/-- An outstanding fault of a parked copy of the context. -/
def faultOf (tok : BitVec 16) : OpenFault := ⟨5, 0, 0, 0, some tok⟩

theorem witness_CommandsOnUnits :
    let h := atWork (on { runCtx with state := .halted })
    let r := atWork (on runCtx)
    h.me.state = .halted ∧ h.saveRoom 0 0 = true ∧ r.me.state ≠ .halted ∧ runCtx.running = true ∧ r.saveRoom 0 0 = true ∧ (on runCtx).saveRoom 0 0 = false
      ∧ runCtx.unit = some handledUnit ∧ runCtx.state = .running ∧ r.recordRoom = true ∧ (on runCtx).launch.isNone = true ∧ Ctx.reset.unit = none
      ∧ r.allQueued = [] ∧ r.openFaults = [] ∧ r.saves = [] := by
  and_intros <;> decide +kernel

theorem witness_CommandsOnUnits_retained :
    let r := { atWork (on { runCtx with state := .retained true }) with powers := [(0, .retained)] }
    r.me.state = .retained true ∧ r.powerOf (clusterOf 0) = .retained ∧ r.saveRoom 0 0 = true
      ∧ (on { runCtx with state := .stopping false true 4 }).me.state = .stopping false true 4 := by
  and_intros <;> decide +kernel

theorem witness_CommandsOnUnits_replies :
    let p := { engine runCtx [(0, { inCmd 0 0 with state := .parked })] with openFaults := [faultOf 1] }
    let f := { atWork (on runCtx) with saves := [{ area0 with final := true }] }
    p.openFaults.find? (fun f => decide (f.tag = 5)) = some (faultOf 1) ∧ (faultOf 1).token = some 1 ∧ (faultOf 1).core = 0 ∧ (faultOf 1).x = 0
      ∧ p.savedUnit 0 0 0 = none ∧ runCtx.gen = (faultOf 1).gen ∧ ((p.core 0).copyOf 0 1).map Cmd.state = some .parked
      ∧ f.saves.map (fun w => (w.addr, w.final)) = [(0x1000000, true)] := by
  and_intros <;> decide

/-- A device with one page, at address 0, that migrates or does not. -/
def pageState (migrating : List (Nat × Nat × Option Nat)) : State := { paged (atWork State.reset) with migrating := migrating }

/-- That page. -/
def page0 : PageMap := ⟨0, 0x4000000, 0, 0x4000000, 0, true, true, false⟩

theorem witness_PagesMigrate :
    let idle := pageState [(0, 5, none)]
    let pinned := { idle with ctxs := [(0, { runCtx with extents := runCtx.extents.setIfInBounds 0 ⟨0, 256, 0x4000000, true, true⟩ })] }
    (atWork State.reset).pageOf 0 = none ∧ (pageState []).pageOf 0 = some page0 ∧ (255 : Nat) < 256
      ∧ ({ pageState [] with settled := [(0, 4097, 5)] } : State).isSettled 0 = true ∧ ({ pageState [] with settled := [(0, 4096, 5)] } : State).isSettled 0 = false
      ∧ (∀ n ∈ [3, 4], (({ pageState [] with migrated := List.replicate n (0, 4000) } : State).migrated.filter fun p =>
          decide (p.1 = page0.vbase ∧ 4096 < p.2 + migrationWindow)).length = n)
      ∧ idle.migrating.find? (fun p => decide (p.1 = 0)) = some (0, 5, none) ∧ idle.pageOf 0 = some page0 ∧ idle.pins page0 = false
      ∧ idle.pageInUse page0 = false ∧ pinned.pins page0 = true ∧ pinned.pageOf 0 = some page0
      ∧ (pageState [(0, 5, some 4096)]).migrating.find? (fun p => decide (p.1 = 0)) = some (0, 5, some 4096)
      ∧ (pageState [(0, 5, some 4096)]).now = 4096 ∧ (pageState [(0, 5, some 4096)]).pins page0 = false
      ∧ ({ pageState [] with settled := [(0, 4096, 5)] } : State).settled.find? (fun p => decide (p.1 = 0 ∧ p.2.1 ≤ 4096)) = some (0, 4096, 5) := by
  and_intros <;> decide +kernel

/-- A place for the page on another device, whichever number this one has (R370). -/
theorem witness_PagesMigrate_place : ∃ d < 256, ∃ r o, (pageState [(0, d, some 4096)]).migrationPlace page0 d = some (r, o) := by
  have place (d : Nat) (h : d ≠ Config.selfDevice) : ∃ r o, (pageState [(0, d, some 4096)]).migrationPlace page0 d = some (r, o) := by
    have hl : (pageState [(0, d, some 4096)]).launch = some launch0 := rfl
    unfold State.migrationPlace
    rw [hl]
    dsimp only
    rw [if_neg h]
    exact ⟨_, _, rfl⟩
  by_cases h : 5 = Config.selfDevice
  · exact ⟨6, by decide, place 6 (by omega)⟩
  · exact ⟨5, by decide, place 5 h⟩

theorem witness_ResetsAndHostAccesses :
    let r : State := { State.reset with memready := true, fusedRepairs := [(0, 7, 0)] }
    let q : State := { r with retiring := [(0, 0)] }
    State.reset.memready = false ∧ r.memready = true ∧ 64 + 8 ≤ deviceLimit ∧ deviceLimit < deviceLimit - 7 + 8 ∧ r.quiesced 64 8 = false
      ∧ (stackOf 0).2.1 = 0 ∧ q.quiesced 0 8 = true ∧ (0, 0) ∉ r.retiring ∧ (r.spareOf 0).isSome = true ∧ (0, 0) ∈ q.retiring ∧ q.spareOf 0 = some 1
      ∧ ({ r with repaired := (upTo 8).map fun i => (0, i, i) } : State).spareOf 0 = none ∧ (23 : Nat) < 24 ∧ (255 : Nat) < 256
      ∧ (let i := Instr.hostBar2Access 64 none 8
         let s : State := { r with inputs := [(0, i)] }
         s.inputs.find? (fun e => decide (e.1 ≤ s.now ∧ e.2 = i)) = some (0, i)) := by
  and_intros <;> decide +kernel

/-- Cluster 0 in a power state, core 0's primary context in a state of its own. -/
def powered (p : Power) (c : CtxState) : State := { atWork (on { runCtx with state := c }) with powers := [(0, p)] }

/-- The same cluster with nothing to run, and a record on its way to it that arrives now, later, or not at all. -/
def emptied (p : Power) (l : List Nat) : State :=
  { atWork State.reset with powers := [(0, p)], transits := l.map fun n => ⟨3, unitFor 0, 0, n⟩ }

theorem witness_ClocksPowerAndRetention :
    let k := { Core.reset with cadHold := some 4096, mxcad := 1 }
    Core.reset.cadHold = none ∧ k.cadHold = some 4096 ∧ (15 : Nat) < 16 ∧ (4096 : Nat) ≤ (atWork State.reset).now ∧ (4095 : Nat) < 4096
      ∧ Core.reset.pinned = false ∧ ({ Core.reset with pinned := true } : Core).pinned = true
      ∧ (powered .on .running).powerOf 0 = .on ∧ ((powered .on .running).ctx 0 0).running = true ∧ clusterOf 0 = 0
      ∧ (powered (.exiting 9) (.retained false)).powerOf 0 = .exiting 9 ∧ ((powered (.exiting 9) (.retained false)).ctx 0 0).state = .retained false
      ∧ ((powered (.exiting 9) (.retained true)).ctx 0 0).state = .retained true ∧ (powered .on .running).gateable 0 = false
      ∧ (powered (.waking 9) .free).powerOf 0 = .waking 9
      ∧ (emptied .on []).gateable 0 = true ∧ (emptied .on []).flying 0 = 0 ∧ (emptied .on [5000]).flying 0 = 1 ∧ (emptied .gating [5000]).powerOf 0 = .gating
      ∧ (emptied .gating [5000]).gateable 0 = true ∧ (emptied .gating [5000]).reachedNow 0 = false ∧ (emptied .gating [4096]).reachedNow 0 = true := by
  and_intros <;> decide

/-- Ten reports of 3,600 W in 10 ms, and of a milliwatt less in all; the junction temperatures are the configuration's. -/
theorem witness_ClocksPowerAndRetention_envelope :
    ({ State.reset with supply := List.replicate 91 3600000 } : State).overEnvelope = true
      ∧ ({ State.reset with supply := 3599999 :: List.replicate 90 3600000 } : State).overEnvelope = false := by
  and_intros <;> decide

/-- Where the configuration's sensors stay below their limit, the backstop does nothing. -/
theorem witness_ClocksPowerAndRetention_cool (h : ∀ d i, Config.junction 0 d i < Config.junctionLimit) : State.reset.overheated = false := by
  simp only [State.overheated, List.any_eq_false]
  intro d _ hd
  simp only [List.any_eq_true, decide_eq_true_eq] at hd
  obtain ⟨i, _, hi⟩ := hd
  exact absurd (h d i) (Nat.not_lt.2 hi)
/-! ### Decoding: words of the manual's examples, field by field -/

/-- The operation of a word, its slot set holding its slot, its fields well formed. -/
def holds (w : W64) (i : Instr) : Bool := decide ((decodeOp w).op = i) && (decodeOp w).wf

/-- spec/05 R46 and the worked bundle after it; spec/09 R130 and REP's example; spec/14 for X and E. -/
theorem test_decode_scalar :
    holds 0x92000C1080000000 (.add ⟨3, 1, 2, 0, 0, 0⟩) = true ∧ holds 0x1210145FFFFFFFC0 (.addi ⟨5, 5, 0xFFFFFFFC0⟩) = true
      ∧ holds 0x9220200000000000 (.li ⟨8, 0, 0⟩) = true ∧ holds 0x001400103D400000 (.or ⟨0, 1, 0, 61, 4, 0⟩) = false
      ∧ holds 0x90501E0000000000 (.rep ⟨7, 32, 0⟩) = true := by decide

/-- spec/05, spec/06, spec/11, spec/22. -/
theorem test_decode_memory :
    holds 0xA380101000401800 (.ld ⟨4, 1, 0x40, 0, 3, 0, 0, 0, 0, 0⟩) = true ∧ holds 0xA390184001009898 (.st ⟨6, 4, 0x100, 4, 3, 0, 2, 3, 0, 0⟩) = true
      ∧ holds 0xA380242000401004 (.ld ⟨9, 2, 0x40, 0, 2, 0, 0, 0, 2, 0⟩) = true ∧ holds 0xA3A0184000087110 (.amoadd ⟨6, 4, 8, 3, 2, 0, 4, 2, 0, 0⟩) = true
      ∧ holds 0xA39034C000007898 (.st ⟨13, 12, 0, 3, 3, 0, 2, 3, 0, 0⟩) = true := by decide

/-- spec/06, spec/13. -/
theorem test_decode_vector :
    holds 0xBC10088640408200 (.vfma ⟨1, 2, 3, 4, 0, 0, 0, 1, 0, 0, 0, 0, 0, 1, 0, 2, 0, 0⟩) = true
      ∧ holds 0xB400298E04000020 (.vadd ⟨5, 6, 7, 0, 2, 0, 0, 0, 0, 0, 0, 0, 0, 0, 0, 0, 0, 32⟩) = true
      ∧ holds 0xC5A0124000000000 (.vredR ⟨2, 9, 0, 0, 0, 0, 0, 0, 0, 0, 0, 0, 0, 0, 0, 0, 0, 0⟩) = true
      ∧ holds 0xD6003A8000080800 (.vld ⟨7, 20, 4, 0, 1, 0, 0, 0, 0, 0⟩) = true
      ∧ holds 0xB43008C800000002 (.vcmpqAny ⟨1, 3, 4, 0, 0, 0, 0, 0, 0, 0, 0, 0, 0, 0, 0, 0, 0, 2⟩) = true := by decide

/-- spec/15, spec/17. -/
theorem test_decode_matrix :
    holds 0xE680005160000002 (.mxloop ⟨0, 0, 0, 0, 0, 10, 11, 0, 2⟩) = true ∧ holds 0xE6A00028C00007F5 (.mxfmt ⟨0, 0, 0, 0, 0, 5, 6, 0, 0x7F5⟩) = true
      ∧ holds 0xE6C100A2A000000B (.mxwstrm ⟨0, 0, 0, 0, 0, 20, 21, 0, 0xB⟩) = true ∧ holds 0xE6D0160000000000 (.mxgo ⟨0, 0, 0, 1, 3, 0, 0, 0, 0⟩) = true
      ∧ holds 0xE6E0005166000000 (.mxnorm ⟨0, 0, 0, 0, 0, 10, 11, 12, 0⟩) = true ∧ holds 0xE6E1000000000000 (.msbuild ⟨0, 0, 0, 0, 0, 0, 0, 0, 0⟩) = true
      ∧ holds 0xE6E200A2AB000000 (.mxsmp ⟨0, 0, 0, 0, 0, 20, 21, 22, 0⟩) = true ∧ holds 0xE6E30028C0000000 (.mxstat ⟨0, 0, 0, 0, 0, 5, 6, 0, 0⟩) = true := by
  decide

/-- spec/19, spec/20. -/
theorem test_decode_copy :
    holds 0xF700105166066800 (.cpin ⟨0, 0, 0, 1, 0, 10, 11, 12, 3, 13, 0, 0, 0⟩) = true ∧ holds 0xF7520000000A7000 (.barwait ⟨0, 0, 0, 0, 0, 0, 0, 0, 5, 14, 0, 0, 0⟩) = true
      ∧ holds 0xF7530000078A7001 (.barwaitT ⟨0, 0, 0, 0, 0, 0, 0, 15, 5, 14, 0, 0, 1⟩) = true
      ∧ holds 0xF73010C32D04D800 (.cpmc ⟨0, 0, 0, 1, 0, 24, 25, 26, 2, 27, 0, 0, 0⟩) = true := by decide

/-- spec/14, spec/23, spec/28. -/
theorem test_decode_tasks :
    holds 0x81002C0000000000 (.fork ⟨11, 0, 0, 0⟩) = true ∧ holds 0xB1100000000000FF (.join ⟨0, 0, 0, 0xFF⟩) = true
      ∧ holds 0x8780280000000000 (.spawn ⟨10, 0, 0, 0⟩) = true ∧ holds 0x878128B000000000 (.spawnD ⟨10, 11, 0, 0⟩) = true
      ∧ holds 0x8782300000000000 (.spawnop ⟨12, 0, 0, 0⟩) = true ∧ holds 0x8790000000000000 (.tend ⟨0, 0, 0, 0⟩) = true
      ∧ holds 0x8791280000000000 (.tcont ⟨10, 0, 0, 0⟩) = true ∧ holds 0x8792000000000000 (.tyield ⟨0, 0, 0, 0⟩) = true
      ∧ holds 0x8793000140000000 (.tstat ⟨0, 0, 5, 0⟩) = true ∧ holds 0x87A0515580000003 (.jcnew ⟨20, 21, 22, 3⟩) = true
      ∧ holds 0x87A15185C0000000 (.jcadd ⟨20, 24, 23, 0⟩) = true ∧ holds 0xF7B028B140000003 (.mbrecv ⟨10, 11, 5, 3⟩) = true := by decide

/-- spec/28: the camp extension's words. -/
theorem test_decode_camp :
    decodeCamp 0x0005B50B = .epSwitch 10 11 0 ∧ decodeCamp 0x0005950B = .mbTake 10 11 ∧ decodeCamp 0x0000550B = .epEnd 10
      ∧ decodeCamp 0x00C5850B = .mbPost 10 11 12 ∧ decodeCamp 0x0000250B = .mbPeek 10 ∧ decodeCamp 0x0005C50B = .epWdset 10 11
      ∧ decodeCamp 0x00C5950B = .campCoreInstruction 0x00C5950B := by decide

/-- The rows of the table are the camp extension's; a word of a bundle takes 64 bits. -/
theorem test_decodeTableWord :
    decodeTableWord 32 0x00C5850B = some (.mbPost 10 11 12) ∧ decodeTableWord 64 0x92000C1080000000 = some (.add ⟨3, 1, 2, 0, 0, 0⟩)
      ∧ decodeTableWord 16 0 = none := by decide

/-! ### Words that the checks of R66 turn away -/

/-- spec/06: a word of an unassigned major or function, in a slot that its major may not use, with a reserved field or code. -/
theorem test_ill_formed_words :
    isUnassigned (decodeOp 0xE6F0000000000000).op = true ∧ isUnassigned (decodeOp 0x8014000000000000).op = true
      ∧ (slotSet (decodeOp 0xDC10088640408200).op).getLsbD 5 = false ∧ (slotSet (decodeOp 0xEF40000000000000).op).getLsbD 6 = false
      ∧ (slotSet (decodeOp 0xE770000000000000).op).getLsbD 6 = false ∧ (decodeOp 0xA390184001009858).op.wf = false
      ∧ (decodeOp 0xA390184001009899).op.wf = false ∧ (decodeOp 0xBC1008864E408200).op.wf = false ∧ (decodeOp 0xB400088604008000).op.wf = false := by
  decide

/-- A term for each format's own check, refused: SQ (R50), REP (R51), SR (R52, R53), SI (R54, R69), SM (R55, R56), VR (R57, R58), VM (R59, R60), MC
(R61), CC (R62), TS (R63). -/
theorem test_ill_formed_fields :
    (Instr.nop ⟨1, 0, 0, 0, 0⟩).wf = false ∧ (Instr.br ⟨0, 0, 5, 0, 0⟩).wf = false ∧ (Instr.lcrd ⟨0, 4, 0, 0, 0⟩).wf = false
      ∧ (Instr.rep ⟨0, 0, 1⟩).wf = false ∧ (Instr.add ⟨3, 1, 2, 1, 0, 0⟩).wf = false ∧ (Instr.cmp ⟨3, 1, 2, 0, 10, 0⟩).wf = false
      ∧ (Instr.fcmp ⟨3, 1, 2, 0, 4, 0⟩).wf = false ∧ (Instr.li ⟨8, 1, 0⟩).wf = false ∧ (Instr.csrr ⟨8, 0, 0x009⟩).wf = false
      ∧ (Instr.csrw ⟨8, 1, 0x020⟩).wf = false ∧ (Instr.ld ⟨4, 1, 0, 5, 3, 0, 0, 0, 0, 0⟩).wf = false ∧ (Instr.ld ⟨4, 1, 0, 4, 3, 0, 0, 0, 1, 0⟩).wf = false
      ∧ (Instr.amoadd ⟨4, 1, 0, 1, 3, 0, 1, 0, 0, 0⟩).wf = false ∧ (Instr.vadd (vr 1 2 3 1 2 0 0)).wf = false
      ∧ (Instr.vadd { vr 1 2 3 0 2 0 0 with na := 1 }).wf = false ∧ (Instr.vld (vm 1 1 0 0 0 3 0)).wf = false
      ∧ (Instr.vld { vm 1 1 0 0 0 0 0 with rsv := 1 }).wf = false ∧ (Instr.mxloop (mc 1 2 0 6)).wf = false ∧ (Instr.mxgo (mc 1 0 0 0)).wf = false
      ∧ (Instr.cpin (cc 1 2 3 4)).wf = false ∧ (Instr.barwait { cc 0 0 0 0 with src := 1 }).wf = false ∧ (Instr.cbset (ts 1 0 0 1)).wf = false
      ∧ (Instr.join (ts 0 0 0 256)).wf = false ∧ (Instr.unassignedEncoding 0).wf = false := by
  and_intros <;> decide


/-! ### Values that the manual works out -/

/-- spec/08, narrowing at the edges (R88, R89, R97). -/
theorem test_narrowing :
    cvtF32BF16 .rne 0x7F7FFFFF = (0x7F80, flagOVF ||| flagINX) ∧ cvtF32BF16 .rtz 0x7F7FFFFF = (0x7F7F, flagINX)
      ∧ cvtF32BF16 .rne 0x3F808000 = (0x3F80, flagINX) ∧ cvtF32BF16 .rne 0x3F818000 = (0x3F82, flagINX)
      ∧ cvtF32BF16 .rne 0x00008000 = (0, flagUNF ||| flagINX) ∧ cvtF32BF16 .rne 0xFF800001 = (0xFFC0, flagINV)
      ∧ cvtF32BF16 .rne 0x7FA12345 = (0x7FE1, flagINV) := by
  and_intros <;> decide +kernel

/-- spec/08: 127.5 and −128.5 to I8, a NaN to N8 (R97). -/
theorem test_convert :
    convertLane (vr 0 0 0 0 4 0 0) 0x42FF0000 = (127, flagINV) ∧ convertLane (vr 0 0 0 0 4 0 0) 0xC3008000 = (BitVec.ofInt 32 (-128), flagINX)
      ∧ convertLane (vr 0 0 0 0 5 0 0) 0x7FC00000 = (0, flagINV) := by
  and_intros <;> decide +kernel

/-- spec/08, FMA with a NaN addend (R90). -/
theorem test_fma_nan :
    let fma (a b c : W32) : W32 × BitVec 7 := rndF32 .rne (fmaV .rne (vF32 a) (vF32 b) (vF32 c))
    fma 0 0x7F800000 0xFFC01234 = (0xFFC01234, flagINV) ∧ fma 0 0x7F800000 0x7F800005 = (0x7FC00005, flagINV)
      ∧ fma 0 0x7F800000 0x3F800000 = (0x7FC00000, flagINV) ∧ fma 0x7FC00001 0x7F800000 0xFF800002 = (0x7FC00001, flagINV)
      ∧ (let f : VR := { vr 0 0 0 0 0 0 0 with nb := 1 }
         rndF32 .rne (fmaV .rne (f.srcA 0x3F800000) (f.srcB 0x7FC00010) (f.srcC 0x40000000))) = (0xFFC00010, 0) := by
  and_intros <;> decide +kernel

/-- spec/08, scale and clamp rounded once (R92). -/
theorem test_scale_clamp :
    let mul (f : VR) (a b : W32) : W32 × BitVec 7 := f.dest (mulV (f.srcA a) (f.srcB b))
    mul { vr 0 0 0 0 0 0 0 with scale := 8, clamp := 2 } 0x60000000 0x60000000 = (0x3F800000, 0)
      ∧ mul { vr 0 0 0 0 0 0 0 with clamp := 2 } 0x60000000 0x60000000 = (0x3F800000, flagOVF ||| flagINX)
      ∧ mul { vr 0 0 0 0 0 0 0 with scale := 8, clamp := 1 } 0x8D800000 0x21800000 = (0, flagUNF ||| flagINX) := by
  and_intros <;> decide +kernel

/-- spec/08 and R86's examples: ternary codes. -/
theorem test_trits :
    ([0, 1, 2, 3, 4].map (t5Trit 23)) = [-1, 1, -1, 0, 0] ∧ ([0, 1, 2, 3, 4].map (t5Trit 242)) = [-1, -1, -1, -1, -1]
      ∧ ([0, 1, 2, 3, 4].map (t5Trit 243)) = [0, 0, 0, 0, 0] ∧ t5Flag 243 = flagTCODE ∧ t5Flag 242 = 0 ∧ t2Dec 2 = (0, flagTCODE) := by
  decide

/-- spec/17, two draws with seed 1 (R233). -/
theorem test_draws :
    let x1 := xorshift 1
    let x2 := xorshift x1
    x1 = 0x00042021 ∧ x2 = 0x04080601 ∧ xorshift x2 = 0x9DCCA8C5 ∧ xorshift (xorshift x2) = 0x1255994F := by
  decide

/-! ### Steps on small states -/

/-- The results on their way in core 0's primary context after one operation. -/
def results (i : Instr) (s : State) : List Result :=
  match exec i s with
  | .next t => (t.ctx 0 0).pend.map (·.res)
  | _ => []

/-- R130: a constant of 64 bits in two operations. -/
theorem test_li_lih :
    results (.li ⟨8, 0, BitVec.ofInt 36 (-0x765432110)⟩) (on (regs [])) = [.scalar 8 0xFFFFFFF89ABCDEF0]
      ∧ results (.lih ⟨8, 8, 0x1234567⟩) (on (regs [(8, 0xFFFFFFF89ABCDEF0)])) = [.scalar 8 0x123456789ABCDEF0] := by
  decide

/-- spec/11: EXTQ with the extent entry of the worked addresses. -/
theorem test_extq :
    let k (n : W64) : Ctx := { regs [(17, 0x7F0000100008), (18, n)] with
      extents := Ctx.reset.extents.setIfInBounds 0 ⟨0x7F0000000000, 0x400000, 0x1200000000, true, true⟩ }
    results (.extq ⟨16, 17, 18, 0, 0, 0⟩) (on (k 8)) = [.scalar 16 0x8018001200100008]
      ∧ results (.extq ⟨16, 17, 18, 0, 0, 0⟩) (on (k 0x300000)) = [.scalar 16 0] := by
  decide +kernel

/-- A bundle of one ADD: the sum is on its way and the strand is past the bundle. -/
theorem test_step_add :
    (match Sys2Proof.Machine.step (runState addWord) with
      | .next t => decide ((t.ctx 0 0).pend.map (·.res) = [.scalar 3 42] ∧ (t.ctx 0 0).strands.map (·.pc) = [0x1008])
      | _ => false) = true := by
  decide +kernel

/-- The same word, and ADDI x1, x0, 5 of a camp core, as the first instruction after reset. -/
theorem test_step_first :
    (match Sys2Proof.Machine.step (State.reset.withFetchWord 64 addWord.toNat) with
      | .next t => decide ((t.ctx 0 0).pend.map (·.res) = [.scalar 3 0])
      | _ => false) = true
      ∧ (match Sys2Proof.Machine.step (State.reset.withFetchWord 32 0x00500093) with
        | .next t => decide ((t.camp 0).x.getD 1 0 = 5 ∧ (t.camp 0).pc = ((State.reset.withFetchWord 32 0x00500093).camp 0).pc + 4)
        | _ => false) = true := by
  and_intros <;> decide +kernel

/-! ### Witnesses: further clauses -/

/-- Infinite factors and addends of a fused multiply-add. -/
theorem witness_ExactOperationsAndSpecialValues_fused :
    let z := FVal.fin true 0 1 0
    let a := FVal.fin true 3 4 1
    let i := FVal.inf false
    (z.isFin = true ∧ z.rat = 0 ∧ i.isFin = false) ∧ (z.isNan = false ∧ i.isNan = false ∧ a.isNan = false)
      ∧ (a.isFin = true ∧ a.rat ≠ 0) ∧ (∀ n, ∃ k, FVal.inf n = .inf k) ∧ (a.sound ∧ z.sound ∧ i.sound) := by
  refine ⟨by decide +kernel, by decide, by decide +kernel, fun n => ⟨n, rfl⟩, ?_⟩
  and_intros
  all_goals first | trivial | exact Nat.succ_pos _

/-- Operands of pool instructions that one check turns away. -/
theorem witness_PoolInstructionsAndExtentQuery_faults :
    Issues poolState [sreg 1#6, sreg 4#6, sreg 2#6] [sreg 8#6] 0 ∧ Issues poolState [sreg 1#6, sreg 4#6] [sreg 8#6] 0
      ∧ Issues poolState [sreg 4#6, sreg 3#6] [sreg 8#6] 0 ∧ Issues poolState [sreg 5#6, sreg 3#6] [sreg 8#6] 0
      ∧ Issues poolState [sreg 1#6, sreg 3#6, sreg 5#6] [sreg 8#6] 0
      ∧ (poolState.rs 4#6).toNat % 4 ≠ 0 ∧ (poolState.rs 5#6).toNat % 4 = 0 ∧ ¬(poolState.rs 5#6).toNat < 2 ^ 28
      ∧ ¬poolState.me.inWindow (poolState.rs 5#6).toNat (poolState.rs 3#6).toNat = true := by
  unfold Issues; and_intros <;> decide

/-- Vector footprints of each kind: linear, tiled, trits in fours and fives, a pattern of three fields in four bytes. -/
theorem witness_VectorLoadResults_footprints :
    let p : BitVec 128 := 0x0000010003080804
    ((vm 0 0 0 5 0 0 1).pat = 0 ∧ (vm 0 0 0 5 0 0 1).mtype.toNat < 6 ∧ (vm 0 0 0 5 0 0 1).layout = 1) ∧ (vm 0 0 0 6 0 0 0).mtype.toNat = 6
      ∧ (vm 0 0 0 7 0 0 0).mtype.toNat = 7 ∧ (vm 0 0 0 0 1 0 0).pat ≠ 0 ∧ (vm 0 0 0 0 1 0 0).layout = 0 ∧ (vm 0 0 0 0 1 0 1).layout ≠ 0
      ∧ 0 < p.toNat / 256 ^ 3 % 256 ∧ 0 < p.toNat / 256 % 256 ∧ p.toNat / 256 % 256 ≤ 16 ∧ p.toNat / 256 ^ 5 % 256 ≤ 1 := by
  and_intros <;> decide

/-- A state with a packet on the way from core 0 to core 255. -/
def carrying (s : State) : State := { s with packets := [⟨0, 255, 0, 300⟩] }

theorem witness_SpawnSendsARecord_paths : PathsOk (carrying taskState) ∧ ¬(255 : Nat) = 0 ∧ PathsOk (carrying (endState true (.tend none) [])) := by
  unfold PathsOk; and_intros <;> decide

/-- The bundle of TYIELD at its end, in the last cycle of the control domain's cycle and before it. -/
theorem witness_BundleEnds_yield :
    let s := on runCtx
    let c := { s.cur with yield := true }
    c.yield = true ∧ c.trap = none ∧ c.halt = none ∧ c.tend = none ∧ runCtx.running = true ∧ s.ctxs = [] ++ (2 * c.core + c.x, runCtx) :: [] ∧ c.x < 2
      ∧ s.domainTime 0 0 % (s.core 0).divisor 0 = 0 ∧ (s.core 0).stretched.getLsbD 0 = false
      ∧ (let v := core0 { Core.reset with clkdiv := 1 } { s with now := 1 }
         ¬v.domainTime 0 0 % (v.core 0).divisor 0 = 0) := by
  refine ⟨rfl, rfl, rfl, rfl, rfl, rfl, by decide, by decide, by decide, by decide⟩

/-- A unit whose policy is KILL. -/
theorem witness_FaultsEnterTheHandler_kill :
    let k := { runCtx with unit := some (unitOfRecord []) }
    (on k).cur.mode = .whole ∧ k.strand? (on k).cur.strand = some (Strand.lockstep 0 0x1000 (some false)) ∧ k.unit = some (unitOfRecord [])
      ∧ k.handles true causeILLEGAL 5 = false ∧ (∀ a ∈ (on k).accs, ¬(a.core = 0 ∧ a.x = 0 ∧ a.gen = k.gen))
      ∧ (landing [flight 1 none none] 0).myCore.enginesQuiet 0 = false := by
  and_intros <;> decide

/-- Two operations of one cycle that raised flags. -/
theorem witness_WritebacksLand_ferec :
    let k := { runCtx with flagEvents := [(3, flagDZ, 0x1000), (1, 0x14, 0x1008)] }
    k.flagEvents ≠ [] ∧ k.ferec.getLsbD 63 = false ∧ (∀ e ∈ k.flagEvents, e.1 < 8 ∧ e.2.1 ≠ 0) ∧ runCtx.flagEvents = []
      ∧ ({ k with ferec := 0x8000000000000000 } : Ctx).ferec.getLsbD 63 = true := by
  and_intros <;> decide

/-- A load that has its value, beside an older entry of the same register. -/
theorem witness_AccessesArePerformed_results :
    let s := accessState (.load 8 5) (.pool 1) 64 0 true [.scalar 5 3]
    (s.access? 7).map (fun a => (a.done, a.results, a.dests)) = some (true, [.scalar 5 3], [(0, 5)]) ∧ (0 < 5 ∧ 5 < 64) := by
  and_intros <;> decide

/-- A strong LOCAL store that waits for what its bundle sent before it, and relaxed ones that wait for a release. -/
theorem witness_WaitsEnd_stores :
    let w (rel : Bool) : Wait := .store rel 64 [1, 2] true 1
    let s (rel : Bool) := waitState [.cb 4 true, w rel]
    let b := { s true with accs := [(on runCtx).access (.fence false true) [] 0 0 0 false false] }
    (∀ rel, (s rel).myStrand.waits = [.cb 4 true] ++ w rel :: []) ∧ (s true).accs = []
      ∧ (∃ a ∈ b.accs, (a.core = 0 ∧ a.x = 0 ∧ a.gen = b.me.gen) ∧ a.seq < 1 ∧ a.inOrder = true ∧ a.releases = true ∧ ¬a.done = true) := by
  refine ⟨by decide, rfl, _, List.mem_singleton.2 rfl, ?_⟩
  decide

/-- Queued matrix commands that start, or fail as they do. -/
theorem witness_EngineCommandsStart_matrix :
    let w (op : Instr) (v : List W64) : Cmd := { running op v with state := .waiting }
    let e (c : Cmd) : State := engine smpCtx [(1, c)]
    let zero := w (.mxzero (mc 1 2 0 0)) [512, 2, 0]
    let smp := w (.mxsmp (mc 1 2 3 0)) [0, 5, 0]
    (e zero).engineTick 0 2 = true ∧ (e zero).mayRun 0 0 = true ∧ zero.cad = 0 ∧ zero.guard = 0 ∧ (e zero).myCore.heldBanks &&& zero.banks = 0
      ∧ 0 < (zero.val 1).toNat ∧ (w (.mxdrain (mc 1 2 3 0)) [512, 64, 0]).cad = 0 ∧ runCtx.sampler.sk = 0 ∧ smpCtx.sampler.sk ≠ 0
      ∧ runCtx.sampler.built = false ∧ smpCtx.sampler.built = true ∧ smpCtx.inAcc (smp.val 0).toNat (512 * smpCtx.sampler.sm.toNat) = true
      ∧ smpCtx.inAcc 3145728 (512 * smpCtx.sampler.sm.toNat) = false ∧ smpCtx.msz = 0 ∧ (e smp).engineOn 0 0 = true ∧ (e smp).myCore.atHead 1 smp = true := by
  and_intros <;> decide

/-- A nest of two passes, and a gathered one. -/
def twoPasses : Shadow := { Shadow.reset with levels := Shadow.reset.levels.setIfInBounds 0 { (Shadow.reset.level 0) with count := 2 } }
def gathered (x : W32) : Shadow := { twoPasses with gather := true, idx := [x, 3] }

/-- The first of its passes, indices of either sign, and conversions of a drain. -/
theorem witness_MatrixPassesRun_passes :
    (∀ i : Nat → Nat, (∀ l < 6, i l = 0) → 0 = i 0 + 2 * (i 1 + 1 * (i 2 + 1 * (i 3 + 1 * (i 4 + 1 * i 5)))))
      ∧ (twoPasses.level 0).count.toNat = 2 ∧ (gathered 0xFFFFFFFF).gather = true ∧ ((gathered 0xFFFFFFFF).idx.getD 0 0).toInt < 0
      ∧ (gathered 5).idx.getD 0 0 = 5 ∧ ¬(5 : W32).toInt < 0 ∧ (mc 1 2 3 1).aux.toNat % 4 = 1 ∧ (mc 1 2 3 3).aux.toNat % 4 = 3 := by
  refine ⟨fun i h => by simp [h], by decide, by decide, by decide, rfl, by decide, by decide, by decide⟩

/-- Tiles that a pass takes, and tiles that it does not. -/
theorem witness_MatrixPassesRun_tiles :
    let s := passState (goCmd .running 0 0) (some tile0) .empty
    ((⟨1, 0, []⟩ : Tile).tag ≠ 0 ∧ Shadow.reset.pairs (⟨0, 3, []⟩ : Tile).fmt = false ∧ Shadow.reset.pairs tile0.fmt = true)
      ∧ (passState (goCmd .running 0 0) none (.failed 0)).me.wslots.getD 0 .empty = .failed 0
      ∧ s.localArrived 0 (goCmd .running 0 0) 0 512 = true ∧ s.engineLast 0 2 = true := by
  and_intros <;> decide +kernel

/-- MSBUILD over one term, of a finite sum and of an infinite one; MXWSTRM before and after its reads; a row of means. -/
theorem witness_MatrixCommandsComplete_products :
    let b (g : W32) : State := engine { smpCtx with sampler := { smpCtx.sampler with na := [g], nb := [0x3F800000] } } [(1, running (.msbuild (.ofBits 0)) [])]
    let w (pos : Nat) : Cmd := { running (.mxwstrm (mc 1 2 0 0)) [3, 0x10000, 0] with pos := pos }
    let s (pos : Nat) : State := engine (mapped runCtx) [(3, w pos)]
    (b 0).engineTick 0 2 = true ∧ (b 0).engineOn 0 0 = true ∧ (b 0).stage ≠ 4 ∧ 0 < (b 0).me.sampler.sk.toNat ∧ (b 0).myCore.noFlights 0 = true
      ∧ (∀ g : Nat → W32, ∃ z : Nat → W32, z 0 = g 0 ∧ ∀ i, z (i + 1) = (addF32 (z i) (g (i + 1))).1)
      ∧ (vF32 (mulF32 0 0x3F800000).1).isFin = true ∧ (vF32 (mulF32 0x7F800000 0x3F800000).1).isFin = false
      ∧ (vF32 (mulF32 0x40000000 0x3F800000).1).rat ≠ 0
      ∧ (mapped runCtx).place 0 4 0x10000 (tileBytes (w 0).tileFormat) true false = some (.dev, 0x400000) ∧ (w 0).pos < ceilDiv (tileBytes 0) 256
      ∧ ceilDiv (tileBytes 0) 256 ≤ (w 64).pos ∧ (s 64).servesRun 0 (.dev, 0x400000, tileBytes 0) = true
      ∧ (s 64).releasedArrived 0 (w 64) .dev 0x400000 (tileBytes 0) = true ∧ (s 64).stage ≠ 4 ∧ (s 64).engineOn 0 0 = true ∧ (s 64).engineTick 0 2 = true := by
  and_intros
  all_goals first | exact fun g => ⟨Nat.rec (g 0) fun i v => (addF32 v (g (i + 1))).1, rfl, fun _ => rfl⟩ | decide +kernel

/-- A cancelled copy, one at a page that stays or is missing, and a block whose write waits for no release. -/
theorem witness_CopiesArriveAndEnd_pages :
    let c := inCmd 0 0
    let s := engine runCtx [(0, c)]
    c.state = .running ∧ c.page = none ∧ c.translated = true ∧ c.cancelled = false ∧ c.pos < c.totalBytes ∧ c.err = 0 ∧ (inCmd 2 0).translated = false
      ∧ s.pageHeld (c.farAt c.pos).1 = false ∧ s.walk (c.farAt c.pos).1 = none
      ∧ ((paged (atWork s)).walk (c.farAt c.pos).1).isSome = true ∧ s.releasesDone 0 c = true := by
  and_intros <;> decide +kernel

/-- A context that a unit of its queue may take, the translation of a range and of nine, and a fault that is still open. -/
theorem witness_SchedulersBindAndPreempt_translation :
    let q := queuing Ctx.reset [unitFor 0]
    let p := pageState []
    let nine := { unitFor 0 with rngs := (upTo 9).map fun i => BitVec.ofNat 64 (2 ^ 49 + 2 ^ 47 + 2 * i) }
    unitFor 0 ∈ (q.core 0).ready ∧ (unitFor 0).stamp < q.now ∧ (∀ v ∈ (q.core 0).ready, v = unitFor 0) ∧ q.spills = []
      ∧ p.pageOf 0 = some page0 ∧ page0.vbase % 4096 = 0 ∧ page0.size % 4096 = 0 ∧ 0 < 0x4000000 ∧ page0.r = true ∧ p.pageOf 0x4000000 = none
      ∧ p.translateSpan true true 0 0 = .ok [] ∧ p.translateUnit nine = .tooMany ∧ p.unitHeld nine = false ∧ p.recordRoom = true
      ∧ ({ p with openFaults := [⟨5, 0, 0, 1, none⟩] } : State).heldFault 0 0 = true ∧ p.heldFault 0 0 = false := by
  and_intros <;> decide +kernel

/-- The space and the page tables that a save needs, and a restore whose area no retirement holds. -/
theorem witness_SavesRestoresAndRecords_areas :
    let s := atWork (on { runCtx with state := .stopping false false 4000 })
    s.areaServed 0 0 = true ∧ (s.launch.bind fun c => c.dies[dieOf 0]?).isSome = true ∧ s.areaSize 0 0 < 2 ^ 32 ∧ Memory.wf s.mem = true
      ∧ 0x1000000 + 0x1000000 ≤ deviceLimit ∧ restoring.quiesced 0x1000000 0x200000 = false ∧ (4096 : Nat) ≤ restoring.now := by
  and_intros <;> decide +kernel

/-- A unit that stops to end, with its engines quiet or not, with room for its area and record or without. -/
theorem witness_TasksEndAndCount_killed :
    let k := { runCtx with state := .ending ⟨6, 5, 0x1000, 1, false⟩ true false 9, unit := some (endingUnit true) }
    let s := atWork (on k)
    let step := { endingUnit false with isStep := true, block := 4 }
    let b := { atWork (on { k with unit := some step }) with blocks := [{ block0 with left := 2 }] }
    k.state = .ending ⟨6, 5, 0x1000, 1, false⟩ true false 9 ∧ s.me.unit = some (endingUnit true) ∧ (∀ g ∈ s.myCore.flights, g.x ≠ 0)
      ∧ (∀ d ∈ s.myCore.blocks, d.x ≠ 0) ∧ s.saveRoom 0 0 = true ∧ s.areaServed 0 0 = true ∧ s.recordRoom = true ∧ (on k).saveRoom 0 0 = false
      ∧ ({ s with frprod := 4 } : State).recordRoom = false ∧ (∃ g ∈ (landing [flight 1 none none] 0).myCore.flights, g.x = 0)
      ∧ (b.blocks.find? fun d => decide (d.id = step.block)) = some { block0 with left := 2 } ∧ 1 < 2 ∧ (endingUnit true).ctl.getLsbD 30 = true
      ∧ (endingUnit false).ctl.getLsbD 30 = false ∧ launch0.frbase + 64 ≤ deviceLimit := by
  and_intros
  all_goals first | exact ⟨_, List.mem_singleton.2 rfl, rfl⟩ | decide +kernel

/-- Packets on their way, in the averaging cycle, and cores that dispatch nothing in it. -/
theorem witness_UnitsReachTheirCores_paths :
    let s := atWork State.reset
    PathsOk (carrying s) ∧ s.now % 256 = 0 ∧ ¬({ s with now := 4097 } : State).now % 256 = 0 ∧ (s.ctx 0 0).state = .free ∧ ¬runCtx.state = .free
      ∧ (queuing Ctx.reset [unitFor 0]).choose 0 0 = some (unitFor 0) ∧ (queuing Ctx.reset [unitFor 0]).takesWork 0 = true := by
  unfold PathsOk; and_intros <;> decide +kernel

/-- Words of the base ISA that reach past local memory or past a window by their later bytes, or are misaligned; reservations; the modes. -/
theorem witness_CampBaseInstructions_limits :
    let m := (episode 1 1).camp 0
    let u := (episode 1 0).camp 0
    let f := { m with mstatus := 0x2000 }
    (u.allows true 1020 1 = true ∧ u.allows true 1023 1 = true ∧ u.allows true 1024 1 = false ∧ u.dataUser = true)
      ∧ (m.allows m.dataUser 131064 8 = true ∧ m.allows m.dataUser 131072 1 = false ∧ (131064 : Nat) % 8 = 0 ∧ ¬(65 : Nat) % 8 = 0)
      ∧ (∃ off : BitVec 21, off.toNat % 2 = 0 ∧ off.getMsbD 0 = true) ∧ m.machine = true ∧ u.machine = false ∧ m.resv = none
      ∧ ({ m with resv := some 64 } : Camp).resv = some 64 ∧ (m.r 1).toNat = 64 ∧ f.fpOn = true ∧ m.fpOn = false
      ∧ (decodeF f32 0x3F800000).isFin = true ∧ (decodeF f32 0x7FC00000).isNan = true ∧ f.fcsr.toNat / 32 % 8 = 0
      ∧ ({ f with fcsr := 0xA0 } : Camp).fcsr.toNat / 32 % 8 = 5 ∧ (∃ rs : BitVec 5, rs ≠ 0) := by
  and_intros
  all_goals first | exact ⟨0x100000, by decide, by decide⟩ | exact ⟨1, by decide⟩ | decide +kernel

/-- A doorbell with firmware and without. -/
theorem witness_OwnershipAndControlBlock_firmware :
    let s (b : Bool) : State := { owned (toBytes 8 3) false with firmware := b }
    (s true).owner = some 3 ∧ (s true).firmware = true ∧ (s false).firmware = false ∧ (s true).cmdRun = none ∧ commandOf (s true).cmd = some .start := by
  and_intros <;> decide

/-- LOAD_IMAGE with default tables and without, and while a pseudo-channel is being retired. -/
theorem witness_LoaderAndLaunch_tables :
    let s (b : Bool) : State := { loading imageBytes with tables := b }
    (s true).launch = some launch0 ∧ (s true).retiring = [] ∧ (s true).tables = true ∧ (s false).tables = false
      ∧ ({ s true with retiring := [(0, 0)] } : State).retiring ≠ [] ∧ ({ launch0 with asroot := 0 } : Launch).asroot = 0
      ∧ imageRefusal ((s true).bytes .host 0x100 136) = 0 := by
  and_intros <;> decide +kernel

/-- Units that KILL ends: a running one, a queued one, and one whose area a retirement holds; a reply for a saved unit. -/
theorem witness_CommandsOnUnits_kills :
    let q := queuing Ctx.reset [unitFor 0]
    runCtx.state = .running ∧ handledUnit.saved = none ∧ runCtx.strands.length = 1
      ∧ (q.allQueued.find? fun e => decide (e.2.taskid = 7)).isSome = true ∧ (unitFor 0).saved = none ∧ (unitFor 0).hasRun = false
      ∧ (unitFor 0).isStep = false ∧ q.recordRoom = true ∧ (unitFor 0).ctl.getLsbD 30 = false ∧ (endingUnit true).ctl.getLsbD 30 = true := by
  and_intros <;> decide +kernel

/-- The retirement that holds the area at 0x1000000, and the area itself. -/
def retiringArea (s : State) : State :=
  { s with saves := [area0], retiring := [((stackOf 0x1000000).2.1, (stackOf 0x1000000).2.2.2)], openFaults := [faultOf 1] }

theorem witness_CommandsOnUnits_held :
    let s := retiringArea (atWork (on { runCtx with unit := some savedUnit0 }))
    let r := { s with retiring := [] }
    savedUnit0.saved = some 0x1000000 ∧ (s.saves.find? fun z => decide (z.addr = 0x1000000)).isSome = true ∧ s.quiesced 0x1000000 64 = true
      ∧ (r.savedUnit 0 0 0).isSome = true ∧ r.quiesced 0x1000000 0x200000 = false ∧ (r.openFaults.find? fun f => decide (f.tag = 5)).isSome = true := by
  and_intros <;> decide +kernel

/-- A page table that a retirement holds, and pages that are settled now. -/
theorem witness_PagesMigrate_held :
    ({ pageState [] with retiring := [(0, 0)] } : State).retiring ≠ [] ∧ (pageState []).retiring = []
      ∧ (pageState [(0, 5, none)]).isSettled 0 = false ∧ ({ pageState [(0, 5, none)] with settled := [(0, 5000, 5)] } : State).isSettled 0 = true
      ∧ (256 : Nat) ≤ 256 := by
  and_intros <;> decide

/-- A switch without a spare, or of a pseudo-channel that is not being retired; numbers of cores past the last. -/
theorem witness_ResetsAndHostAccesses_switch :
    ({ State.reset with repaired := (upTo 8).map fun i => (0, i, i) } : State).spareOf 0 = none ∧ (0, 0) ∉ State.reset.retiring
      ∧ (256 : Nat) ≤ 300 ∧ (255 : Nat) < 256 := by
  and_intros <;> decide +kernel

end Sys2Proof.Tests
end

/-!
PROOFS. The control block (R364 to R368, R372): which claim an election takes, what a write to each register does, and how the registers read.
-/

namespace Sys2Proof.Machine

/-! ### Bytes of CMD -/

/-- Byte i of a 64-bit value (R4). -/
theorem setWidth_shiftRight_eq_ofNat (v : W64) (i : Nat) : (v >>> (8 * i)).setWidth 8 = BitVec.ofNat 8 (v.toNat / 256 ^ i) := by
  apply BitVec.eq_of_toNat_eq
  simp only [BitVec.toNat_setWidth, BitVec.toNat_ushiftRight, Nat.shiftRight_eq_div_pow, BitVec.toNat_ofNat, Nat.pow_mul]

/-- Digit i to the base 256 of a run of bytes is byte i of the run. -/
theorem ofNat_ofBytes_div (bs : List Byte) (i : Nat) : BitVec.ofNat 8 (ofBytes bs / 256 ^ i) = bs.getD i 0 := by
  induction bs generalizing i with
  | nil => simp [ofBytes]
  | cons b r ih =>
    have hb := b.isLt
    cases i with
    | zero =>
      apply BitVec.eq_of_toNat_eq
      simp only [ofBytes, Nat.pow_zero, Nat.div_one, BitVec.toNat_ofNat, List.getD_cons_zero]
      omega
    | succ i =>
      have tail : ofBytes (b :: r) / 256 = ofBytes r := by simp only [ofBytes]; omega
      rw [Nat.pow_succ', ← Nat.div_div_eq_div_mul, tail, ih, List.getD_cons_succ]

/-- Byte i of a 64-bit field is byte i from the field's place on. -/
theorem byte_entryField (bs : List Byte) (o i : Nat) (h : i < 8) :
    (BitVec.ofNat 64 (entryField bs o 8) >>> (8 * i)).setWidth 8 = bs.getD (o + i) 0 := by
  have hlen : ((bs.drop o).take 8).length ≤ 8 := List.length_take_le _ _
  have hlt : entryField bs o 8 < 2 ^ 64 :=
    Nat.lt_of_lt_of_le (ofBytes_lt _) (Nat.pow_le_pow_right (by decide) hlen)
  rw [setWidth_shiftRight_eq_ofNat, BitVec.toNat_ofNat, Nat.mod_eq_of_lt hlt, entryField, ofNat_ofBytes_div]
  simp only [List.getD_eq_getElem?_getD, List.getElem?_take_of_lt h, List.getElem?_drop]

@[simp] theorem length_overwrite (old : List Byte) (o : Nat) (bs : List Byte) : (overwrite old o bs).length = old.length := by
  simp [overwrite, upTo]

/-- What was written stands where it fell. -/
theorem getD_overwrite_at (old : List Byte) (o : Nat) (bs : List Byte) (i : Nat) (h : i < bs.length) (hold : o + i < old.length) :
    (overwrite old o bs).getD (o + i) 0 = bs.getD i 0 := by
  simp [overwrite, upTo, List.getD_eq_getElem?_getD, List.getElem?_range hold, h]

/-- Bytes outside the run written stay. -/
theorem getD_overwrite_of_not (old : List Byte) (o : Nat) (bs : List Byte) (i : Nat) (h : i < o ∨ o + bs.length ≤ i) :
    (overwrite old o bs).getD i 0 = old.getD i 0 := by
  have hout : ¬(o ≤ i ∧ i < o + bs.length) := by omega
  by_cases hi : i < old.length
  · simp [overwrite, upTo, List.getD_eq_getElem?_getD, List.getElem?_range hi, hout]
  · simp [overwrite, upTo, List.getD_eq_getElem?_getD, hi]

/-- Byte i of a 64-bit value in memory order (R4). -/
theorem getD_word8 (v : W64) (i : Nat) (h : i < 8) : (word8 v).getD i 0 = (v >>> (8 * i)).setWidth 8 := by
  rw [word8, getD_toBytes 8 v.toNat i h, setWidth_shiftRight_eq_ofNat]

/-! ### Fields of a value written -/

theorem field_zero_eq_setWidth {n : Nat} (v : BitVec n) (w : Nat) : field v 0 w = v.setWidth w := by
  rw [field, Nat.pow_zero, Nat.div_one, BitVec.ofNat_toNat]

/-! ### Elections (R365) -/

/-- The claim c comes before d or level with it: a higher priority, or the same and no higher master ID. -/
def Outranks (c d : BitVec 8 × BitVec 8 × W64) : Prop := d.2.1 < c.2.1 ∨ (d.2.1 = c.2.1 ∧ c.1 ≤ d.1)

theorem Outranks.refl (c : BitVec 8 × BitVec 8 × W64) : Outranks c c := .inr ⟨rfl, BitVec.le_refl _⟩

theorem Outranks.trans {c d e : BitVec 8 × BitVec 8 × W64} (h : Outranks c d) (g : Outranks d e) : Outranks c e := by
  unfold Outranks at *
  bv_omega

/-- The test by which an election displaces the winner so far decides the order of the two claims. -/
theorem outranks_of_not_ahead {w c : BitVec 8 × BitVec 8 × W64} (h : ¬(w.2.1 < c.2.1 ∨ (w.2.1 = c.2.1 ∧ c.1 < w.1))) : Outranks w c := by
  unfold Outranks
  bv_omega

theorem outranks_of_ahead {w c : BitVec 8 × BitVec 8 × W64} (h : w.2.1 < c.2.1 ∨ (w.2.1 = c.2.1 ∧ c.1 < w.1)) : Outranks c w := by
  unfold Outranks
  bv_omega

/-- Of claims there is a winner, one of them that outranks them all. -/
theorem exists_winner (l : List (BitVec 8 × BitVec 8 × W64)) (h : l ≠ []) : ∃ c ∈ l, (∀ d ∈ l, Outranks c d) ∧ winner l = some c := by
  induction l with
  | nil => exact absurd rfl h
  | cons c r ih =>
    by_cases hr : r = []
    · subst hr
      exact ⟨c, List.mem_cons_self, by simpa using Outranks.refl c, rfl⟩
    · obtain ⟨w, hw, hall, heq⟩ := ih hr
      simp only [winner, heq]
      by_cases hc : w.2.1 < c.2.1 ∨ (w.2.1 = c.2.1 ∧ c.1 < w.1)
      · refine ⟨c, List.mem_cons_self, fun d hd => ?_, if_pos hc⟩
        rcases List.mem_cons.mp hd with rfl | hd
        · exact Outranks.refl d
        · exact (outranks_of_ahead hc).trans (hall d hd)
      · refine ⟨w, List.mem_cons_of_mem c hw, fun d hd => ?_, if_neg hc⟩
        rcases List.mem_cons.mp hd with rfl | hd
        · exact outranks_of_not_ahead hc
        · exact hall d hd

theorem exec_electionWindowEnd_early {s : State} {e : Nat} (he : s.election = some e) (h : s.now < e) :
    exec .electionWindowEnd s = .next s := by
  change execElectionWindowEnd s = _
  simp only [execElectionWindowEnd, he, h, if_true]

theorem exec_electionWindowEnd_winner {s : State} {e : Nat} {w : BitVec 8 × BitVec 8 × W64} (he : s.election = some e) (h : e ≤ s.now)
    (hw : winner s.claims = some w) :
    exec .electionWindowEnd s = .next { s with election := none, claims := [], owner := some w.1, nonce := w.2.2 } := by
  change execElectionWindowEnd s = _
  simp only [execElectionWindowEnd, he, Nat.not_lt.mpr h, if_false, hw]

/-! ### Claims and release (R365, R366) -/

theorem State.claim_unowned {s : State} (h : s.owner = none) (m : BitVec 8) (v : W64) :
    s.claim m v = { s with
      claims := (s.claims.filter fun c => decide (c.1 ≠ m)) ++ [(m, s.priorityOf m, v)]
      election := some (s.election.getD (s.now + Config.millisecond)) } := by
  rw [State.claim, h, if_neg (by decide)]

theorem State.claim_owned {s : State} (h : s.owner.isSome = true) (m : BitVec 8) (v : W64) : s.claim m v = s := if_pos h

theorem State.claimPriority_unowned {s : State} (h : s.owner = none) (m : BitVec 8) (v : W64) :
    s.claimPriority m v = { s with claimPri := (s.claimPri.filter fun c => decide (c.1 ≠ m)) ++ [(m, v.setWidth 8)] } := by
  rw [State.claimPriority, h, if_neg (by decide), field_zero_eq_setWidth]

theorem State.claimPriority_owned {s : State} (h : s.owner.isSome = true) (m : BitVec 8) (v : W64) : s.claimPriority m v = s := if_pos h

theorem State.handOver_owner {s : State} {m : BitVec 8} (h : s.owner = some m) (succ : BitVec 8) :
    s.handOver m succ = { s with owner := if succ ≠ 0xFF ∧ Config.masterPresent succ.toNat = true then some succ else none } := if_pos h

theorem State.handOver_other {s : State} {m : BitVec 8} (h : s.owner ≠ some m) (succ : BitVec 8) : s.handOver m succ = s := if_neg h

theorem exec_claim (s : State) (m : BitVec 8) (v : W64) : exec (.claim m v) s = .next (s.claim m v) := rfl

theorem exec_claimpri (s : State) (m : BitVec 8) (v : W64) : exec (.claimpri m v) s = .next (s.claimPriority m v) := rfl

theorem exec_ownerRelease (s : State) (m succ : BitVec 8) : exec (.ownerRelease m succ) s = .next (s.handOver m succ) := rfl

/-! ### Writes to the control block (R364) -/

theorem exec_controlBlockWrite_claim (s : State) (m : BitVec 8) (v : W64) : exec (.controlBlockWrite m 0x008 v) s = .next (s.claim m v) := rfl

theorem exec_controlBlockWrite_claimpri (s : State) (m : BitVec 8) (v : W64) :
    exec (.controlBlockWrite m 0x010 v) s = .next (s.claimPriority m v) := rfl

/-- Who does not own the device writes CLAIM and CLAIMPRI alone. -/
theorem exec_controlBlockWrite_other {s : State} {m : BitVec 8} (h : s.owner ≠ some m) (v : W64) {o : Nat} (hc : o ≠ 0x008) (hp : o ≠ 0x010) :
    exec (.controlBlockWrite m o v) s = .next s := by
  change execControlBlockWrite m o v s = _
  rw [execControlBlockWrite, if_neg hc, if_neg hp, if_pos h]

section Owner

variable {s : State} {m : BitVec 8} (h : s.owner = some m) (v : W64)
include h

theorem exec_controlBlockWrite_release : exec (.controlBlockWrite m 0x018 v) s = .next (s.handOver m (v.setWidth 8)) := by
  change execControlBlockWrite m _ v s = _
  simp [execControlBlockWrite, h, field_zero_eq_setWidth]

theorem exec_controlBlockWrite_fqcons : exec (.controlBlockWrite m 0x048 v) s = .next { s with fqcons := v.setWidth 32 } := by
  change execControlBlockWrite m _ v s = _
  simp [execControlBlockWrite, h, field_zero_eq_setWidth]

theorem exec_controlBlockWrite_frcons : exec (.controlBlockWrite m 0x058 v) s = .next { s with frcons := v.setWidth 32 } := by
  change execControlBlockWrite m _ v s = _
  simp [execControlBlockWrite, h, field_zero_eq_setWidth]

theorem exec_controlBlockWrite_cmd {o : Nat} (hlo : 0x100 ≤ o) (hhi : o < 0x140) :
    exec (.controlBlockWrite m o v) s = .next { s with cmd := overwrite s.cmd (o - 0x100) (word8 v) } := by
  change execControlBlockWrite m o v s = _
  have hne : o ≠ 0x008 ∧ o ≠ 0x010 ∧ o ≠ 0x018 ∧ o ≠ 0x048 ∧ o ≠ 0x058 := by omega
  simp [execControlBlockWrite, h, hne, hlo, hhi]

theorem exec_controlBlockWrite_doorbell : exec (.controlBlockWrite m 0x140 v) s = .next s.doorbell := by
  change execControlBlockWrite m _ v s = _
  simp [execControlBlockWrite, h]

/-- Eight bytes written into CMD stand there, the others stay. -/
theorem controlBlockWrite_cmd_answers {o : Nat} (hlo : 0x100 ≤ o) (hhi : o + 8 ≤ 0x140) (hlen : s.cmd.length = 64) :
    Answers (.controlBlockWrite m o v) s fun u => u.cmd.length = 64
      ∧ (∀ i < 8, u.cmd.getD (o - 0x100 + i) 0 = (v >>> (8 * i)).setWidth 8)
      ∧ (∀ i, i < o - 0x100 ∨ o - 0x100 + 8 ≤ i → u.cmd.getD i 0 = s.cmd.getD i 0) ∧ u.mem = s.mem ∧ u.owner = s.owner := by
  have hword : (word8 v).length = 8 := length_toBytes 8 v.toNat
  refine ⟨_, exec_controlBlockWrite_cmd h v hlo (by omega), (length_overwrite ..).trans hlen, fun i hi => ?_, fun i hi => ?_, rfl, rfl⟩
  · exact (getD_overwrite_at s.cmd _ _ i (by omega) (by omega)).trans (getD_word8 v i hi)
  · exact getD_overwrite_of_not s.cmd _ _ i (by rwa [hword])

end Owner

/-! ### The doorbell (R367, R372) -/

theorem State.doorbell_busy {s : State} (h : s.cmdRun.isSome = true) : s.doorbell = s := if_pos h

theorem State.doorbell_submits {s : State} {i : Instr} (hr : s.cmdRun = none) (hf : s.firmware = true) (hi : commandOf s.cmd = some i) :
    s.doorbell = { s with cmdRun := some (s.later, i), cmdCode := BitVec.ofNat 8 (entryField s.cmd 0 8), freeN := s.freeN + 1 } := by
  simp [State.doorbell, hr, hf, hi]

/-- Without firmware a command is refused, with it one that R368 does not list. -/
theorem State.doorbell_refused {s : State} (hr : s.cmdRun = none) (h : s.firmware = false ∨ commandOf s.cmd = none) :
    s.doorbell = { s with cmdCode := BitVec.ofNat 8 (entryField s.cmd 0 8), cmdResult := if s.firmware = true then 0x10 else 0x11 } := by
  have result (r : Nat) : s.result (entryField s.cmd 0 8) r
      = { s with cmdCode := BitVec.ofNat 8 (entryField s.cmd 0 8), cmdResult := BitVec.ofNat 8 r } := by
    rw [State.result, ← hr]
  cases hf : s.firmware with
  | false => simp [State.doorbell, hr, hf, result]
  | true =>
    have hi : commandOf s.cmd = none := h.resolve_left (by simp [hf])
    simp [State.doorbell, hr, hf, hi, result]

theorem State.now_lt_later (s : State) : s.now < s.later := by
  rw [State.later]
  omega

/-! ### Reads of the control block (R364, R6) -/

theorem State.toNat_ownStat (s : State) :
    s.ownStat.toNat = (s.owner.getD 0xFF).toNat * 2 ^ 8 + 2 * s.election.isSome.toNat + s.owner.isSome.toNat := by
  have ho := (s.owner.getD 0xFF#8).isLt
  rw [State.ownStat, BitVec.toNat_ofNat]
  cases s.election.isSome <;> cases s.owner.isSome <;> simp <;> omega

theorem State.toNat_devStat (s : State) : s.devStat.toNat = s.memready.toNat + 2 * s.resetting.toNat := by
  rw [State.devStat, BitVec.toNat_ofNat]
  cases s.memready <;> cases s.resetting <;> rfl

theorem State.toNat_cmdStat (s : State) :
    s.cmdStat.toNat = 2 ^ 63 * s.cmdRun.isSome.toNat + s.cmdCode.toNat * 2 ^ 8 + s.cmdResult.toNat := by
  have hc := s.cmdCode.isLt
  have hr := s.cmdResult.isLt
  rw [State.cmdStat, BitVec.toNat_ofNat]
  cases s.cmdRun.isSome <;> simp <;> omega

/-- A bit found by division. -/
theorem getLsbD_of_div_mod {n : Nat} {v : BitVec n} {i : Nat} {b : Bool} (h : v.toNat / 2 ^ i % 2 = b.toNat) : v.getLsbD i = b := by
  rw [BitVec.getLsbD, Nat.testBit_eq_decide_div_mod_eq, h]
  cases b <;> rfl

theorem State.ownStat_layout (s : State) : s.ownStat.toNat / 2 ^ 16 = 0 ∧ s.ownStat.toNat / 2 ^ 8 % 256 = (s.owner.getD 0xFF).toNat
    ∧ s.ownStat.toNat / 4 % 64 = 0 ∧ s.ownStat.getLsbD 1 = s.election.isSome ∧ s.ownStat.getLsbD 0 = s.owner.isSome := by
  have hv := s.toNat_ownStat
  have ho := (s.owner.getD 0xFF).isLt
  have he := s.election.isSome.toNat_le
  have hs := s.owner.isSome.toNat_le
  exact ⟨by omega, by omega, by omega, getLsbD_of_div_mod (by omega), getLsbD_of_div_mod (by omega)⟩

theorem State.devStat_layout (s : State) :
    s.devStat.getLsbD 0 = s.memready ∧ s.devStat.getLsbD 1 = s.resetting ∧ s.devStat.toNat / 4 = 0 := by
  have hv := s.toNat_devStat
  have hm := s.memready.toNat_le
  have hr := s.resetting.toNat_le
  exact ⟨getLsbD_of_div_mod (by omega), getLsbD_of_div_mod (by omega), by omega⟩

theorem State.cmdStat_layout (s : State) : s.cmdStat.getLsbD 63 = s.cmdRun.isSome ∧ s.cmdStat.toNat / 2 ^ 8 % 256 = s.cmdCode.toNat
    ∧ s.cmdStat.toNat % 256 = s.cmdResult.toNat := by
  have hv := s.toNat_cmdStat
  have hc := s.cmdCode.isLt
  have hr := s.cmdResult.isLt
  have hb := s.cmdRun.isSome.toNat_le
  exact ⟨getLsbD_of_div_mod (by omega), by omega, by omega⟩

theorem State.controlBlock_cmd (s : State) {o : Nat} (hlo : 0x100 ≤ o) (hhi : o < 0x140) :
    s.controlBlock o = BitVec.ofNat 64 (entryField s.cmd (o - 0x100) 8) := by
  have hne : o ≠ 0 ∧ o ≠ 0x020 ∧ o ≠ 0x028 ∧ o ≠ 0x040 ∧ o ≠ 0x048 ∧ o ≠ 0x050 ∧ o ≠ 0x058 := by omega
  simp [State.controlBlock, hne, hlo, hhi]

theorem State.controlBlock_writeOnly (s : State) : ∀ o ∈ [0x008, 0x010, 0x018, 0x140], s.controlBlock o = 0 := by
  simp [State.controlBlock]

/-! ### The obligation -/

/-- Settles O55: each register's write and read is one of the equations above, and an election takes the claim of `exists_winner`. -/
theorem ownershipAndControlBlock : Obligations.OwnershipAndControlBlock := by
  unfold Obligations.OwnershipAndControlBlock
  intro s m succ v claimed prioritised handed write
  refine ⟨fun h => ?unowned, fun h => ?owned, fun e he hlt => exec_electionWindowEnd_early he hlt, fun e he hle hne => ?election,
    fun h => ?owner, fun h => ?other, ?reads⟩
  case unowned =>
    have hc : s.claim m v = claimed := State.claim_unowned h m v
    have hp : s.claimPriority m v = prioritised := State.claimPriority_unowned h m v
    rw [← hc, ← hp]
    exact ⟨exec_claim s m v, exec_controlBlockWrite_claim s m v, exec_claimpri s m v, exec_controlBlockWrite_claimpri s m v⟩
  case owned =>
    refine ⟨?_, ?_, ?_, ?_⟩
    · rw [exec_claim, State.claim_owned h]
    · rw [exec_claimpri, State.claimPriority_owned h]
    · exact (exec_controlBlockWrite_claim s m v).trans (by rw [State.claim_owned h])
    · exact (exec_controlBlockWrite_claimpri s m v).trans (by rw [State.claimPriority_owned h])
  case election =>
    obtain ⟨c, hc, hall, hw⟩ := exists_winner s.claims hne
    exact ⟨c, hc, hall, exec_electionWindowEnd_winner he hle hw⟩
  case owner =>
    have released : s.handOver m succ = handed := State.handOver_owner h succ
    refine ⟨by rw [exec_ownerRelease, released], fun hv => ?_, exec_controlBlockWrite_fqcons h v, exec_controlBlockWrite_frcons h v,
      fun o hlo hhi hlen => controlBlockWrite_cmd_answers h v hlo hhi hlen, fun hr => ?_, fun hr hf i hi => ?_, fun hr hf => ?_⟩
    · exact (exec_controlBlockWrite_release h v).trans (by rw [hv, released])
    · exact (exec_controlBlockWrite_doorbell h v).trans (by rw [State.doorbell_busy hr])
    · refine ⟨s.doorbell, exec_controlBlockWrite_doorbell h v, ?_⟩
      rw [State.doorbell_submits hr hf hi]
      exact ⟨⟨s.later, s.now_lt_later, rfl⟩, rfl, rfl⟩
    · exact (exec_controlBlockWrite_doorbell h v).trans (by rw [State.doorbell_refused hr hf])
  case other =>
    exact ⟨by rw [exec_ownerRelease, State.handOver_other h], fun o hc hp => exec_controlBlockWrite_other h v hc hp⟩
  case reads =>
    obtain ⟨high, owner, gap, elect, owned⟩ := s.ownStat_layout
    obtain ⟨ready, resetting, rest⟩ := s.devStat_layout
    obtain ⟨busy, code, result⟩ := s.cmdStat_layout
    refine ⟨high, owner, gap, elect, owned, ready, resetting, rest, busy, code, result, rfl, rfl, rfl, rfl, rfl, fun o hlo hhi _ i hi => ?_,
      s.controlBlock_writeOnly⟩
    rw [s.controlBlock_cmd hlo (by omega), byte_entryField _ _ _ hi]

end Sys2Proof.Machine
